-- ==== Sys2Proof/Word.lean ====
section
/-! DEFINITION. The word types and their plainest arithmetic, and the sparse map in one canonical form that every
indexed piece of state uses (registers, memory bytes, pages, queues): a list of (key, value) pairs, keys strictly
rising, no entry equal to what an unlisted key reads as. -/

namespace Sys2Proof

abbrev Byte := BitVec 8
abbrev W32 := BitVec 32
abbrev W64 := BitVec 64

/-- A part has a fixed number of every unit; a number beyond it names nothing (R5). -/
def inRange (n bound : Nat) : Bool := decide (n < bound)

/-- Bits [hi:lo] of a register-sized word, as a number. -/
def bits (w : W64) (hi lo : Nat) : Nat := (w.toNat >>> lo) % 2 ^ (hi + 1 - lo)

/-- The mask with ones in [hi:lo]. -/
def maskOf (hi lo : Nat) : W64 := BitVec.ofNat 64 ((2 ^ (hi + 1 - lo) - 1) <<< lo)

/-- The word `w` with its field [hi:lo] set to `v` (cut to the field). -/
def setBits (w : W64) (hi lo v : Nat) : W64 :=
  (w &&& ~~~ (maskOf hi lo)) ||| (BitVec.ofNat 64 ((v % 2 ^ (hi + 1 - lo)) <<< lo))

/-- Ceiling division. -/
def ceilDiv (a b : Nat) : Nat := (a + b - 1) / b

/-- `v` held between two limits. -/
def clampNat (lo hi v : Nat) : Nat := if v < lo then lo else if hi < v then hi else v

def clampInt (lo hi v : Int) : Int := if v < lo then lo else if hi < v then hi else v

/-- A sum that stops at `top` (saturating counters). -/
def satAddNat (top a b : Nat) : Nat := if top < a + b then top else a + b

/-- `n` bytes of `v`, the least significant first (R7). -/
def leBytes : Nat → Nat → List Byte
  | 0, _ => []
  | n + 1, v => BitVec.ofNat 8 v :: leBytes n (v / 256)

/-- The number that bytes spell, the least significant first (R7). -/
def ofLeBytes : List Byte → Nat
  | [] => 0
  | b :: t => b.toNat + 256 * ofLeBytes t

/-- 32-bit words as bytes in memory order (R7, R8). -/
def wordsToBytes (ws : List W32) : List Byte := ws.flatMap fun w => leBytes 4 w.toNat

/-- The first `n` 32-bit words of a byte list (missing bytes read as zero). -/
def bytesToWords : Nat → List Byte → List W32
  | 0, _ => []
  | n + 1, bs => BitVec.ofNat 32 (ofLeBytes (bs.take 4)) :: bytesToWords n (bs.drop 4)

/-- A sparse map: (key, value) pairs. -/
abbrev Map (α : Type) := List (Nat × α)

/-- What `m` holds at `k`; `d k` where `k` is not listed. -/
def Map.get {α : Type} (d : Nat → α) : Map α → Nat → α
  | [], k => d k
  | (a, v) :: t, k => if a = k then v else Map.get d t k

/-- Insert in key order. -/
def Map.ins {α : Type} (k : Nat) (v : α) : Map α → Map α
  | [] => [(k, v)]
  | (a, w) :: t => if k < a then (k, v) :: (a, w) :: t else (a, w) :: Map.ins k v t

/-- `m` without the key `k`. -/
def Map.del {α : Type} (m : Map α) (k : Nat) : Map α := m.filter fun p => p.1 != k

/-- `m` with `v` at `k`, in the canonical form (a default value is not listed). -/
def Map.set {α : Type} [DecidableEq α] (d : Nat → α) (m : Map α) (k : Nat) (v : α) : Map α :=
  if v = d k then Map.del m k else Map.ins k v (Map.del m k)

/-- The canonical form: keys strictly rising, and no entry at its default. -/
abbrev Map.wf {α : Type} [DecidableEq α] (d : Nat → α) (m : Map α) : Prop :=
  m.Pairwise (fun p q => p.1 < q.1) ∧ ∀ p ∈ m, p.2 ≠ d p.1

/-- A rising list of numbers, used as a set. -/
abbrev NatSet := List Nat

def NatSet.ins (k : Nat) : NatSet → NatSet
  | [] => [k]
  | a :: t => if k < a then k :: a :: t else if k = a then a :: t else a :: NatSet.ins k t

def NatSet.del (m : NatSet) (k : Nat) : NatSet := m.filter fun a => a != k

/-- Add or remove. -/
def NatSet.put (m : NatSet) (k : Nat) (b : Bool) : NatSet := if b then NatSet.ins k m else NatSet.del m k

/-- Update the first element that satisfies `p`. -/
def updFirst {α : Type} (p : α → Bool) (f : α → α) : List α → List α
  | [] => []
  | a :: t => if p a then f a :: t else a :: updFirst p f t

/-- Remove the first element that satisfies `p`. -/
def dropFirst {α : Type} (p : α → Bool) : List α → List α
  | [] => []
  | a :: t => if p a then t else a :: dropFirst p t

/-- Element `i` of a list, `d` beyond its end. -/
def nth {α : Type} (d : α) : List α → Nat → α
  | [], _ => d
  | a :: _, 0 => a
  | _ :: t, i + 1 => nth d t i

/-- `l` with element `i` replaced (unchanged beyond its end). -/
def setNth {α : Type} : List α → Nat → α → List α
  | [], _, _ => []
  | _ :: t, 0, v => v :: t
  | a :: t, i + 1, v => a :: setNth t i v

end Sys2Proof
end

