-- ==== Sys2Proof/Syntax.lean ====
section
/-! DEFINITION. The commands: Instr, one constructor per row of spec/opcode_table.json, with the row's operands. A
packet row is a command packet that reaches the head of its queue; its operands are the packet's header (R311) and the
fields its layout names. An event row is something that happens inside the part, on its pins, on its links or in its
host and management interfaces; its operands name the unit and what arrives. -/

namespace Sys2Proof

/-- The packet header (R311), without the opcode, which the row gives; `ring` is the queue whose ring holds the packet. -/
structure Hdr where
  ring : BitVec 15
  queue : BitVec 15
  pver : BitVec 4
  tag : BitVec 16
  fence : Bool
  waitEn : Bool
  signalEn : Bool
  noCpl : Bool
  irq : Bool
  stageEnd : Bool
  lantern : Bool
  size : BitVec 2
  waitCtr : BitVec 12
  signalCtr : BitVec 12
  waitValue : W32
deriving DecidableEq, Repr

/-- What an ECC decoder finds while a line is read (R227). -/
inductive EccKind where
  | corrected
  | uncorrectable
deriving DecidableEq, Repr

/-- An ECC finding at a local address of the reading context (R227, R228). -/
structure EccHit where
  addr : W64
  kind : EccKind
deriving DecidableEq, Repr

/-- TB_COPY fields (R209). -/
structure TbCopyP where
  src : W64
  dst : W64
  count : BitVec 24
  srcStep : W32
  dstStep : W32
  check : Bool
deriving DecidableEq, Repr

/-- TB_BUILD fields (R210). -/
structure TbBuildP where
  type : BitVec 16
  strideLines : BitVec 16
  src : W64
  srcStride : W32
  scaleAddr : W64
  row0 : W32
  nCodes : BitVec 24
  nRows : BitVec 8
  col0 : W32
  dst : W64
deriving DecidableEq, Repr

/-- ARR_MATMUL fields (R110). -/
structure MatmulP where
  engine : BitVec 11
  quarter : BitVec 2
  slot : BitVec 3
  cont : Bool
  init : BitVec 2
  drain : Bool
  typeA : BitVec 16
  typeB : BitVec 16
  ta : Bool
  tb : Bool
  mRows : BitVec 8
  nCols : BitVec 8
  kLen : BitVec 24
  aBase : BitVec 20
  aStride : BitVec 20
  bBase : BitVec 20
  bStride : BitVec 20
  aScale : BitVec 20
  bScale : BitVec 20
  preloadDesc : W64
  epiDesc : W64
deriving DecidableEq, Repr

/-- ARR_DRAIN fields (R114). -/
structure DrainP where
  engine : BitVec 11
  slot : BitVec 3
  discard : Bool
  epiDesc : W64
deriving DecidableEq, Repr

/-- QNT_CONVERT fields (R169). -/
structure ConvertP where
  quantiser : BitVec 7
  scaleSrc : BitVec 2
  capture : Bool
  outMode : BitVec 2
  almCheck : Bool
  statsEn : Bool
  colmaxEn : Bool
  typeIn : BitVec 16
  typeOut : BitVec 16
  almSlot : BitVec 12
  scaleRegBase : BitVec 15
  n0 : W32
  n1 : W32
  srcAddr : W64
  srcStride : W32
  dstAddr : W64
  dstStride : W32
  scaleAddr : W64
  listAddr : W64
  sideAddr : W64
  sideStride : W32
  colmaxAddr : W64
  blkAddr : W64
  rndStream : W32
  elemBase : W64
  ldElems : W32
  mxScaleAddr : W64
deriving DecidableEq, Repr

/-- QNT_SCALE_LOAD fields (R171). -/
structure ScaleLoadP where
  quantiser : BitVec 7
  store : Bool
  regBase : BitVec 15
  count : BitVec 16
  addr : W64
deriving DecidableEq, Repr

/-- QNT_OUTLIER_SELECT fields (R172). -/
structure OutlierP where
  quantiser : BitVec 7
  gap : BitVec 4
  almSlot : BitVec 12
  statsEn : Bool
  length : W32
  cap : W32
  colmaxAddr : W64
  listAddr : W64
deriving DecidableEq, Repr

/-- ALM_SLOT_WRITE fields (R173). -/
structure AlmWriteP where
  slot : BitVec 12
  clearFlags : Bool
  setWidth : Bool
  setConfig : Bool
  widthMin : BitVec 4
  widthMax : BitVec 4
  width : BitVec 4
  adaptEn : Bool
  blkStorm : Bool
  thrHi : W32
  thrLo : W32
  stormThr : BitVec 16
  lowSteps : BitVec 8
deriving DecidableEq, Repr

/-- ELT_KERNEL fields (R185). -/
structure KernelP where
  elt : BitVec 8
  infOk : Bool
  kernelAddr : W64
  n : W32
  argAddr : W64
  elemBase : W64
  streams : List W32
  dstAddr : W64
  dstLen : W64
  streamCount : BitVec 3
deriving DecidableEq, Repr

/-- The arithmetic of an element engine (R180). -/
inductive KOp where
  | add | sub | mul | div | sqrt | fma | rsqrt | exp2 | log2 | min | max
deriving DecidableEq, Repr

/-- One operation of a kernel, in order, over registers of binary32 values. The kernel encoding is not part of the
interface (R185), so what a kernel does comes with the command: a load of a scalar element, or of element `index` of an MX
array under the block scale at `scaleAddr` (R43, R49); a read that no register keeps, as of its argument block; a value of
its own; an operation on registers (R180); a store in a scalar format, or as an MX element, rounded to nearest even or
stochastically with a stream of the command and a use index (R187); a store of a block scale of the block that holds
element `elem` (R49). -/
inductive KAccess where
  | load (dst : Nat) (addr : W64) (fmt : BitVec 8)
  | loadMx (dst : Nat) (base : W64) (index : Nat) (scaleAddr : W64) (fmt : BitVec 8)
  | read (addr : W64) (len : Nat)
  | const (dst : Nat) (value : W32)
  | op (f : KOp) (dst a b c : Nat)
  | store (addr : W64) (fmt : BitVec 8) (elem : W64) (src : Nat) (draw : Option (Fin 4 × BitVec 31))
  | storeMx (base : W64) (index : Nat) (scaleAddr : W64) (fmt : BitVec 8) (elem : W64) (src : Nat)
      (draw : Option (Fin 4 × BitVec 31))
  | scale (addr : W64) (byte : Byte) (elem : W64)
deriving DecidableEq, Repr

/-- ELT_UPDATE fields (R182). -/
structure UpdateP where
  elt : BitVec 8
  opt : BitVec 4
  remEn : Bool
  typeM : BitVec 16
  typeV : BitVec 16
  typeG : BitVec 16
  typeW : BitVec 16
  n : W32
  wAddr : W64
  remAddr : W64
  mAddr : W64
  vAddr : W64
  gAddr : W64
  lr : W32
  beta1 : W32
  beta2 : W32
  eps : W32
  wd : W32
  gradScale : W32
  bc1 : W32
  bc2 : W32
  mStream : W32
  vStream : W32
  elemBase : W64
deriving DecidableEq, Repr

/-- RNG_STREAM_REG fields (R189). -/
structure StreamRegP where
  unregister : Bool
  stream : W32
  base : W64
  len : W64
deriving DecidableEq, Repr

/-- FAB_ATOMIC fields (R280). -/
structure FabAtomicP where
  addr : W64
  operand : W64
  compare : W64
  op : BitVec 2
  oldAddr : W64
deriving DecidableEq, Repr

/-- COLL_REDUCE_SCATTER fields (R284). -/
structure ReduceP where
  die : BitVec 3
  bucket : BitVec 20
  typeIn : BitVec 16
  typeOut : BitVec 16
  n : W32
  partAddr : W64
  outAddr : W64
  groupAddr : W64
  deadlineUs : BitVec 24
  recAddr : W64
deriving DecidableEq, Repr

/-- COLL_ALL_GATHER fields (R298). -/
structure GatherP where
  die : BitVec 3
  bucket : BitVec 20
  type : BitVec 16
  n : W32
  shardAddr : W64
  outAddr : W64
  groupAddr : W64
deriving DecidableEq, Repr

/-- The shared layout of the tier commands (R213). -/
structure TierP where
  target : Bool
  va : W64
  count : BitVec 24
  dstAddr : W64
deriving DecidableEq, Repr

/-- EQX_PROTECT fields (R242). -/
structure ProtectP where
  unprotect : Bool
  digest : Bool
  va : W64
  count : BitVec 24
deriving DecidableEq, Repr

/-- CFG_WRITE fields (R329). -/
structure CfgWriteP where
  addr : W64
  wide : Bool
  value : W64
  mask : W64
deriving DecidableEq, Repr

/-- CFG_COMMIT fields (R332). -/
structure CommitP where
  idle : Bool
  group : Bool
  txnId : W32
  voteUs : BitVec 24
deriving DecidableEq, Repr

/-- CAL_LOAD fields (R325). -/
structure CalLoadP where
  cal : BitVec 6
  length : BitVec 9
  loopEnd : BitVec 9
  loopStart : BitVec 9
  loopCount : BitVec 16
  addr : W64
deriving DecidableEq, Repr

/-- QUEUE_CREATE fields (R322). -/
structure QueueCreateP where
  queue : BitVec 15
  context : BitVec 6
  priv : Bool
  calMember : Bool
  member : BitVec 5
  cal : BitVec 6
  pver : BitVec 4
  ringLog2 : BitVec 5
  cplLog2 : BitVec 5
  ringBase : W64
  cplBase : W64
  maxInflight : BitVec 11
  msix : BitVec 11
deriving DecidableEq, Repr

/-- CTX_ASSIGN fields (R324): the mask is words 5 to 8, word 5 lowest. -/
structure CtxAssignP where
  context : BitVec 6
  release : Bool
  mask : BitVec 128
deriving DecidableEq, Repr

/-- CNT_SELECT fields (R395). -/
structure CntSelectP where
  die : BitVec 3
  counter : BitVec 6
  enable : Bool
  event : BitVec 16
  qualifier : BitVec 16
  ctxEn : Bool
  ctx : BitVec 6
deriving DecidableEq, Repr

/-- The sums of a statistics block (R162). -/
structure StatSum where
  elements : Nat
  sat : Nat
  zeroed : Nat
  nonfinite : Nat
  errSum : Nat
  sigSum : Nat
  blocksZero : Nat
  blocksSat : Nat
  blocksNonfinite : Nat
  outlierCand : Nat
  hist : List Nat
deriving DecidableEq, Repr

/-- The exchange record of a member (R236). -/
structure ExRec where
  epoch : W64
  digest : BitVec 256
  nonfinite : Bool
  poison : Bool
  reductionMissing : Bool
  copyQuota : Bool
  ckptReady : Bool
  alm : List (Nat × StatSum)
deriving DecidableEq, Repr

/-- A capability flit of a link peer (R271); `keyOk`: its signed key share verifies (R269). -/
structure CapFlit where
  vmin : BitVec 8
  vmax : BitVec 8
  switchPort : Bool
  partId : BitVec 16
  digest : W64
  encrypt : Bool
  lanes : BitVec 4
  keyOk : Bool
deriving DecidableEq, Repr

/-- A flit (R266) but for its type, which the row that brings it names; `payload`: up to 232 bytes, zeros after them. -/
structure Flit where
  fseq : BitVec 12
  ackseq : BitVec 12
  vc : BitVec 4
  credits : BitVec 16
  creditVc : BitVec 2
  firstPkt : BitVec 6
  payload : List Byte
  fcrc : W32
  tag : W64
deriving DecidableEq, Repr

/-- Words 0 and 1 of a flit (R266). -/
structure FlitHead where
  fseq : BitVec 12
  ackseq : BitVec 12
  vc : BitVec 4
  credits : BitVec 16
  creditVc : BitVec 2
  firstPkt : BitVec 6
deriving DecidableEq, Repr

/-- The check words of a flit (R266, R269). -/
structure FlitCheck where
  fcrc : W32
  tag : W64
deriving DecidableEq, Repr

/-- The flit of a header, a payload and check words. -/
def Flit.of (h : FlitHead) (payload : List Byte) (k : FlitCheck) : Flit :=
  { fseq := h.fseq, ackseq := h.ackseq, vc := h.vc, credits := h.credits, creditVc := h.creditVc
    firstPkt := h.firstPkt, payload := payload, fcrc := k.fcrc, tag := k.tag }

/-- A transaction-layer packet (R278). For requests and responses `tagSlot` is the tag, `w4` and `w5` the address and
`w6` the length; for collective packets `tagSlot` is the slot, `w4` the epoch, `w5` attempt, phase and bucket, and `w6`
the offset. -/
structure Pkt where
  cls : BitVec 4
  pver : BitVec 4
  fop : BitVec 8
  dstPart : BitVec 16
  srcPart : BitVec 16
  dstCtx : BitVec 6
  srcCtx : BitVec 6
  seq : W32
  tagSlot : BitVec 16
  status : BitVec 8
  poison : BitVec 8
  w4 : W32
  w5 : W32
  w6 : W32
  payload : List Byte
  ecrc : W32
deriving DecidableEq, Repr

/-- A packet with `ws` as the first words of its payload, before those it holds. -/
def Pkt.leading (ws : List W32) (k : Pkt) : Pkt := { k with payload := wordsToBytes ws ++ k.payload }

/-- What the HBM patrol finds at a line (R227). -/
inductive PatrolFind where
  | clean
  | corrected
  | uncorrectable
deriving DecidableEq, Repr

/-- What starts a warm reset by a pin or the host link (R407). -/
inductive WarmSource where
  | perst (held : Bool)
  | hotReset
deriving DecidableEq, Repr

/-- A unit that draws current under the ramp governor (R353), by its number within the die. -/
inductive GovUnit where
  | engine (i : Nat)
  | elt (i : Nat)
  | qnt (i : Nat)
  | coll
deriving DecidableEq, Repr

/-- What runtime firmware reports at the end of bring-up (R414): the units that failed self-test, the memories and
channels that trained, the slack that each die shows, the dies whose regulator does not acknowledge the setpoint write of the
start, and those whose regulator does not acknowledge the write that raises it after the first measurement (R420), and where it placed the register windows (R411). -/
structure BringUp where
  hbmFail : Option (BitVec 4)
  badEngines : List Nat
  badPairs : List (Nat × Nat)
  badElts : List Nat
  badQnts : List Nat
  badPortLanes : List (Nat × Nat)
  badClusters : List Nat
  channels : W32
  flashBytes : W64
  readOnly : Bool
  slackPs : List Nat
  vrNack : List Nat
  vrRaiseNack : List Nat
  bases : List Nat
deriving DecidableEq, Repr

/-- The three MCTP bindings (R386). -/
inductive Binding where
  | smbus | i3c | sgmii
deriving DecidableEq, Repr

/-- PLDM Type 2 requests (R387, R393), the reading of the boot phase among them (R415; log entry 87). -/
inductive MonReq where
  | readSensor (id : BitVec 16)
  | bootPhase
  | setReceiver (eid : BitVec 8)
deriving DecidableEq, Repr

/-- PLDM Type 5 requests (R389). -/
inductive FwReq where
  | write (version : BitVec 16) (image : List Byte)
  | verify (key : List Byte) (sig : List Byte)
  | activate
deriving DecidableEq, Repr

/-- PLDM Type 63 requests (R387). -/
inductive OemReq where
  | capTable | powerDescriptor | eventLog | vigilRecords
deriving DecidableEq, Repr

/-- SPDM requests (R387). -/
inductive SpdmReq where
  | getCertificate
  | challenge
  | getMeasurements (index : BitVec 8)
deriving DecidableEq, Repr

/-- Frames at the SGMII port outside MCTP (R388). -/
inductive NetFrame where
  | arp
  | icmpEcho
  | udp (port : BitVec 16)
  | other
deriving DecidableEq, Repr

/-- The commands: one constructor per row of the table. -/
inductive Instr where
  -- control commands (R321)
  | nop (h : Hdr)
  | ctrSet (h : Hdr) (counter : BitVec 12) (value : W32)
  | capRead (h : Hdr) (dst : W64) (maxBytes : W32)
  | ctrRead (h : Hdr) (first : BitVec 12) (count : BitVec 13) (dst : W64)
  | ctrWaitMem (h : Hdr) (addr value : W64)
  | ctrWaitMemRetest (queue : BitVec 15)
  | unassignedOpcode (h : Hdr) (opcode : BitVec 12)
  -- data movement
  | memCopy (h : Hdr) (src dst len : W64) (ecc : List EccHit)
  | tbCopy (h : Hdr) (p : TbCopyP)
  | tbBuild (h : Hdr) (p : TbBuildP)
  -- array commands
  | arrMatmul (h : Hdr) (p : MatmulP)
  | arrDrain (h : Hdr) (p : DrainP)
  | arrMode (h : Hdr) (engine : BitVec 11) (quarter : Bool)
  | arrMapRead (h : Hdr) (dst : W64) (first : BitVec 11) (count : BitVec 12)
  -- quantisers and the Almanac
  | qntConvert (h : Hdr) (p : ConvertP)
  | qntScaleLoad (h : Hdr) (p : ScaleLoadP)
  | qntOutlierSelect (h : Hdr) (p : OutlierP)
  | almSlotWrite (h : Hdr) (p : AlmWriteP)
  -- element engines and random streams
  | eltKernel (h : Hdr) (p : KernelP) (found : Bool) (acc : List KAccess)
  | eltUpdate (h : Hdr) (p : UpdateP)
  | rngStreamReg (h : Hdr) (p : StreamRegP)
  -- fabric and collective commands
  | fabGet (h : Hdr) (src dst len : W64)
  | fabPut (h : Hdr) (src dst len : W64)
  | fabAtomic (h : Hdr) (p : FabAtomicP)
  | fabFence (h : Hdr)
  | fabTbCopy (h : Hdr) (p : TbCopyP)
  | collReduceScatter (h : Hdr) (p : ReduceP)
  | collAllGather (h : Hdr) (p : GatherP)
  | fenceClear (h : Hdr) (rank : BitVec 16)
  | partRejoin (h : Hdr) (epoch rngStep : W64)
  -- tiers
  | tierMap (h : Hdr) (p : TierP)
  | tierUnmap (h : Hdr) (p : TierP)
  | tierSeal (h : Hdr) (p : TierP)
  | tierUnseal (h : Hdr) (p : TierP)
  | tierMigrate (h : Hdr) (p : TierP)
  | tierQuery (h : Hdr) (p : TierP)
  -- Equinox, images
  | eqxBarrier (h : Hdr) (ckpt : Bool)
  | eqxProtect (h : Hdr) (p : ProtectP)
  | eqxResume (h : Hdr)
  | imageList (h : Hdr) (dst : W64)
  | imageRelease (h : Hdr) (imageId : W32)
  | harvest (h : Hdr) (imageId : W32)
  -- configuration transactions and the admin commands
  | cfgBegin (h : Hdr)
  | cfgWrite (h : Hdr) (p : CfgWriteP)
  | cfgAbort (h : Hdr)
  | cfgCommit (h : Hdr) (p : CommitP)
  | calLoad (h : Hdr) (p : CalLoadP)
  | queueCreate (h : Hdr) (p : QueueCreateP)
  | queueDestroy (h : Hdr) (queue : BitVec 15)
  | ctxAssign (h : Hdr) (p : CtxAssignP)
  | checkTile (h : Hdr) (engine : BitVec 11) (pattern : BitVec 4) (badGroups : List Nat)
  | vigilSnapshot (h : Hdr) (follow : Bool) (dst : W64) (maxBytes : W32)
  | cntSelect (h : Hdr) (p : CntSelectP)
  -- doorbells and completions
  | cfgDbProd (queue : BitVec 15) (index : BitVec 16)
  | cfgDbCons (queue : BitVec 15) (index : BitVec 16)
  | commandComplete (id : Nat)
  -- engine events
  | arrAccept (engine : BitVec 11) (quarter : BitVec 2)
  | spillRegionAcquire (engine : BitVec 11)
  | rowIssue (engine : BitVec 11) (quarter : BitVec 2) (parity : Bool)
  | cellUpdate (engine : BitVec 11) (quarter : BitVec 2)
  | runPromotion (engine : BitVec 11) (quarter : BitVec 2)
  | spillAdd (engine : BitVec 11) (quarter : BitVec 2)
  | drainStart (engine : BitVec 11) (quarter : BitVec 2)
  | epilogueRowOutput (engine : BitVec 11) (quarter : BitVec 2)
  | slotFree (engine : BitVec 11) (quarter : BitVec 2)
  | chainRowReceive (engine : BitVec 11)
  | preloadRegionAcquire (engine : BitVec 11) (quarter : BitVec 2)
  | preloadRowComplete (engine : BitVec 11) (quarter : BitVec 2) (row : BitVec 7)
  | outlierTerm (engine : BitVec 11) (quarter : BitVec 2) (row : BitVec 7)
  | deferredSramWrite (engine : BitVec 11)
  | outlierGranuleAcquire (quantiser : BitVec 7)
  -- Equinox and image events
  | eqxDrainDone (ctx : BitVec 6)
  | eqxRecordReceive (ctx : BitVec 6) (rank : BitVec 16) (rec : ExRec)
  | eqxSyncPulseEnd
  | eqxTimeout (ctx : BitVec 6)
  | digestComputeDone (ctx : BitVec 6)
  | digestRootReceive (ctx : BitVec 6) (rank : BitVec 16) (root : W64)
  | stepCopyDone (ctx : BitVec 6) (page : BitVec 24)
  | ckptPageDrained (imageId : W32) (page : BitVec 24)
  | ckptSeal (imageId : W32)
  | harvestComplete (ctx : BitVec 6) (badSegments : List Nat)
  -- transaction events
  | cfgApplyIdle (txn : Nat)
  -- the named words of the payload (R338), then the packet with the words after them
  | txnVote (port : BitVec 5) (txnId ballot : W32) (pkt : Pkt)
  | txnDecision (port : BitVec 5) (txnId : W32) (pkt : Pkt)
  | voteTimeout (ctx : BitVec 6) (txnId : W32)
  | decisionWaitTimeout (ctx : BitVec 6) (txnId : W32)
  -- link layer
  | ngfPortEnable (port : BitVec 5) (enable : Bool)
  | ngfPortRetrain (port : BitVec 5)
  | ngfPortEncrypt (port : BitVec 5) (encrypt : Bool)
  | linkTrainDone (port : BitVec 5) (lanes : BitVec 8)
  | linkTrainTimeout (port : BitVec 5)
  | alignDone (port : BitVec 5)
  | alignTimeout (port : BitVec 5)
  | capabilityFlitSend (port : BitVec 5)
  | capabilityFlitReceive (port : BitVec 5) (flit : CapFlit)
  | negotiateTimeout (port : BitVec 5)
  | controlFlitReceive (port : BitVec 5) (payload : List Byte) (frame : FlitHead × FlitCheck)
  | fecLockLoss (port : BitVec 5)
  | flitDataReceive (port : BitVec 5) (flit : Flit)
  | flitAckReceive (port : BitVec 5) (head : FlitHead) (payload : List Byte) (check : FlitCheck)
  | flitNakReceive (port : BitVec 5) (flit : Flit)
  -- fabric transactions
  | fabReadRequest (port : BitVec 5) (pkt : Pkt)
  | fabWriteRequest (port : BitVec 5) (pkt : Pkt)
  | fabAtomicRequest (port : BitVec 5) (pkt : Pkt)
  | fabResponse (port : BitVec 5) (pkt : Pkt)
  | e2eAck (partner : BitVec 16) (seq : W32)
  | e2eRetxTimeout (partner : BitVec 16) (seq : W32)
  | eptFill (partner : BitVec 16)
  | txnSlotFree
  -- collectives
  | collExponent (port : BitVec 5) (pkt : Pkt)
  | collScale (port : BitVec 5) (pkt : Pkt)
  | collContribution (port : BitVec 5) (pkt : Pkt)
  | collGather (port : BitVec 5) (pkt : Pkt)
  | collBusyResend (partner : BitVec 16) (seq : W32)
  | reduceDeadline (ctx : BitVec 6) (bucket : BitVec 20)
  -- memory and flash events
  | hbmPatrol (ctx : BitVec 6) (addr : W64) (found : PatrolFind)
  | pageMoveDone (ctx : BitVec 6) (page : BitVec 24)
  | flashReadComplete (channel : BitVec 5) (retries : Nat) (failed : Bool)
  | readDisturbScrub (channel : BitVec 5) (active : Bool)
  | badBlockDetect (channel : BitVec 5) (spareLeft : Bool)
  | flashChannelFailure (channel : BitVec 5)
  -- faults
  | ctxStructUe (ctx : BitVec 6)
  | partStructUe
  | dieLinkLoss (link : BitVec 5)
  | cpHeartbeatTimeout (die : BitVec 3)
  | injectedCheckTile (engine : BitVec 11) (badGroups : List Nat)
  -- clocks, power, ageing, temperature
  | refclkLoss
  | pllLock
  | pllLockTimeout
  | droopStart (cluster : BitVec 7)
  | droopEnd (cluster : BitVec 7)
  | clockGate (cluster : BitVec 7)
  | ppsEdge
  | govTick (die : BitVec 3)
  | unitReleaseRequest (die : BitVec 3) (unit : GovUnit)
  | overcurrent (die : BitVec 3)
  | emergencyRegrant (die : BitVec 3)
  | brakeNAssert
  | brakeNRelease
  | ageingMeasure (die : BitVec 3)
  | ageingMeasureDone (die : BitVec 3) (slackPs : BitVec 16) (vrAck : Bool)
  | thermalSample (temps : List Nat)
  -- security
  | securityAlarm (sensors : List Nat)
  | alarmRearm (sensor : BitVec 3)
  | alarmNRelease
  | vwmKekLoad
  | kekLoadDone
  | vwmKekErase
  | vwmAlarmClassWrite (value : W32)
  | vwmCheckCtrlWrite (value : W32)
  -- resets and start-up
  | porstNDeassert
  | porstNAssert
  | warmReset (source : WarmSource)
  | perstNRelease
  | romComplete (badLink : Option (BitVec 5))
  | imageBufferWrite (offset : BitVec 24) (bytes : List Byte)
  | vwmBootLenWrite (value : W32)
  | vwmBootGo
  | vwmBootWarmReset
  | verifyDone
  | bringupDone (report : BringUp)
  | bringupTimeout (die : BitVec 8)
  | aonResetRelease
  | aonRailFall
  -- management
  | pldmBaseRequest (binding : Binding)
  | pldmMonitorRequest (binding : Binding) (req : MonReq)
  | pldmFwUpdate (binding : Binding) (req : FwReq)
  | mgmtFwStartTimeout
  | pldmOemRequest (binding : Binding) (req : OemReq)
  | spdmRequest (binding : Binding) (req : SpdmReq)
  | evtMsixCoalesce
  | vigilExamine (queue : BitVec 15)
  | vigilFollowRequest (graphId : W64) (hops : Nat)
  -- direct register writes
  | engCntClear (engine : BitVec 11) (value : W32)
  | engRunaheadWrite (engine : BitVec 11) (value : W32)
  | accCtrlClear (engine : BitVec 11) (value : W32)
  | splStageQuotaWrite (cluster : BitVec 7) (value : W32)
  | splCtrlClearWait (cluster : BitVec 7) (value : W32)
  | splCtrlClearExp (cluster : BitVec 7) (value : W32)
  | qntCtrlClear (quantiser : BitVec 7) (value : W32)
  | almBaseWrite (ctx : BitVec 6) (value : W64)
  | cfgRngSeedWrite (ctx : BitVec 6) (value : W64)
  | cfgRngStepWrite (ctx : BitVec 6) (value : W64)
  | cfgStreamBaseWrite (ctx : BitVec 6) (value : W64)
  | tierQuotaHbmWrite (ctx : BitVec 6) (value : W32)
  | tierQuotaFlashWrite (ctx : BitVec 6) (value : W32)
  | eqxCtrlWrite (ctx : BitVec 6) (value : W32)
  | eqxGroupBaseWrite (ctx : BitVec 6) (value : W64)
  | eqxGroupWrite (ctx : BitVec 6) (value : W32)
  | eqxTimeoutWrite (ctx : BitVec 6) (value : W32)
  | eqxCreditsWrite (ctx : BitVec 6) (value : W32)
  | eqxSyncCfgWrite (value : W32)
  | clkPpsCtrlWrite (value : W32)
  | ngfPartIdWrite (value : W32)
  | ngfFabDigestWrite (value : W64)
  | ngfCtxCtrlWrite (ctx : BitVec 6) (value : W32)
  | ngfCtrlClear (value : W32)
  | cfgCtrlClear (value : W32)
  | govCtrlWrite (die : BitVec 3) (value : W32)
  | vwmEvtCtrlWrite (value : W32)
  | vwmEvtConsWrite (value : W32)
  | vwmVigilCtrlWrite (value : W32)
  | vwmLcCtrlClear (die : BitVec 3) (value : W32)
  | lanCtrlWrite (value : W32)
  | lanConsWrite (value : W32)
  | w1cWrite (addr : W64) (value : W64) (hwSet : W64)
  | registerWrite (addr : W64) (wide : Bool) (value : W64)
  | signedMaintenanceRequest (kind : BitVec 4) (index : BitVec 24) (key : List Byte) (sig : List Byte)
  | mctpSetEndpointId (binding : Binding) (eid : BitVec 8)
  | arpIcmpEchoRequest (frame : NetFrame)
  | dhcpAddressAssign (address : W32)
  | mgmtFwBankStart
deriving DecidableEq, Repr

end Sys2Proof
end

