-- ==== Sys2Proof/Config.lean ====
section
/-! DEFINITION. What an implementation fixes and the manual does not give: uninterpreted constants (no body, so no
statement can rest on a value of one). -/

namespace Sys2Proof

/-- The n-th value that the manual leaves unspecified (poisoned outputs R229, granules that change partition R142). -/
opaque Config.freeByte : Nat → Byte

/-- The n-th open choice of an implementation (free granule R142, route hash R273). -/
opaque Config.freeNat : Nat → Nat

/-- What a kernel stores where the manual gives a value no element of the destination: of a binary32 value in an integer
format that cannot hold it; of a value as an MX element whose block scale is 0xFF or becomes it (R43, R48). Functions of
the operands alone, for a step that is retried repeats its bits (R195). -/
opaque Config.openStore : Nat → W32 → Nat
opaque Config.openMx : Nat → Nat → W32 → Nat

/-- Whether an arrival of a member that still owes one to a wait which ended without it is that one, and late (R340), or the
first of the next wait: no field of a vote or an exchange record tells the two apart (R236, R338). A fresh value each time. -/
opaque Config.isLate : Nat → Bool

/-- The sign of the infinity that a tail of a user table gives at an infinite y where its slope is a NaN (no rule gives it:
R138): the sign of y and the slope. -/
opaque Config.tailSign : Bool → W32 → Bool

/-- Whether a link in drain receives a row whose chain_id no tile of its engine carries, so that chain_shape follows (R131), or
the row waits for the tile of its own chain (R130): sending engine and tile, receiving engine and tile. -/
opaque Config.chainTaken : Nat → Nat → Nat → Nat → Bool

/-- The 48 bits of a spill word outside its tile's spill region, and a scale outside its tile's shape, where a tile goes on
from HOLD in a larger shape (no rule gives either); functions of the place, for a retry repeats them (R195). -/
opaque Config.openSpill : Nat → Nat → Nat → Nat
opaque Config.openScale : Nat → W32

/-- The array cycles in which an element engine has a lane active for n elements (R394 counts them, and no rule gives the
pace of a kernel or of outlier terms): ELT_KERNEL 0x320, or 0 for a row of outlier terms. -/
opaque Config.eltCycles : Nat → Nat → Nat

/-- The fused guard band of die d, in mV (R363). -/
opaque Config.fusedGuardMv : Nat → Nat

/-- The fused minimum security version (R413). -/
opaque Config.minSecurityVersion : Nat

/-- The fused SHA-384 hash of the firmware verification key, 48 bytes (R377). -/
opaque Config.fusedKeyHash : List Byte

/-- The device identity key: the secret number of the part's P-384 key pair (R379, R387). -/
opaque Config.deviceSecret : Nat

/-- The SPDM certificate chain before and behind the device identity public key that it carries (R387). -/
opaque Config.certHead : List Byte
opaque Config.certTail : List Byte

/-- The n-th answer to an SPDM challenge under a device identity public key, which verifies it (R387). -/
opaque Config.challengeBody : List Byte → Nat → List Byte

/-- The 256-bit data key that the random source of the anchor die draws for image `id` (R252). -/
opaque Config.imageKey : Nat → Nat

/-- The words of the built-in activation tables, published data of generation 0x01 (R138): table 2 is GELU and
table 3 is SiLU. Words 0 to 6 of each are given by R138 and are not read from here. -/
opaque Config.actTable : Nat → Nat → W32

/-- The route hash of requests and responses: target part, target context, address bits [47:12] (R273). -/
opaque Config.routeHash : Nat → Nat → Nat → Nat

/-- The route hash of collective packets: bucket and element offset (R273). -/
opaque Config.routeHashColl : Nat → Nat → Nat

/-- The flit credits of a virtual channel when a link comes up (R268 names credits and gives no initial number). -/
opaque Config.initialCredits : Nat → Nat

/-- The 256-bit link key that a port agrees with its peer in a session: port, session counter (R269). -/
opaque Config.linkKey : Nat → Nat → Nat

/-- The session counter that the peer of a port forms its IVs from in a session of the port (R269 names the counter and no
flit that carries it): port, own session counter. -/
opaque Config.peerSession : Nat → Nat → Nat

/-- The rated program bytes of the attached flash (R224). -/
opaque Config.ratedProgram : Nat → Nat

/-- The cap_id of the capability entry that reports fw_version, among those above 0x00D0 (R21, R412). -/
opaque Config.fwCapId : BitVec 16

/-- The answer to PLDM discovery, which reports the fw_version of the runtime firmware in a form that no rule gives
(R387, R412). -/
opaque Config.baseBody : W32 → List Byte

/-- A response that a management standard defines and this manual does not (R387, R388), by kind. -/
opaque Config.mgmtBody : Nat → List Byte

end Sys2Proof
end

