-- ==== Sys2Proof/Machine/Aes.lean ====
section
/-! DEFINITION. AES-256, its Galois/Counter Mode and the RFC 3394 key wrap, which encrypt the segments of an image
(R252), the flits of an encrypted link (R269) and wrap the data keys. Bytes are numbers below 256. -/

namespace Sys2Proof.Machine

open Sys2Proof

namespace Aes

/-! ### The block cipher -/

/-- Twice an element of the AES field. -/
def xtime (a : Nat) : Nat := if a < 128 then 2 * a else (2 * a) ^^^ 0x11B

/-- A product in the AES field, over `n` bits of b. -/
def mul (a b : Nat) : Nat → Nat
  | 0 => 0
  | n + 1 => (if b % 2 == 1 then a else 0) ^^^ mul (xtime a) (b / 2) n

def times (a b : Nat) : Nat := mul a b 8

/-- a ^ (2^(n + 1) − 2): for n = 7 the inverse in the AES field, zero for zero. -/
def invPow (a : Nat) : Nat → Nat
  | 0 => 1
  | n + 1 => let q := times (invPow a n) (invPow a n); if n == 0 then times a a else times q (times a a)

/-- The S-box: the inverse, then the affine map. -/
def sbox (a : Nat) : Nat :=
  let x := invPow a 7
  let y := x ||| (x <<< 8)
  (x ^^^ (y >>> 4) ^^^ (y >>> 5) ^^^ (y >>> 6) ^^^ (y >>> 7)) % 256 ^^^ 0x63

def xorBytes (a b : List Nat) : List Nat := a.zipWith (· ^^^ ·) b

/-- A word of the key schedule from the word before it and the one eight before. -/
def nextWord (i : Nat) (prev back : List Nat) : List Nat :=
  let t := if i % 8 == 0 then
      (match prev.map sbox with | a :: r => xorBytes (r ++ [a]) [2 ^ (i / 8 - 1), 0, 0, 0] | [] => [])
    else if i % 8 == 4 then prev.map sbox else prev
  xorBytes back t

/-- `n` further words of the key schedule, each after the words so far, the latest first. -/
def schedule : Nat → List (List Nat) → List (List Nat)
  | 0, ws => ws
  | n + 1, ws => schedule n (nextWord ws.length (ws.headD []) ((ws[7]?).getD []) :: ws)

/-- Bytes cut in groups of k. -/
def groups (k : Nat) : Nat → List Nat → List (List Nat)
  | 0, _ => []
  | n + 1, bs => bs.take k :: groups k n (bs.drop k)

/-- The 15 round keys of a 32-byte key. -/
def roundKeys (key : List Nat) : List (List Nat) :=
  groups 16 15 ((schedule 52 (groups 4 8 key).reverse).reverse.flatten)

/-- ShiftRows on the 16 bytes, held column by column. -/
def shiftRows (b : List Nat) : List Nat := (List.range 16).map fun i => (b[(i + 4 * (i % 4)) % 16]?).getD 0

/-- MixColumns on one column. -/
def mixCol (col : List Nat) : List Nat :=
  (List.range 4).map fun i =>
    let x := fun k => (col[(i + k) % 4]?).getD 0
    times 2 (x 0) ^^^ times 3 (x 1) ^^^ x 2 ^^^ x 3

def mixColumns (b : List Nat) : List Nat := (groups 4 4 b).flatMap mixCol

/-- The rounds after the first key: `ks` the keys still to use. -/
def rounds : List (List Nat) → List Nat → List Nat
  | [], b => b
  | [k], b => xorBytes (shiftRows (b.map sbox)) k
  | k :: ks, b => rounds ks (xorBytes (mixColumns (shiftRows (b.map sbox))) k)

/-- AES-256 of a 16-byte block under round keys. -/
def block (ks : List (List Nat)) (b : List Nat) : List Nat :=
  match ks with
  | k :: r => rounds r (xorBytes b k)
  | [] => b

/-! ### The inverse cipher -/

/-- The S-box undone: the inverse affine map, then the inverse. -/
def sboxInv (a : Nat) : Nat :=
  let y := a ||| (a <<< 8)
  invPow (((y >>> 7) ^^^ (y >>> 5) ^^^ (y >>> 2)) % 256 ^^^ 0x05) 7

/-- ShiftRows undone. -/
def shiftBack (b : List Nat) : List Nat := (List.range 16).map fun i => (b[(i + 16 - 4 * (i % 4)) % 16]?).getD 0

/-- MixColumns undone on one column. -/
def unmixCol (col : List Nat) : List Nat :=
  (List.range 4).map fun i =>
    let x := fun k => (col[(i + k) % 4]?).getD 0
    times 14 (x 0) ^^^ times 11 (x 1) ^^^ times 13 (x 2) ^^^ times 9 (x 3)

/-- The rounds before the last undone: the keys still to use, the latest first. -/
def unrounds : List (List Nat) → List Nat → List Nat
  | [], b => b
  | [k], b => xorBytes b k
  | k :: ks, b => unrounds ks ((shiftBack ((groups 4 4 (xorBytes b k)).flatMap unmixCol)).map sboxInv)

/-- AES-256 undone on a 16-byte block under round keys. -/
def unblock (ks : List (List Nat)) (b : List Nat) : List Nat :=
  match ks.reverse with
  | k :: r => unrounds r ((shiftBack (xorBytes b k)).map sboxInv)
  | [] => b

/-! ### Galois/Counter Mode -/

/-- Big-endian bytes of a number, n of them. -/
def beBytes : Nat → Nat → List Nat
  | 0, _ => []
  | n + 1, v => v / 256 ^ n % 256 :: beBytes n v

def ofBe (bs : List Nat) : Nat := bs.foldl (fun v b => 256 * v + b) 0

/-- A product in the field of GHASH, over the n most significant bits of x left to read. -/
def ghMul (x v : Nat) : Nat → Nat
  | 0 => 0
  | n + 1 => (if (x >>> n) % 2 == 1 then v else 0)
      ^^^ ghMul x (if v % 2 == 1 then (v >>> 1) ^^^ (0xE1 <<< 120) else v >>> 1) n

/-- Pad with zeros to whole 16-byte blocks. -/
def padded (bs : List Nat) : List Nat := bs ++ List.replicate ((16 - bs.length % 16) % 16) 0

def ghash (h : Nat) (bs : List Nat) : Nat :=
  (groups 16 (bs.length / 16) bs).foldl (fun y b => ghMul (y ^^^ ofBe b) h 128) 0

/-- The key stream of a 12-byte IV from counter value `c`, for `n` blocks. -/
def stream (ks : List (List Nat)) (iv : List Nat) (c : Nat) : Nat → List Nat
  | 0 => []
  | n + 1 => block ks (iv ++ beBytes 4 c) ++ stream ks iv (c + 1) n

/-- Encrypt or decrypt: the bytes with the key stream from counter 2 on. -/
def ctr (key iv bs : List Nat) : List Nat := bs.zipWith (· ^^^ ·) (stream (roundKeys key) iv 2 (ceilDiv bs.length 16))

/-- The 16-byte tag over associated data and ciphertext. -/
def tag (key iv ad ct : List Nat) : List Nat :=
  let ks := roundKeys key
  let h := ofBe (block ks (List.replicate 16 0))
  let y := ghash h (padded ad ++ padded ct ++ beBytes 8 (8 * ad.length) ++ beBytes 8 (8 * ct.length))
  xorBytes (block ks (iv ++ beBytes 4 1)) (beBytes 16 y)

/-! ### Key wrap (RFC 3394) -/

/-- One step of the wrap on A and the registers, the current register first. -/
def wrapStep (ks : List (List Nat)) (x : List Nat × List (List Nat)) (t : Nat) : List Nat × List (List Nat) :=
  match x.2 with
  | r :: rs =>
    let b := block ks (x.1 ++ r)
    (xorBytes (b.take 8) (beBytes 8 (t + 1)), rs ++ [b.drop 8])
  | [] => x

/-- The 40 bytes that wrap a 32-byte key under a 32-byte key-encryption key. -/
def wrap (kek key : List Nat) : List Nat :=
  let r := (List.range 24).foldl (wrapStep (roundKeys kek)) (List.replicate 8 0xA6, groups 8 4 key)
  r.1 ++ r.2.flatten

/-- One step of the unwrap on A and the registers, the current register last. -/
def unwrapStep (ks : List (List Nat)) (x : List Nat × List (List Nat)) (t : Nat) : List Nat × List (List Nat) :=
  match x.2.getLast? with
  | some r =>
    let b := unblock ks (xorBytes x.1 (beBytes 8 (t + 1)) ++ r)
    (b.take 8, b.drop 8 :: x.2.dropLast)
  | none => x

/-- The 32-byte key that 40 bytes wrap under a 32-byte key-encryption key: none when the integrity check fails. -/
def unwrap (kek bs : List Nat) : Option (List Nat) :=
  let r := (List.range 24).reverse.foldl (unwrapStep (roundKeys kek)) (bs.take 8, groups 8 4 (bs.drop 8))
  if r.1 == List.replicate 8 0xA6 then some r.2.flatten else none

end Aes

/-- Bytes as the cipher takes them, and back. -/
def natsOf (bs : List Byte) : List Nat := bs.map fun b => b.toNat
def bytesOf (ns : List Nat) : List Byte := ns.map fun n => BitVec.ofNat 8 n

/-- A 256-bit key as bytes. -/
def keyBytes (k : Nat) : List Nat := Aes.beBytes 32 k

end Sys2Proof.Machine
end

