-- ==== Sys2Proof/Machine/Sha.lean ====
section
/-! DEFINITION. The integer codes the manual names: SHA-256 and SHA-384 (R337, R387, R413; FIPS 180-4), CRC-64/XZ
(R253), CRC-32C (R266, R278), the keyed draw of R186 and the check-tile LFSR of R371. -/

namespace Sys2Proof.Machine

/-! ### Constants: fractional parts of roots of primes -/

/-- The first `n` primes, for n up to 80. -/
def firstPrimes (n : Nat) : List Nat :=
  ((List.range 410).filter fun q => decide (2 ≤ q) && (List.range 19).all fun d => q % (d + 2) != 0 || q == d + 2).take n

/-- The greatest r below 2^bits, beyond what `r` holds already, with r^e ≤ n. -/
def rootFloor (e n : Nat) : Nat → Nat → Nat
  | 0, r => r
  | bit + 1, r => rootFloor e n bit (if (r + 2 ^ bit) ^ e ≤ n then r + 2 ^ bit else r)

/-- The first `w` bits of the fractional part of the e-th root of q. -/
def rootBits (e w q : Nat) : Nat := rootFloor e (q * 2 ^ (e * w)) (w + 5) 0 % 2 ^ w

/-! ### The two hashes -/

/-- Which of the two hashes: its word width, its rounds and the amounts of its six mixing functions, as (how far the
first two copies turn, how far the third turns or, in the two schedule functions, moves). -/
structure Sha2 where
  width : Nat
  steps : Nat
  schedNew : List Nat
  schedOld : List Nat
  mixA : List Nat
  mixE : List Nat
  /-- The primes whose square roots give the initial words start at this one. -/
  fromPrime : Nat
deriving DecidableEq, Repr

def sha2Narrow : Sha2 :=
  { width := 32, steps := 64, schedNew := [17, 19, 10], schedOld := [7, 18, 3], mixA := [2, 13, 22], mixE := [6, 11, 25]
    fromPrime := 0 }
def sha2Wide : Sha2 :=
  { width := 64, steps := 80, schedNew := [19, 61, 6], schedOld := [1, 8, 7], mixA := [28, 34, 39], mixE := [14, 18, 41]
    fromPrime := 8 }

/-- The key of each step, and the eight initial words. -/
def Sha2.keys (v : Sha2) : List Nat := (firstPrimes v.steps).map (rootBits 3 v.width)
def Sha2.start (v : Sha2) : List Nat := ((firstPrimes 16).drop v.fromPrime).take 8 |>.map (rootBits 2 v.width)

/-- `x` turned right by n within the word. -/
def Sha2.turn (v : Sha2) (x n : Nat) : Nat := x / 2 ^ n + x % 2 ^ n * 2 ^ (v.width - n)

/-- Three turned copies, combined. -/
def Sha2.mixOf (v : Sha2) (ns : List Nat) (x : Nat) : Nat := (ns.map (v.turn x)).foldl Nat.xor 0

/-- Two turned copies and one moved down, combined. -/
def Sha2.schedOf (v : Sha2) (ns : List Nat) (x : Nat) : Nat :=
  ((ns.take 2).map (v.turn x)).foldl Nat.xor (x / 2 ^ nth 0 ns 2)

/-- A working state: the last four words of the A line and of the E line, the newest first. Every step adds one word to
each line. -/
structure ShaLines where
  a : List Nat
  e : List Nat
deriving DecidableEq, Repr

/-- One step with its key and its message word. -/
def Sha2.next (v : Sha2) (l : ShaLines) (key word : Nat) : ShaLines :=
  let A := nth 0 l.a
  let E := nth 0 l.e
  let pick := Nat.xor (Nat.land (E 0) (Nat.xor (E 1) (E 2))) (E 2)
  let vote := Nat.lor (Nat.land (A 0) (Nat.lor (A 1) (A 2))) (Nat.land (A 1) (A 2))
  let v1 := E 3 + key + word + pick + v.mixOf v.mixE (E 0)
  ⟨(v1 + vote + v.mixOf v.mixA (A 0)) % 2 ^ v.width :: l.a.take 3, (A 3 + v1) % 2 ^ v.width :: l.e.take 3⟩

/-- The steps of one block: the keys left, the 16 message words from the present one on, the lines. -/
def Sha2.steps' (v : Sha2) : List Nat → List Nat → ShaLines → ShaLines
  | [], _, l => l
  | key :: ks, ws, l =>
    let w := nth 0 ws
    let new := (w 0 + v.schedOf v.schedOld (w 1) + w 9 + v.schedOf v.schedNew (w 14)) % 2 ^ v.width
    Sha2.steps' v ks (ws.drop 1 ++ [new]) (v.next l key (w 0))

/-- The number that bytes spell, the most significant first. -/
def beNat (bs : List Byte) : Nat := ofLeBytes bs.reverse

/-- Cut a list into pieces of n. -/
def piecesOf {α : Type} (n : Nat) (l : List α) : List (List α) :=
  (List.range (ceilDiv l.length n)).map fun i => (l.drop (n * i)).take n

/-- The words of the chain after one block of bytes. -/
def Sha2.absorb (v : Sha2) (chain : List Nat) (block : List Byte) : List Nat :=
  let l := v.steps' v.keys ((piecesOf (v.width / 8) block).map beNat) ⟨chain.take 4, chain.drop 4⟩
  List.zipWith (fun x y => (x + y) % 2 ^ v.width) chain (l.a ++ l.e)

/-- The message with its end mark, zeros and its length in bits, a whole number of blocks of 16 words. -/
def Sha2.framed (v : Sha2) (m : List Byte) : List Byte :=
  let tail := v.width / 4
  let used := m.length + 1 + tail
  m ++ 0x80 :: (List.replicate (ceilDiv used (2 * v.width) * (2 * v.width) - used) 0
    ++ (leBytes tail (8 * m.length)).reverse)

/-- The first n bytes of the hash of a message. -/
def Sha2.digest (v : Sha2) (n : Nat) (m : List Byte) : List Byte :=
  (((piecesOf (2 * v.width) (v.framed m)).foldl v.absorb v.start).flatMap fun x => (leBytes (v.width / 8) x).reverse).take n

def sha256 (m : List Byte) : List Byte := sha2Narrow.digest 32 m
def sha384 (m : List Byte) : List Byte := sha2Wide.digest 48 m

/-- One bit of a reflected CRC. -/
def crcBit (poly c : Nat) : Nat := if c % 2 = 1 then (c / 2) ^^^ poly else c / 2

/-- One byte of a reflected CRC. -/
def crcByte (poly c : Nat) (b : Byte) : Nat :=
  let f := crcBit poly
  f (f (f (f (f (f (f (f (c ^^^ b.toNat))))))))

/-- CRC-64/XZ: the reflected form of 0x42F0_E1EB_A9EA_3693 (R253). -/
def crc64 (m : List Byte) : Nat :=
  (m.foldl (crcByte 0xC96C5795D7870F42) (2 ^ 64 - 1)) ^^^ (2 ^ 64 - 1)

/-- CRC-32C (Castagnoli), reflected. -/
def crc32c (m : List Byte) : Nat :=
  (m.foldl (crcByte 0x82F63B78) (2 ^ 32 - 1)) ^^^ (2 ^ 32 - 1)

/-- mix of R186. -/
def mix (x : W64) : W64 :=
  let x := x ^^^ (x >>> 33)
  let x := x * 0x9C5A3E71B4D286E5#64
  let x := x ^^^ (x >>> 29)
  let x := x * 0xE37B19A45C0DF26B#64
  x ^^^ (x >>> 32)

/-- key(stream, e, use) of R186: the 16-bit draw. -/
def draw (seed step : W64) (stream e use : Nat) : Nat :=
  let h := mix (seed + step * 0x9C5A3E71B4D286E5#64)
  let h := mix (h + BitVec.ofNat 64 stream * 0xE37B19A45C0DF26B#64)
  let h := mix (h + BitVec.ofNat 64 e)
  let h := mix (h + BitVec.ofNat 64 use)
  (h >>> 48).toNat

/-- One step of the 32-bit LFSR x^32 + x^22 + x^2 + x + 1 (R371). -/
def lfsrStep (x : W32) : W32 :=
  let fb := (x >>> 31) ^^^ (x >>> 21) ^^^ (x >>> 1) ^^^ x
  (x <<< 1) ||| (fb &&& 1#32)

end Sys2Proof.Machine
end

