-- ==== Sys2Proof/Machine/Curve.lean ====
section
/-! DEFINITION. The curve P-384 and what the manual builds on it: ECDSA verification (R374, R389, R413; FIPS 186),
and the wrapping key of a key blob by ECDH and HKDF-SHA-384 (R379; RFC 5869). A point is a pair of coordinates, none
the point at infinity. -/

namespace Sys2Proof.Machine

namespace P384

/-! ### Arithmetic modulo a prime -/

/-- The prime of the field, and the order of the group. -/
def p : Nat := 2 ^ 384 - 2 ^ 128 - 2 ^ 96 + 2 ^ 32 - 1
def n : Nat := 0xFFFFFFFFFFFFFFFFFFFFFFFFFFFFFFFFFFFFFFFFFFFFFFFFC7634D81F4372DDF581A0DB248B0A77AECEC196ACCC52973

/-- b ^ e modulo m, over the `k` low bits of e. -/
def powMod (m b e : Nat) : Nat → Nat
  | 0 => 1
  | k + 1 => let h := powMod m b (e / 2) k; if e % 2 == 1 then h * h % m * b % m else h * h % m

/-- The inverse of b modulo a prime m. -/
def inv (m b : Nat) : Nat := powMod m b (m - 2) 384

/-- a − b modulo m, for b below m. -/
def subMod (m a b : Nat) : Nat := (a + (m - b)) % m

/-! ### The group -/

abbrev Point : Type := Option (Nat × Nat)

def b : Nat := 0xB3312FA7E23EE7E4988E056BE3F82D19181D9C6EFE8141120314088F5013875AC656398D8A2ED19D2A85C8EDD3EC2AEF

/-- The base point. -/
def base : Point :=
  some (0xAA87CA22BE8B05378EB1C71EF320AD746E1D3B628BA79B9859F741E082542A385502F25DBF55296C3A545E3872760AB7,
    0x3617DE4A96262C6F5D9E98BF9292DC29F8F41DBD289A147CE9DA3113B5F0B8C00A60B1CE1D7E819D7A431D7C90EA0E5F)

/-- y² = x³ − 3x + b, with both coordinates in the field. -/
def onCurve (x y : Nat) : Bool :=
  decide (x < p) && decide (y < p) && y * y % p == subMod p (x * x % p * x + b) (3 * x % p)

/-- The third point on the line of slope l through the points of abscissae x and x', turned over. -/
def chord (l x y x' : Nat) : Point :=
  let x₃ := subMod p (subMod p (l * l) x) x'
  some (x₃, subMod p (l * subMod p x x₃) y)

def add : Point → Point → Point
  | none, q => q
  | r, none => r
  | some (x, y), some (x', y') =>
    if x != x' then chord (subMod p y' y * inv p (subMod p x' x) % p) x y x'
    else if (y + y') % p == 0 then none
    else chord (subMod p (3 * (x * x)) 3 * inv p (2 * y % p) % p) x y x'

/-- k times a point, over the low bits of k. -/
def times (k : Nat) (q : Point) : Nat → Point
  | 0 => none
  | i + 1 => let h := times (k / 2) q i; if k % 2 == 1 then add (add h h) q else add h h

/-- The point that 97 bytes spell, uncompressed: 0x04 and the two coordinates, the most significant byte first. -/
def ofBytes (bs : List Byte) : Point :=
  let x := beNat ((bs.drop 1).take 48)
  let y := beNat ((bs.drop 49).take 48)
  if bs.length == 97 && bs.head? == some 4 && onCurve x y then some (x, y) else none

end P384

/-- ECDSA P-384: public key, 48-byte digest, the values r and s (R389, R413). -/
def ecdsaVerify (key digest sig : List Byte) : Bool :=
  let r := beNat (sig.take 48)
  let s := beNat ((sig.drop 48).take 48)
  let q := P384.ofBytes key
  let w := P384.inv P384.n s
  let at' := P384.add (P384.times (beNat digest * w % P384.n) P384.base 384) (P384.times (r * w % P384.n) q 384)
  q.isSome && sig.length == 96 && decide (0 < r ∧ r < P384.n ∧ 0 < s ∧ s < P384.n)
    && (at'.map fun c => c.1 % P384.n == r).getD false

/-! ### Key derivation (R379) -/

/-- HMAC-SHA-384 under a key of at most a block. -/
def hmac384 (key m : List Byte) : List Byte :=
  let block := key ++ List.replicate (128 - key.length) 0
  let mask := fun x => block.map (· ^^^ x)
  sha384 (mask 0x5C ++ sha384 (mask 0x36 ++ m))

/-- The first block of HKDF-SHA-384 without a salt. -/
def hkdf384 (secret info : List Byte) : List Byte := hmac384 (hmac384 (List.replicate 48 0) secret) (info ++ [1])

/-- The 32-byte wrapping key between a secret number and the point of a blob, whose magic and key_id are the info: none
where the bytes spell no point of the curve (R379). -/
def wrappingKey (secret : Nat) (point info : List Byte) : Option (List Byte) :=
  match P384.ofBytes point with
  | none => none
  | some q => (P384.times secret (some q) 384).map fun c => (hkdf384 (bytesOf (Aes.beBytes 48 c.1)) info).take 32

/-- The device identity public key, uncompressed: the point of the key pair's secret number (R379, R387). -/
def deviceKey : List Byte :=
  match P384.times Config.deviceSecret P384.base 384 with
  | some c => 4 :: bytesOf (Aes.beBytes 48 c.1 ++ Aes.beBytes 48 c.2)
  | none => []

end Sys2Proof.Machine
end

