-- ==== Sys2Proof/Machine/RegTab.lean ====
section
/-! DEFINITION. The registers of the part: one name per register of the manual's register maps, and one row of fixed
facts each (window, offset, access width, the masks of its RW, W1C and WO fields, its reset value), written from the
register maps of the chapters (R9, R10, R430). A field in no mask is RO or reserved. -/

namespace Sys2Proof.Machine

open Sys2Proof

/-- The register windows, each with what its instances are numbered by. -/
inductive Win where
  | eng | acc | spl | qnt | alm | rng | tier | tierCtx | ftl | eqx | eqxPart | ngf | ngfPort | ngfCtx | cfg | cfgCal | db | cfgCtx | clk | clkCl | gov | fault | vwm | vwmDie | lc | dcnt | lan | boot
deriving DecidableEq, Repr

/-- The register names. -/
inductive Reg where
  | engStatus | engLanes | engErr | engRunahead | engCntIssue | engCntBound | engCntStarve | engCntSlotwait
  | engCntActive | engCntClear | accSatFlags | accSatCount | accPromoCount | accCtrl | splStageQuota
  | splStageUse | splErr | splExpMax | splChainWait | splCtrl | qntStatus | qntErr | qntCntElems | qntCntReread
  | qntCtrl | almBase | almCtrl | almFlags | almLast | almEpoch | cfgRngSeed | cfgRngStep | cfgStreamBase
  | cfgRngFlags | cfgRngStreams | tierHbmCe | tierHbmUe | tierSramCe | tierSramUe | tierPoisonReads | tierFree
  | tierQuotaHbm | tierQuotaFlash | tierUseHbm | tierUseFlash | tierMig | tierCtxErr | ftlChannels | ftlState
  | ftlPages | ftlHostWritten | ftlNandWritten | ftlRated | ftlScrubBlocks | ftlReadRetry | ftlReadBusy
  | eqxStatus | eqxCtrl | eqxEpoch | eqxGroupBase | eqxGroup | eqxTimeout | eqxCredits | eqxCopies | eqxCreditsUsed
  | eqxFlags | eqxLast | eqxSyncCfg | ngfPartId | ngfFabDigest | ngfRouteBase | ngfTxn | ngfEptMiss | ngfE2eRetx
  | ngfCtrl | ngfPortCtrl | ngfPortStatus | ngfPortReplay | ngfPortUncorr | ngfPortDowns | ngfCtxCtrl
  | ngfRedBase | ngfRedSize | ngfFenced | ngfRedLate | ngfRedStale | ngfRedBackup | ngfCtxErr | cfgGen
  | cfgLateClose | cfgLateDrop | cfgInflight | cfgTxnErr | cfgCtrl | cfgCalPos | cfgDbProd | cfgDbCons
  | cfgDbState | cfgDigest0 | cfgDigest1 | cfgDigest2 | cfgDigest3 | cfgTxnState | clkStatus | clkTimebase
  | clkPpsCtrl | clkPpsCapture | clkPpsCount | clkCycles | clkLeap | clkGated | govCtrl | govStatus | govAdmitted
  | govVset | govWait | govCoast | govBrakes | govEmerg | govAge | govAgeTime | govErr | vwmCheckCtrl
  | vwmCheckRuns | vwmCheckFails | vwmAlarmClass | vwmAlarmMin | vwmAlarmStatus | vwmKekStatus | vwmKekAddr
  | vwmKekCtrl | vwmKekId | vwmStatus | vwmEvtCtrl | vwmEvtBase | vwmEvtProd | vwmEvtCons | vwmEvtDrop
  | vwmEvtSeq | vwmVigilCtrl | vwmVigilCollector | vwmVigilDie | vwmLcEngBusy | vwmLcEltBusy | vwmLcEccCe
  | vwmLcEccUe | vwmLcLinkRetry | vwmLcSat | vwmLcCtrl | vwmDcntSel | vwmDcntValue | lanCtrl | lanBase
  | lanProd | lanCons | lanDrop | vwmBootStatus | vwmBootCtrl | vwmBootLen | vwmBootStamp
deriving DecidableEq, Repr

/-- The fixed facts of a register: its window, its offset in it, whether its access is 64-bit, the masks of its RW, W1C
and WO fields, and its reset value ("boot" and "fuse" values before start-up loads them: log entry 3). -/
structure RegInfo where
  win : Win
  off : Nat
  wide : Bool
  rw : W64
  w1c : W64
  wo : W64
  reset : W64
deriving DecidableEq, Repr

/-- One row of the register maps. -/
def regRow (r : Reg) (win : Win) (off : Nat) (wide : Bool) (rw w1c wo reset : Nat) : Reg × RegInfo :=
  (r, ⟨win, off, wide, BitVec.ofNat 64 rw, BitVec.ofNat 64 w1c, BitVec.ofNat 64 wo, BitVec.ofNat 64 reset⟩)

/-- The register maps, part 0. -/
def regRows0 : List (Reg × RegInfo) := [
  regRow .engStatus .eng 0 false 0 0 0 0,
  regRow .engLanes .eng 0x4 false 0 0 0 0,
  regRow .engErr .eng 0x8 false 0 0xF 0 0,
  regRow .engRunahead .eng 0xC false 0xF 0 0 0x8,
  regRow .engCntIssue .eng 0x10 true 0 0 0 0,
  regRow .engCntBound .eng 0x18 true 0 0 0 0,
  regRow .engCntStarve .eng 0x20 true 0 0 0 0,
  regRow .engCntSlotwait .eng 0x28 true 0 0 0 0,
  regRow .engCntActive .eng 0x30 true 0 0 0 0,
  regRow .engCntClear .eng 0x38 false 0 0 0x1 0,
  regRow .accSatFlags .acc 0 false 0 0xFF 0 0,
  regRow .accSatCount .acc 0x8 true 0 0 0 0,
  regRow .accPromoCount .acc 0x10 true 0 0 0 0,
  regRow .accCtrl .acc 0x18 false 0 0 0x1 0,
  regRow .splStageQuota .spl 0 false 0xFFFFFF 0 0 0x102040,
  regRow .splStageUse .spl 0x4 false 0 0 0 0,
  regRow .splErr .spl 0x8 false 0 0x7 0 0,
  regRow .splExpMax .spl 0xC false 0 0 0 0,
  regRow .splChainWait .spl 0x10 true 0 0 0 0,
  regRow .splCtrl .spl 0x18 false 0 0 0x3 0]

/-- The register maps, part 1. -/
def regRows1 : List (Reg × RegInfo) := [
  regRow .qntStatus .qnt 0 false 0 0 0 0,
  regRow .qntErr .qnt 0x4 false 0 0x1F 0 0,
  regRow .qntCntElems .qnt 0x8 true 0 0 0 0,
  regRow .qntCntReread .qnt 0x10 true 0 0 0 0,
  regRow .qntCtrl .qnt 0x18 false 0 0 0x1 0,
  regRow .almBase .alm 0 true 0xFFFFFFFFFFE00000 0 0 0,
  regRow .almCtrl .alm 0x8 false 0x3 0 0 0x2,
  regRow .almFlags .alm 0xC false 0 0x7 0 0,
  regRow .almLast .alm 0x10 false 0 0 0 0,
  regRow .almEpoch .alm 0x14 false 0 0 0 0,
  regRow .cfgRngSeed .rng 0 true 0xFFFFFFFFFFFFFFFF 0 0 0,
  regRow .cfgRngStep .rng 0x8 true 0xFFFFFFFFFFFFFFFF 0 0 0,
  regRow .cfgStreamBase .rng 0x10 true 0xFFFFFFFFFFF80000 0 0 0,
  regRow .cfgRngFlags .rng 0x18 false 0 0x7 0 0,
  regRow .cfgRngStreams .rng 0x1C false 0 0 0 0,
  regRow .tierHbmCe .tier 0 true 0 0 0 0,
  regRow .tierHbmUe .tier 0x8 true 0 0 0 0,
  regRow .tierSramCe .tier 0x10 true 0 0 0 0,
  regRow .tierSramUe .tier 0x18 true 0 0 0 0,
  regRow .tierPoisonReads .tier 0x20 true 0 0 0 0]

/-- The register maps, part 2. -/
def regRows2 : List (Reg × RegInfo) := [
  regRow .tierFree .tier 0x28 false 0 0 0 0,
  regRow .tierQuotaHbm .tierCtx 0 false 0xFFFFFFFF 0 0 0,
  regRow .tierQuotaFlash .tierCtx 0x4 false 0xFFFFFFFF 0 0 0,
  regRow .tierUseHbm .tierCtx 0x8 false 0 0 0 0,
  regRow .tierUseFlash .tierCtx 0xC false 0 0 0 0,
  regRow .tierMig .tierCtx 0x10 false 0 0 0 0,
  regRow .tierCtxErr .tierCtx 0x14 false 0 0x7 0 0,
  regRow .ftlChannels .ftl 0 false 0 0 0 0,
  regRow .ftlState .ftl 0x4 false 0 0 0 0,
  regRow .ftlPages .ftl 0x8 false 0 0 0 0,
  regRow .ftlHostWritten .ftl 0x10 true 0 0 0 0,
  regRow .ftlNandWritten .ftl 0x18 true 0 0 0 0,
  regRow .ftlRated .ftl 0x20 true 0 0 0 0,
  regRow .ftlScrubBlocks .ftl 0x28 true 0 0 0 0,
  regRow .ftlReadRetry .ftl 0x30 true 0 0 0 0,
  regRow .ftlReadBusy .ftl 0x38 true 0 0 0 0,
  regRow .eqxStatus .eqx 0 false 0 0 0 0,
  regRow .eqxCtrl .eqx 0x4 false 0xFFCF 0 0 0x3,
  regRow .eqxEpoch .eqx 0x8 true 0 0 0 0,
  regRow .eqxGroupBase .eqx 0x10 true 0xFFFFFFFFFFFFFFC0 0 0 0]

/-- The register maps, part 3. -/
def regRows3 : List (Reg × RegInfo) := [
  regRow .eqxGroup .eqx 0x18 false 0x1FFFF 0 0 0x1,
  regRow .eqxTimeout .eqx 0x1C false 0xFFFFFF 0 0 0x186A0,
  regRow .eqxCredits .eqx 0x20 false 0xFFFFFFFF 0 0 0,
  regRow .eqxCopies .eqx 0x24 false 0 0 0 0,
  regRow .eqxCreditsUsed .eqx 0x28 false 0 0 0 0,
  regRow .eqxFlags .eqx 0x2C false 0 0xFF 0 0,
  regRow .eqxLast .eqx 0x30 false 0 0 0 0,
  regRow .eqxSyncCfg .eqxPart 0x1000 false 0x3F01 0 0 0,
  regRow .ngfPartId .ngf 0 false 0x8000FFFF 0 0 0,
  regRow .ngfFabDigest .ngf 0x8 true 0xFFFFFFFFFFFFFFFF 0 0 0,
  regRow .ngfRouteBase .ngf 0x10 true 0xFFFFFFFFFFFFF000 0 0 0,
  regRow .ngfTxn .ngf 0x18 false 0 0 0 0,
  regRow .ngfEptMiss .ngf 0x20 true 0 0 0 0,
  regRow .ngfE2eRetx .ngf 0x28 true 0 0 0 0,
  regRow .ngfCtrl .ngf 0x30 false 0 0 0x1 0,
  regRow .ngfPortCtrl .ngfPort 0 false 0x5 0 0x2 0,
  regRow .ngfPortStatus .ngfPort 0x4 false 0 0 0 0,
  regRow .ngfPortReplay .ngfPort 0x8 true 0 0 0 0,
  regRow .ngfPortUncorr .ngfPort 0x10 true 0 0 0 0,
  regRow .ngfPortDowns .ngfPort 0x18 false 0 0 0 0]

/-- The register maps, part 4. -/
def regRows4 : List (Reg × RegInfo) := [
  regRow .ngfCtxCtrl .ngfCtx 0 false 0x3 0 0 0x1,
  regRow .ngfRedBase .ngfCtx 0x8 true 0xFFFFFFFFFFE00000 0 0 0,
  regRow .ngfRedSize .ngfCtx 0x10 false 0xFFFFFFFF 0 0 0,
  regRow .ngfFenced .ngfCtx 0x14 false 0 0 0 0,
  regRow .ngfRedLate .ngfCtx 0x18 true 0 0 0 0,
  regRow .ngfRedStale .ngfCtx 0x20 true 0 0 0 0,
  regRow .ngfRedBackup .ngfCtx 0x28 true 0 0 0 0,
  regRow .ngfCtxErr .ngfCtx 0x30 false 0 0x1F 0 0,
  regRow .cfgGen .cfg 0 false 0 0 0 0,
  regRow .cfgLateClose .cfg 0x8 true 0 0 0 0,
  regRow .cfgLateDrop .cfg 0x10 true 0 0 0 0,
  regRow .cfgInflight .cfg 0x18 false 0 0 0 0,
  regRow .cfgTxnErr .cfg 0x1C false 0 0x7 0 0,
  regRow .cfgCtrl .cfg 0x20 false 0 0 0x1 0,
  regRow .cfgCalPos .cfgCal 0 false 0 0 0 0,
  regRow .cfgDbProd .db 0 false 0 0 0xFFFF 0,
  regRow .cfgDbCons .db 0x4 false 0 0 0xFFFF 0,
  regRow .cfgDbState .db 0x8 false 0 0x20000000 0 0,
  regRow .cfgDigest0 .cfgCtx 0 true 0 0 0 0,
  regRow .cfgDigest1 .cfgCtx 0x8 true 0 0 0 0]

/-- The register maps, part 5. -/
def regRows5 : List (Reg × RegInfo) := [
  regRow .cfgDigest2 .cfgCtx 0x10 true 0 0 0 0,
  regRow .cfgDigest3 .cfgCtx 0x18 true 0 0 0 0,
  regRow .cfgTxnState .cfgCtx 0x20 false 0 0 0 0,
  regRow .clkStatus .clk 0 false 0 0x400 0 0,
  regRow .clkTimebase .clk 0x8 true 0 0 0 0,
  regRow .clkPpsCtrl .clk 0x10 false 0x1 0 0 0,
  regRow .clkPpsCapture .clk 0x18 true 0 0 0 0,
  regRow .clkPpsCount .clk 0x20 false 0 0 0 0,
  regRow .clkCycles .clkCl 0 true 0 0 0 0,
  regRow .clkLeap .clkCl 0x8 true 0 0 0 0,
  regRow .clkGated .clkCl 0x10 true 0 0 0 0,
  regRow .govCtrl .gov 0 false 0xFFFF 0 0 0x4B7D,
  regRow .govStatus .gov 0x4 false 0 0 0 0,
  regRow .govAdmitted .gov 0x8 false 0 0 0 0,
  regRow .govVset .gov 0xC false 0 0 0 0,
  regRow .govWait .gov 0x10 true 0 0 0 0,
  regRow .govCoast .gov 0x18 true 0 0 0 0,
  regRow .govBrakes .gov 0x20 false 0 0 0 0,
  regRow .govEmerg .gov 0x24 false 0 0 0 0,
  regRow .govAge .gov 0x28 false 0 0 0 0]

/-- The register maps, part 6. -/
def regRows6 : List (Reg × RegInfo) := [
  regRow .govAgeTime .gov 0x30 true 0 0 0 0,
  regRow .govErr .gov 0x38 false 0 0xF 0 0,
  regRow .vwmCheckCtrl .fault 0 false 0xFFFF 0 0 0,
  regRow .vwmCheckRuns .fault 0x8 true 0 0 0 0,
  regRow .vwmCheckFails .fault 0x10 true 0 0 0 0,
  regRow .vwmAlarmClass .fault 0x18 false 0x80000FFF 0 0 0xEEA,
  regRow .vwmAlarmMin .fault 0x1C false 0 0 0 0xAD5,
  regRow .vwmAlarmStatus .fault 0x20 false 0 0xF 0 0,
  regRow .vwmKekStatus .fault 0x24 false 0 0 0 0,
  regRow .vwmKekAddr .fault 0x28 true 0x3FFFFFF 0 0 0,
  regRow .vwmKekCtrl .fault 0x30 false 0 0 0x3 0,
  regRow .vwmKekId .fault 0x34 false 0 0 0 0,
  regRow .vwmStatus .vwm 0 false 0 0 0 0,
  regRow .vwmEvtCtrl .vwm 0x4 false 0x801FF7FF 0 0 0x62000,
  regRow .vwmEvtBase .vwm 0x8 false 0x3FFF000 0 0 0,
  regRow .vwmEvtProd .vwm 0xC false 0 0 0 0,
  regRow .vwmEvtCons .vwm 0x10 false 0xFFFF 0 0 0,
  regRow .vwmEvtDrop .vwm 0x18 true 0 0 0 0,
  regRow .vwmEvtSeq .vwm 0x20 true 0 0 0 0,
  regRow .vwmVigilCtrl .vwm 0x28 false 0xFFFFFFFF 0 0 0xC80A07D0]

/-- The register maps, part 7. -/
def regRows7 : List (Reg × RegInfo) := [
  regRow .vwmVigilCollector .vwm 0x2C false 0x800000FF 0 0 0,
  regRow .vwmVigilDie .vwmDie 0 false 0 0 0 0,
  regRow .vwmLcEngBusy .lc 0 true 0 0 0 0,
  regRow .vwmLcEltBusy .lc 0x8 true 0 0 0 0,
  regRow .vwmLcEccCe .lc 0x10 true 0 0 0 0,
  regRow .vwmLcEccUe .lc 0x18 true 0 0 0 0,
  regRow .vwmLcLinkRetry .lc 0x20 true 0 0 0 0,
  regRow .vwmLcSat .lc 0x28 true 0 0 0 0,
  regRow .vwmLcCtrl .lc 0x30 false 0 0 0x1 0,
  regRow .vwmDcntSel .dcnt 0 false 0 0 0 0,
  regRow .vwmDcntValue .dcnt 0x8 true 0 0 0 0,
  regRow .lanCtrl .lan 0 false 0xC01F001F 0 0 0x8000A,
  regRow .lanBase .lan 0x8 false 0x3FFF000 0 0 0,
  regRow .lanProd .lan 0xC false 0 0 0 0,
  regRow .lanCons .lan 0x10 false 0xFFFFF 0 0 0,
  regRow .lanDrop .lan 0x18 true 0 0 0 0,
  regRow .vwmBootStatus .boot 0 false 0 0x4 0 0x10000000,
  regRow .vwmBootCtrl .boot 0x4 false 0 0 0x3 0,
  regRow .vwmBootLen .boot 0x8 false 0xFFFFFFFF 0 0 0,
  regRow .vwmBootStamp .boot 0x10 true 0 0 0 0]

/-- The register maps, in the order of the constructors of Reg. -/
def regTable : List (Reg × RegInfo) :=
  regRows0 ++ regRows1 ++ regRows2 ++ regRows3 ++ regRows4 ++ regRows5 ++ regRows6 ++ regRows7

/-- The facts of a register. -/
def Reg.info (r : Reg) : RegInfo :=
  match regTable.drop r.ctorIdx with
  | p :: _ => p.2
  | [] => ⟨.boot, 0, false, 0, 0, 0, 0⟩

/-- Every register, in the order of the chapters. -/
def Reg.all : List Reg := regTable.map fun p => p.1


/-- How far apart the instances of a window lie. -/
def Win.stride : Win → Nat
  | .eng => 0x100 | .acc => 0x40 | .spl => 0x40 | .qnt => 0x40 | .alm => 0x40 | .rng => 0x40 | .tierCtx => 0x40
  | .eqx => 0x40 | .ngfPort => 0x40 | .ngfCtx => 0x40 | .cfgCal => 4 | .db => 0x1000 | .cfgCtx => 0x40
  | .clkCl => 0x20 | .gov => 0x100 | .vwmDie => 4 | .lc => 0x40 | .dcnt => 0x10
  | .tier | .ftl | .eqxPart | .ngf | .cfg | .clk | .fault | .vwm | .lan | .boot => 0

/-- Where a window starts within the block whose base a capability entry gives. -/
def Win.start : Win → Nat
  | .tierCtx => 0x100 | .ngfPort => 0x100 | .ngfCtx => 0x800 | .cfgCal => 0x100 | .clkCl => 0x100 | .vwmDie => 0x40
  | .lc => 0x100 | .dcnt => 0x400
  | _ => 0

/-- The position of a window's base in the list of bases that runtime firmware chooses (R411); the boot page has a
fixed place and no entry. -/
def Win.baseIdx : Win → Nat
  | .eng => 0 | .acc => 1 | .spl => 2 | .qnt => 3 | .alm => 4 | .rng => 5 | .tier | .tierCtx => 6 | .ftl => 7
  | .eqx | .eqxPart => 8 | .ngf | .ngfPort | .ngfCtx => 9 | .db => 10 | .cfg | .cfgCal => 11 | .cfgCtx => 12
  | .clk | .clkCl => 13 | .gov => 14 | .fault => 15 | .vwm | .vwmDie | .lc | .dcnt => 16 | .lan => 17 | .boot => 18

/-- The key of register `r`, instance `i`, in the register file. -/
def Reg.key (r : Reg) (i : Nat) : Nat := r.ctorIdx + 1024 * i

/-- What an unlisted key of the register file reads as: the register's reset value. -/
def regDefault (k : Nat) : W64 :=
  match (Reg.all.drop (k % 1024)) with
  | r :: _ => r.info.reset
  | [] => 0

/-- The registers that count what the part has done since it became ready (R415): every counter of the register maps but
those that the history store loads. -/
def Reg.counters : List Reg :=
  [.engCntIssue, .engCntBound, .engCntStarve, .engCntSlotwait, .engCntActive, .accSatCount, .accPromoCount, .splChainWait,
   .qntCntElems, .qntCntReread, .tierHbmCe, .tierHbmUe, .tierSramCe, .tierSramUe, .tierPoisonReads, .ftlScrubBlocks,
   .ftlReadRetry, .ngfEptMiss, .ngfE2eRetx, .ngfPortReplay, .ngfPortUncorr, .ngfPortDowns, .ngfRedLate, .ngfRedStale,
   .ngfRedBackup, .cfgLateClose, .cfgLateDrop, .clkPpsCount, .clkLeap, .clkGated, .govWait, .govCoast, .govBrakes,
   .govEmerg, .vwmCheckRuns, .vwmCheckFails, .vwmEvtDrop, .vwmLcEngBusy, .vwmLcEltBusy, .vwmLcEccCe, .vwmLcEccUe,
   .vwmLcLinkRetry, .vwmLcSat, .vwmDcntValue, .lanDrop]

/-- A key of the register file that belongs to such a register. -/
def counterKey (k : Nat) : Bool := Reg.counters.any fun r => r.ctorIdx == k % 1024

end Sys2Proof.Machine
end

