-- ==== Sys2Proof/Machine/State.lean ====
section
/-! DEFINITION. The state of one Larvosal part as plain data, the state right after reset, and the ways a step can
stop. Indexed pieces are sparse maps in one canonical form (Word.lean). -/

namespace Sys2Proof.Machine

open Sys2Proof

/-- The three parts (R1). -/
inductive Variant where
  | m8 | m4 | m2
deriving DecidableEq, Repr

/-- Start-up phases (R409); `off` while PORST_N is low (R422). -/
inductive BootPhase where
  | off | rom | awaitFw | verify | bringup | ready | failed
deriving DecidableEq, Repr

/-- Start-up state (R407 to R415), and the conditions under which the whole part stops. -/
structure BootS where
  phase : BootPhase
  cause : Nat
  unit : Nat
  fwFails : Nat
  /-- PORST_N and PERST_N are high. -/
  porst : Bool
  perst : Bool
  /-- The always-on domain is out of reset (R424). -/
  aon : Bool
  pllLocked : Bool
  /-- The boot ROM has chosen the bin and trained the die links, and waits for PERST_N before the PCIe link (R426). -/
  romDone : Bool
  /-- Clock domains other than management run (R343, R365, R408). -/
  running : Bool
  /-- A part fault holds (R370). -/
  partFault : Bool
  /-- The SHA-384 digest of the image that the boot ROM verified, 48 bytes (R413), and its firmware version. -/
  fwDigest : List Byte
  fwVersion : W32
  /-- The runtime firmware signature alarm was raised in this power cycle (R413). -/
  sigAlarm : Bool
  /-- The bases of the register windows, chosen by runtime firmware (R411), in the order of Win.baseIdx, then the
  GELU and SiLU tables. -/
  bases : List Nat
  /-- FTL_CHANNELS at readiness (R231). -/
  channels : W32
  /-- A warm reset waits for its soft brake (R358, R408). -/
  warming : Bool
  /-- Units, as kind and index, that failed a self-test in this power cycle: bypassed for the rest of it (R374). -/
  failed : List (Nat × Nat)
deriving DecidableEq, Repr

/-- The clock of a cluster (R348 to R350): a droop holds, the next grid edge belongs to a stretched cycle, the clock
is gated; grid edges not delivered since reset; the cluster's cycle at which one of its units last had work. -/
structure ClusClk where
  droop : Bool
  skip : Bool
  gated : Bool
  lost : Nat
  lastBusy : Nat
deriving DecidableEq, Repr

def ClusClk.none : ClusClk := ⟨false, false, false, 0, 0⟩

/-- Clocks and timebase (R342 to R352). -/
structure ClkS where
  timebase : Nat
  /-- Root periods since the array domain left reset: the /4 grid (R342, R344). -/
  roots : Nat
  /-- Grid edges that the bin pattern delivered (R344). -/
  delivered : Nat
  clus : Map ClusClk
  /-- The cycle in which the EQX_SYNC pulse ends (R241). -/
  syncEnd : Option Nat
deriving DecidableEq, Repr

/-- Thermal levels (R365). -/
inductive Therm where
  | normal | throttle | trip | shutdown
deriving DecidableEq, Repr

/-- A soft brake under way: A when it began (0.1 A), ticks done of 200 (R358). -/
structure Brake where
  a0 : Nat
  ticks : Nat
deriving DecidableEq, Repr

/-- The ramp governor of a die (R353 to R360). Currents in 0.1 A. -/
structure GovS where
  uncore : Nat
  granted : List GovUnit
  /-- Requests from before the latest tick, in their order; those since, in the order of ties (R354). -/
  waiting : List GovUnit
  fresh : List GovUnit
  asking : List GovUnit
  brake : Option Brake
  /-- The emergency release falls due in the next tick (R359). -/
  emergDue : Bool
  /-- Grants stop until this timebase value after an emergency release (R359). -/
  emergUntil : Option Nat
  /-- The timebase at the latest tick (R354). -/
  lastTick : Nat
  /-- The cycle at which each unit (by govRank) last had work or took its grant (R355). -/
  busyAt : Map Nat
deriving DecidableEq, Repr

def GovS.none : GovS := ⟨0, [], [], [], [], .none, false, .none, 0, []⟩

/-- Ageing of a die (R362 to R364). -/
structure AgeS where
  guardMv : Option Nat
  exhausted : Bool
  /-- A measurement runs since this time. -/
  measuring : Option Nat
  /-- When the next measurement falls due. -/
  due : Nat
  /-- The setpoint that its regulator holds, which starts at 650 mV at power-on (R420). -/
  setMv : Option Nat
deriving DecidableEq, Repr

def AgeS.none : AgeS := ⟨.none, false, .none, 0, .none⟩

/-- Keys and the security alarm (R376 to R380, R422). -/
structure SecS where
  /-- The loaded KEK, and the key_id that its host gave it. -/
  kek : Option (BitVec 256)
  kekId : W32
  kekState : Nat
  /-- A KEK load in progress: when it began, what the blob unwraps to, its key_id. -/
  kekLoad : Option (Nat × Option (BitVec 256) × W32)
  /-- Sensors that have raised their alarm and not re-armed. -/
  active : NatSet
  /-- ALARM_N is low until this time. -/
  alarmNUntil : Option Nat
  debugLocked : Bool
  lastSensor : Nat
  /-- The tamper mesh raised its alarm while the always-on domain was still in reset (R424, R425). -/
  meshDue : Bool
deriving DecidableEq, Repr

/-- A fault record of the history store (R373). -/
structure FaultRec where
  kind : Nat
  permanent : Bool
  index : Nat
  failCount : Nat
  lastPc : Nat
  prevPc : Nat
deriving DecidableEq, Repr

/-- The history store (R384). -/
structure HistS where
  pc : Nat
  faults : List FaultRec
  bin : Nat
  ages : Map AgeS
  alarms : List (Nat × Nat × Nat)
  hostWritten : W64
  nandWritten : W64
  /-- FTL_RATED (R224): 0 until a start-up has computed it from the attached dies. -/
  rated : W64
  measurements : Map Nat
  staticIp : Option W32
  /-- The id of the next checkpoint image (R249). -/
  nextImage : Nat
  /-- Entries into FAILED: cause, unit, power-cycle count (R410). -/
  partFails : List (Nat × Nat × Nat)
deriving DecidableEq, Repr

/-- An event record (R390). -/
structure EvtRec where
  seq : Nat
  code : Nat
  sev : Nat
  ctx : Option Nat
  origin : Nat
  time : Nat
  detail : List W32
deriving DecidableEq, Repr

/-- The event log and delivery (R383, R390 to R393). -/
structure EvtS where
  log : List EvtRec
  /-- Events held during a restart of the control core, at most 256 (R389). -/
  held : List EvtRec
  overflowSent : Bool
  /-- When the last MSI-X message of the event ring went out, and whether one waits to be sent (R392). -/
  msixLast : Option Nat
  msixDue : Bool
deriving DecidableEq, Repr

/-- A message that leaves the part on a management binding (R386 to R393, R402). -/
inductive MgmtMsg where
  | response (binding : Binding) (bytes : List Byte)
  | event (receiver : BitVec 8) (rec : EvtRec)
  | graph (collector : BitVec 8) (bytes : List Byte)
  | snapshotRequest (collector : BitVec 8) (part : Nat) (graphId : W64) (hops : Nat)
  | network (bytes : List Byte)
deriving DecidableEq, Repr

/-- Vexward's management state (R386 to R389). -/
structure MgmtS where
  eid : BitVec 8
  receiver : Option (BitVec 8)
  ip : Option W32
  /-- Running bank, each bank's firmware version and image, whether the idle bank's image verified. -/
  bank : Bool
  versions : BitVec 16 × BitVec 16
  images : List Byte × List Byte
  verified : Bool
  /-- The control core restarts since this time (R389). -/
  restart : Option Nat
  running : Bool
deriving DecidableEq, Repr

/-- What leaves the part: MSI-X messages, management messages, flits by port, fabric packets by port (votes and decisions
of R338 among them), exchange records, digest roots, and writes on the regulator bus: address, PMBus command, value in mV (R420). -/
structure OutS where
  msix : List Nat
  mgmt : List MgmtMsg
  capFlits : List (Nat × CapFlit)
  /-- Control flits by port, and ack and nak flits by port and flit type (R266, R267, R271). -/
  ctlFlits : List (Nat × Flit)
  acks : List (Nat × Nat × Flit)
  /-- End-to-end acknowledgements and busy answers: partner, sequence number, busy (R275, R291). -/
  e2e : List (Nat × W32 × Bool)
  flits : List (Nat × Flit)
  fab : List (Nat × Pkt)
  records : List (Nat × ExRec)
  roots : List (Nat × W64)
  setpoints : List (Nat × Nat × Nat)
deriving DecidableEq, Repr

/-- A hardware command queue (R302 to R307). -/
structure QueueS where
  present : Bool
  ctx : Nat
  priv : Bool
  calMember : Bool
  member : Nat
  cal : Nat
  pver : Nat
  ringLog2 : Nat
  cplLog2 : Nat
  ringBase : W64
  cplBase : W64
  maxInflight : Nat
  msix : Nat
  prod : Nat
  cons : Nat
  fetch : Nat
  /-- Records written since creation (index and phase, R306), and records software has not freed. -/
  written : Nat
  unread : Nat
  stopped : Bool
  badWrite : Bool
  waiting : Bool
  /-- Slots published and not yet fetched. -/
  published : Nat
  /-- The fetch index recorded when the context last left an Equinox, and slots fetched since (R327). -/
  recFetch : Nat
  fetched : Nat
  /-- Why the head command waits, as a Vigil wait state with its node (R399). -/
  waitState : Nat
  waitNode : Nat
deriving DecidableEq, Repr

def QueueS.none : QueueS :=
  ⟨false, 0, false, false, 0, 0, 0, 0, 0, 0, 0, 0, 0, 0, 0, 0, 0, 0, false, false, false, 0, 0, 0, 0, 0⟩

/-- The tier commands (R213). -/
inductive TierOp where
  | map | unmap | seal | unseal | toHbm | toFlash
deriving DecidableEq, Repr

/-- What a command in flight still has to do, beyond the stores that wait for a step copy. -/
inductive Work where
  | plain
  /-- CTR_WAIT_MEM: the address and the value awaited. -/
  | waitMem (addr value : W64)
  /-- A tier command over pages of its context that have still to reach their target. -/
  | tier (op : TierOp) (first count : Nat)
  | destroy (queue : Nat)
  | release (ctx : Nat) (clusters : List Nat)
  | barrier (ckpt : Bool)
  | harvest (image : Nat)
  /-- A fabric command whose packets are not all answered; the packets (source, destination, bytes, block header) of a
  checked tile-block copy that are sent one by one (R209). -/
  | fabric (rest : List (Nat × Nat × Nat × Bool))
  /-- FAB_FENCE: the flights that must complete first. -/
  | fabFence (ids : List Nat)
  | coll (bucket : Nat)
  /-- An array command, or a check tile, in an engine or delivered to it. -/
  | array (engine : Nat)
  /-- CFG_COMMIT of a group transaction that waits for its decision. -/
  | commit (txn : Nat)
deriving DecidableEq, Repr

/-- A statistics block of a conversion that completion adds to an Almanac slot (R163). -/
structure StatAdd where
  slot : Nat
  sums : StatSum
deriving DecidableEq, Repr

/-- A command in flight (R307): its header, tag generation, what it names (R432), its outcome and its remaining work. -/
structure Flight where
  id : Nat
  queue : Nat
  ctx : Nat
  hdr : Hdr
  opcode : Nat
  gen : Nat
  /-- Ranges (address, bytes) that the command reads and writes, and clusters it names (R432). -/
  reads : List (Nat × Nat)
  writes : List (Nat × Nat)
  clusters : List Nat
  status : Nat
  effect : Nat
  detail : W32
  result : W64
  work : Work
  /-- Its work is over but for waiting stores. -/
  finished : Bool
  /-- Some access has been made (R203). -/
  made : Bool
  /-- It has raised EV_POISON_CONSUMED (R230). -/
  poisoned : Bool
  stats : List StatAdd
  /-- The command, for one that runs only after its flash reads (R223) or when its unit comes to it (R144, R179), and its
  kernel flag (R432). -/
  cmd : Option Instr
  kernel : Bool
  /-- The wait state of a waiting command in flight (R399). -/
  waitState : Nat
  waitNode : Nat
deriving DecidableEq, Repr

/-- A calendar queue (R325, R326): part 0 stopped, 1 prologue, 2 loop, 3 epilogue. -/
structure CalS where
  loaded : Bool
  entries : List Nat
  loopStart : Nat
  loopEnd : Nat
  loopCount : Nat
  part : Nat
  entry : Nat
  iter : Nat
deriving DecidableEq, Repr

def CalS.none : CalS := ⟨false, [], 0, 0, 0, 0, 0, 0⟩

/-- A staged change of a configuration transaction (R328). -/
inductive Change where
  | reg (addr : W64) (value mask : W64)
  | alm (p : AlmWriteP)
  | cal (cal : Nat) (entries : List Nat) (loopStart loopEnd loopCount : Nat)
  | fenceClear (rank : Nat)
  | rejoin (epoch step : W64)
deriving DecidableEq, Repr

/-- A transaction is open, voting (group, decision awaited) or pending (R328, R333, R338). -/
inductive TxnSt where
  | opened | voting | pending
deriving DecidableEq, Repr

/-- A configuration transaction (R328 to R339). -/
structure Txn where
  id : Nat
  queue : Nat
  ctx : Nat
  changes : List Change
  st : TxnSt
  idle : Bool
  group : Bool
  txnId : W32
  voteUs : Nat
  /-- Flight of its CFG_COMMIT, own prepare status, when the own vote was cast. -/
  flight : Nat
  own : Nat
  votedAt : Nat
deriving DecidableEq, Repr

/-- A protected range (R242). -/
structure ProtRange where
  first : Nat
  count : Nat
  digest : Bool
deriving DecidableEq, Repr

/-- A staged protection change (R242). -/
structure ProtChange where
  unprotect : Bool
  range : ProtRange
deriving DecidableEq, Repr

/-- A registered stream and its extent (R189). -/
structure StreamReg where
  stream : W32
  base : Nat
  len : Nat
deriving DecidableEq, Repr

/-- Equinox phases (R235). -/
inductive EqxPhase where
  | idle | drain | exchange | decide | apply | seal | digest | held
deriving DecidableEq, Repr

/-- The combined exchange record (R236): how many records it holds, the lowest rank whose epoch and whose configuration
digest differ, the step flags and ckpt_ready. -/
structure Combined where
  count : Nat
  epochRank : Option Nat
  digestRank : Option Nat
  nonfinite : Bool
  poison : Bool
  reductionMissing : Bool
  copyQuota : Bool
  ckptReady : Bool
deriving DecidableEq, Repr

def Combined.none : Combined := ⟨0, .none, .none, false, false, false, false, false⟩

/-- A context: its step flags, epoch bookkeeping, protection, streams and fence set (R189, R232 to R262, R299). -/
structure CtxS where
  phase : EqxPhase
  attempt : Nat
  nonfinite : Bool
  poison : Bool
  /-- It has consumed poison at EQX_EPOCH 0: it is terminated as soon as the row ends (R230, R368). -/
  consumed : Bool
  reductionMissing : Bool
  copyQuota : Bool
  ranges : List ProtRange
  stagedProt : List ProtChange
  streams : List StreamReg
  /-- none in the second place: unregister. -/
  stagedStreams : List (W32 × Option StreamReg)
  /-- Streams that raised DUP, UNREG, each with the value of CFG_RNG_STEP at which it did, as `flagKey` numbers them (R190). -/
  dupFlagged : NatSet
  unregFlagged : NatSet
  fence : NatSet
  terminated : Bool
  /-- Image credits taken in this step (pages), and credits whose frames have not drained (R247). -/
  creditPages : NatSet
  creditsHeld : NatSet
  /-- The open Equinox: flight of its EQX_BARRIER, its ckpt bit, time of entry into EXCHANGE, records by rank. -/
  barrier : Option Nat
  ckpt : Bool
  enteredAt : Nat
  records : List (Nat × ExRec)
  /-- Digest Equinox: this part's root, roots by rank, and the image taken at this SEAL. -/
  roots : List (Nat × W64)
  /-- The root over the digest range as it stood after SEAL (R261). -/
  ownRoot : W64
  sealImage : Option Nat
  /-- The combined record of the latest Equinox (R236). -/
  combined : Combined
  /-- Votes that arrived before the own CFG_COMMIT (R338), by transaction id, rank and status. -/
  votes : List (W32 × Nat × Nat)
  /-- Transactions whose vote timer has expired here, as coordinator (R338, R340). -/
  closedVotes : List W32
  /-- Transactions whose decision wait has expired here (R338, R340). -/
  closedWaits : List W32
  /-- Votes still to come of transactions that the coordinator has aborted: id, rank, whether its timer had expired (R338,
  R340). -/
  overdue : List (W32 × Nat × Bool)
  /-- EQX_EPOCH and CFG_RNG_STEP before the latest committed Equinox (R262). -/
  before : W64 × W64
  /-- Ranks whose record of an Equinox that EQX_TIMEOUT decided is still to come, and ranks whose record came after the expiry
  but before the decision of the Equinox in EXCHANGE (R340). -/
  lateRecs : List Nat
  tardy : NatSet
  /-- Votes of a group transaction that came after the expiry but before its timer decided: id and rank (R338, R340). -/
  tardyVotes : List (W32 × Nat)
deriving DecidableEq, Repr

def CtxS.none : CtxS :=
  ⟨.idle, 0, false, false, false, false, false, [], [], [], [], [], [], [], false, [], [], .none, false, 0, [], [], 0, .none,
    Combined.none, [], [], [], [], (0, 0), [], [], []⟩

/-- Page states (R202). -/
inductive PageSt where
  | unmapped | hbm | flash | down | up
deriving DecidableEq, Repr

/-- A store that waits for a page's step copy, or for an image credit (R244, R247). -/
structure WaitStore where
  flight : Option Nat
  addr : Nat
  bytes : List Byte
  poison : Bool
deriving DecidableEq, Repr

/-- A page of a context's unified range (R201, R202, R244). -/
structure PageS where
  st : PageSt
  sealed : Bool
  frame : Nat
  fpage : Nat
  /-- The flash channel on which the flash page lies (R221). -/
  chan : Nat
  /-- The step-start frame, once a step copy was made (R244), and that of the committed step until the end of its
  Equinox (R235). -/
  stepStart : Option Nat
  prevStart : Option Nat
  /-- A copy is in progress into this frame. -/
  copying : Option Nat
  /-- The first write waits for an image credit (R247). -/
  creditWait : Bool
  waits : List WaitStore
deriving DecidableEq, Repr

def PageS.none : PageS := ⟨.unmapped, false, 0, 0, 0, .none, .none, .none, false, []⟩

/-- States of a checkpoint image (R249). -/
inductive ImageSt where
  | draining | sealed | failed
deriving DecidableEq, Repr

/-- A page of an image: the frame it holds until drained, then its flash page, channel, segment poison, page CRC. -/
structure ImgPage where
  page : Nat
  frame : Nat
  drained : Bool
  fpage : Nat
  chan : Nat
  segPoison : W32
  crc : W64
  /-- The CRC of each segment, in order (R253), as the part took them: the image itself has no place for them (log entry 99). -/
  leaves : List W64
deriving DecidableEq, Repr

/-- A checkpoint image (R248 to R257). -/
structure ImageS where
  id : Nat
  ctx : Nat
  st : ImageSt
  epoch : W64
  pages : List ImgPage
  /-- The flash pages beside the data pages, with their channels, in the order of R254: region A, the page table, two of
  the Almanac region and one of the stream table. -/
  extra : List (Nat × Nat)
  /-- The identity of the part and of its member when the image was taken (R255). -/
  partId : Nat
  replica : Nat
  rank : Nat
  streamTab : List StreamReg
  seed : W64
  step : W64
  cfgDigest : List Byte
  root : W64
  almCrc : W64
  streamCrc : W64
  /-- The data key is held; the KEK under which it was wrapped; flash pages reserved (R254). -/
  key : Bool
  wrappedUnder : Option (BitVec 256)
  quota : Nat
  /-- The header as written at sealing (R255), 192 bytes. -/
  header : List Byte
  /-- The lines of flash that the drain marked poisoned with its source lines, their content as it stood (R228, R229). -/
  marks : List Nat
deriving DecidableEq, Repr

/-- A flash read outstanding for a command (R223), or for the move of a page to HBM (none: R216): its flight, channel, and
the flash page and bytes read. -/
structure FlashRead where
  flight : Option Nat
  chan : Nat
  fpage : Nat
  off : Nat
  len : Nat
deriving DecidableEq, Repr

/-- The flash translation layer (R221 to R226); counters are registers. -/
structure FtlS where
  nextChan : Nat
  /-- Spare blocks are exhausted: read-only (R226). -/
  readOnly : Bool
  reads : List FlashRead
  /-- Channels on which a block is being rewritten (R225). -/
  scrubs : NatSet
deriving DecidableEq, Repr

/-- Slot states (R96). -/
inductive SlotSt where
  | free | fill | hold | drain
deriving DecidableEq, Repr

/-- The fields of an epilogue descriptor (R135). -/
structure Epi where
  act : Nat
  raw : Bool
  biasEn : Bool
  biasAxis : Bool
  satNan : Bool
  statsEn : Bool
  outType : Nat
  outStride : Nat
  outAddr : Nat
  biasAddr : Nat
  actTable : Nat
  statsAddr : Nat
  spillRuns : Nat
  spillStream : W32
  outStream : W32
  chainLen : Nat
  chainPos : Nat
  chainId : Nat
  nextEngine : Nat
  rowOrigin : Nat
  colOrigin : Nat
  ldElems : Nat
deriving DecidableEq, Repr

/-- The fields of a preload descriptor (R121). -/
structure Pre where
  outlier : Bool
  resid : Bool
  bias : Bool
  residStride : Nat
  biasAddr : Nat
  residAddr : Nat
  outA : Nat
  outB : Nat
  nOut : Nat
  outAStride : Nat
  outBStride : Nat
deriving DecidableEq, Repr

/-- A tile (R96 to R101): its shape and types, the spill and chain fields of its first command's descriptor, its steps so
far (`base` is the step of its first k-group), whether its last command was accepted and what that one drains with, its
scales (R91), the rows and columns whose operands lay in poisoned lines (R229), its spill region (R127). -/
structure Tile where
  id : Nat
  queue : Nat
  ctx : Nat
  slot : Nat
  init : Nat
  typeA : Nat
  typeB : Nat
  ta : Bool
  tb : Bool
  m : Nat
  n : Nat
  base : Nat
  steps : Nat
  closed : Bool
  drain : Bool
  first : Epi
  last : Option Epi
  pre : Option Pre
  /-- Flight of the last command accepted for it. -/
  flight : Nat
  abandoned : Bool
  /-- A table of one of its steps returned a parity error. -/
  tablePoison : Bool
  /-- Its slot transition has taken place; its slot has been freed again (R97). -/
  placed : Bool
  isOver : Bool
  scaleA : List W32
  scaleB : List W32
  poisRows : NatSet
  poisCols : NatSet
  region : List Nat
  /-- Granules it still waits for (R127); columns per row of its region. -/
  needGr : Nat
  pitch : Nat
deriving DecidableEq, Repr

/-- A spill or link value: mantissa, exponent, saturation and poison marks (R124). -/
structure Sp where
  m : Int
  e : Nat
  sat : Bool
  pois : Bool
deriving DecidableEq, Repr

/-- A row of a chain on its way (R130): where it comes from and when it may leave, the engine it goes to, the identity
of the chain and the link, and its values. -/
structure ChainRow where
  fromEngine : Nat
  fromTile : Nat
  due : Nat
  target : Nat
  /-- The queue that issued the link that sent it (R399). -/
  queue : Nat
  ctx : Nat
  chainId : Nat
  chainLen : Nat
  chainPos : Nat
  row : Nat
  last : Bool
  vals : List Sp
  /-- The row waits in the granules of its cluster's early rows, from this word on (R130). -/
  place : Option Nat
deriving DecidableEq, Repr

/-- Counts of a drain for its statistics record (R139). -/
structure DrainStats where
  bins : Map Nat
  sat : Nat
  overflow : Nat
  maxExp : Nat
deriving DecidableEq, Repr

def DrainStats.none : DrainStats := ⟨[], 0, 0, 0⟩

/-- A drain (R97, R105, R130, R140): its tile, the flight that it completes, its descriptor, array cycles per row, link
values of its rows, the next row to read and the cycle from which it may be read, rows read (due cycle, row, values),
rows output, the cycle after the read of the slot's last row, its counts. -/
structure DrainS where
  tile : Nat
  slot : Nat
  flight : Nat
  desc : Epi
  per : Nat
  rows : List (List Sp)
  next : Nat
  readAt : Nat
  outs : List (Nat × Nat × List Sp)
  done : Nat
  freeAt : Option Nat
  stats : DrainStats
deriving DecidableEq, Repr

/-- A slot (R96, R119, R124, R126): its tile; per row the runs counted and the spills made; rows that wait for a spill
add, whose preload is complete, that ended; outlier terms by row (value, clamped, poisoned); its preload region (R123);
element marks (index 128·row + column): clamped and held, saturated, saturated in this tile, poisoned; the cycle from
which its drain may start. -/
structure SlotS where
  st : SlotSt
  tile : Option Nat
  runs : Map Nat
  spills : Map Nat
  spillWait : NatSet
  preDone : NatSet
  outliers : List (Nat × List (Int × Bool × Bool))
  preRegion : Option Nat
  ended : NatSet
  held : NatSet
  sat : NatSet
  tsat : NatSet
  pois : NatSet
  drainAt : Option Nat
deriving DecidableEq, Repr

def SlotS.none : SlotS := ⟨.free, .none, [], [], [], [], [], .none, [], [], [], [], [], .none⟩

/-- A command delivered to an engine (R112, R115, R371). -/
inductive ArrCmd where
  | matmul (p : MatmulP)
  | drain (p : DrainP)
  | mode (quarter : Bool)
  | check (pattern : Nat) (badGroups : List Nat)
deriving DecidableEq, Repr

/-- A command in a window (R112): its step range and tile, the first cycle of issue of its first step (R105), and whether
its reads have ended (R90). -/
structure WCmd where
  flight : Nat
  queue : Nat
  ctx : Nat
  cmd : ArrCmd
  firstStep : Nat
  nSteps : Nat
  tile : Nat
  firstIssue : Nat
  readsEnded : Bool
deriving DecidableEq, Repr

/-- An issued entry on its way to the cell update (R105): due cycle, row, tile, what it adds (lane, value), whether it
ends a run, whether that run is followed by a spill add, whether it is the row's last of the tile. -/
structure Issue where
  due : Nat
  row : Nat
  tile : Nat
  adds : List (Nat × Int)
  ends : Bool
  spill : Bool
  last : Bool
deriving DecidableEq, Repr

/-- A promotion on its way (R119): the run values of its row by lane. -/
structure Promo where
  due : Nat
  row : Nat
  tile : Nat
  vals : List (Nat × Int)
  spill : Bool
  last : Bool
deriving DecidableEq, Repr

/-- A spill add on its way (R126). -/
structure SpillDue where
  due : Nat
  row : Nat
  tile : Nat
  last : Bool
deriving DecidableEq, Repr

/-- The cont rule of R100: after a command with cont 1, the queue and the tile of the next one. -/
structure OpenTile where
  queue : Nat
  tile : Nat
deriving DecidableEq, Repr

/-- An entry of a row's feeder queue (R92): its step, the plane and its pattern (none: an empty step), whether it is the
step's last entry, and on the first entry of a step the planes that were skipped. -/
structure FeedEntry where
  step : Nat
  plane : Option (Nat × Nat)
  last : Bool
  skipped : Nat
deriving DecidableEq, Repr

/-- A row's feeder (R86, R92, R93): the entries that its queue holds, and the step and entry from which it goes on. -/
structure FeedS where
  queue : List FeedEntry
  step : Nat
  entry : Nat
deriving DecidableEq, Repr

def FeedS.none : FeedS := ⟨[], 0, 0⟩

/-- A full-mode engine, or a quarter engine (R85, R94): window, tiles, step sequence, row progress, run accumulators
(index 128·row + lane) and everything in the pipeline. -/
structure UnitS where
  window : List WCmd
  tiles : List Tile
  nextTile : Nat
  /-- Array cycles of the unit; accepted steps; tables generated, and the cycle from which each is ready. -/
  cycle : Nat
  nextStep : Nat
  nextGen : Nat
  ready : List (Nat × Nat)
  /-- Steps finished by each row, and the feeders of the rows. -/
  done : Map Nat
  feeds : Map FeedS
  acc : Map Int
  issues : List Issue
  promos : List Promo
  spillAdds : List SpillDue
  slots : Map SlotS
  drains : List DrainS
  /-- The slot of a quarter engine's next tile (R102). -/
  nextSlot : Nat
  open? : Option OpenTile
  depth : Nat
deriving DecidableEq, Repr

def UnitS.none : UnitS :=
  ⟨[], [], 0, 0, 0, 0, [], [], [], [], [], [], [], [], [], 0, .none, 8⟩

/-- A data-movement write into operand SRAM bytes that an accepted array command still reads (R90). -/
structure DeferWrite where
  flight : Nat
  off : Nat
  bytes : List Byte
  poison : Bool
deriving DecidableEq, Repr

/-- An engine (R85): its mode, commands delivered and not accepted (flight, queue, context, command), its units (one in
full mode, four in quarter mode, by number), deferred writes, the array cycle of its cluster until which ARR_MODE holds
acceptance, the array cycle in which it last issued with the units that issued in it, chain rows sent to it and
not received, and when its last injected check tile fell due and its next pattern (R371). -/
structure EngS where
  quarter : Bool
  inbox : List (Nat × Nat × Nat × ArrCmd)
  units : Map UnitS
  deferred : List DeferWrite
  modeUntil : Nat
  active : Nat × NatSet
  chainIn : List ChainRow
  checkAt : Nat
  checkPat : Nat
deriving DecidableEq, Repr

def EngS.none : EngS := ⟨false, [], [], [], 0, (0, []), [], 0, 0⟩

/-- Cluster staging (R142, R127, R130): granules in use by partition, chain rows that arrived before their tile and the
spill granules that hold them, the granules of conversions. -/
structure ClusS where
  spill : NatSet
  qnt : NatSet
  outl : NatSet
  chainBuf : List ChainRow
  chainGr : List Nat
  /-- Outlier and quantiser granules held by conversions (R146): flight and granules. -/
  outlHeld : List (Nat × List Nat)
  qntHeld : List (Nat × List Nat)
deriving DecidableEq, Repr

def ClusS.none : ClusS := ⟨[], [], [], [], [], [], []⟩

/-- States of a port (R270). -/
inductive PortSt where
  | disabled | train | align | negotiate | check | up | quarantine | failed
deriving DecidableEq, Repr

/-- A packet that a port sends: for one of a command that carries lantern, the command's header tag (R396, R397). -/
structure Outgoing where
  pkt : Pkt
  lan : Option Nat
  /-- The copy is an end-to-end retransmission, which counts where it leaves (R394, R433). -/
  retx : Bool
deriving DecidableEq, Repr

/-- A data flit that is being filled: the channel of its packets, the payload word at which the first of them begins (63:
none does), and the payload bytes so far (R266). -/
structure OpenFlit where
  vc : Nat
  firstPkt : Nat
  bytes : List Byte
deriving DecidableEq, Repr

/-- A port's link layer (R264 to R271). -/
structure PortS where
  st : PortSt
  attempts : Nat
  enteredAt : Nat
  /-- Lanes that trained, as a mask, and lanes in use: 0, 4 or 8 (R265). -/
  trained : Nat
  lanes : Nat
  version : Nat
  peerSwitch : Bool
  peerId : BitVec 16
  peerDigest : W64
  peerEncrypt : Bool
  /-- Alignment complete, waiting for NGF_PART_ID.valid; encrypt in force; link key present; session counter. -/
  aligned : Bool
  encrypt : Bool
  key : Bool
  session : Nat
  txSeq : Nat
  rxNext : Nat
  ackSent : Nat
  replay : List Flit
  replayFrom : Nat
  replayCount : Nat
  credits : Map Nat
  /-- Packets that wait for credits (R268). -/
  queued : List Outgoing
  /-- The virtual channel of the packet that is arriving (R266), and by flit type the place in the stream of the next flit
  sent and received in this session (R269). -/
  rxVc : Nat
  txPos : Map Nat
  rxPos : Map Nat
  /-- The data flit that the next packet of its channel fills further (R266). -/
  filling : Option OpenFlit
  /-- The time from which NEGOTIATE sends its next capability flit (R270). -/
  capNext : Nat
deriving DecidableEq, Repr

def PortS.none : PortS :=
  ⟨.disabled, 0, 0, 0, 0, 0, false, 0, 0, false, false, false, false, 0, 0, 0, 0, [], 0, 0, [], [], 0, [], [], .none, 0⟩

/-- A packet sent and not acknowledged (R275). -/
structure Unacked where
  seq : Nat
  pkt : Pkt
  sentAt : Nat
  retx : Nat
  flight : Nat
  lantern : Bool
  port : Nat
  /-- Transmissions made, and the header tag of its command (R397). -/
  sent : Nat
  tag : Nat
deriving DecidableEq, Repr

/-- An endpoint context (R274, R275). -/
structure EptS where
  nextSeq : Nat
  unacked : List Unacked
  window : NatSet
  /-- Acknowledged collective packets of a running step, which a refusal may still name (R293). -/
  acked : List Unacked
  /-- Sequence numbers whose retransmissions were exhausted (R275, R340). -/
  gone : NatSet
deriving DecidableEq, Repr

def EptS.none : EptS := ⟨0, [], [], [], []⟩

/-- What a fabric transaction is for: where read data or an old value goes, or a write. -/
inductive FabKind where
  | get (dst : Nat) (head : Bool)
  | put
  | atomic (old : Nat)
  | coll
  /-- A vote or a decision of R338. -/
  | mgmt
deriving DecidableEq, Repr

/-- A fabric transaction outstanding (R276). -/
structure FabTxn where
  tag : Nat
  partner : Nat
  flight : Nat
  ctx : Nat
  kind : FabKind
  len : Nat
  /-- The fabric address of the request. -/
  addr : Nat
deriving DecidableEq, Repr

/-- A packet of a command that waits for a transaction (R276), with what it is for. -/
structure FabWait where
  flight : Nat
  partner : Nat
  pkt : Pkt
  kind : FabKind
  lantern : Bool
deriving DecidableEq, Repr

/-- A read of the fabric side that waits for the flash reads of its pages (R223): of a command at a fabric address of the own
part, or of a request of another part. -/
inductive FabSlow where
  | own (w : FabWait)
  | remote (pkt : Pkt)
deriving DecidableEq, Repr

/-- A packet that arrived while its partner's endpoint context was not cached (R274), and when (R396). -/
structure MissIn where
  partner : Nat
  port : Nat
  time : Nat
  pkt : Pkt
deriving DecidableEq, Repr

/-- The fabric side (R272 to R277): endpoint contexts, the cached ones in recency order, what waits for an endpoint
context (first transmissions, retransmissions with whether R275 counts them, responses, arrivals), transactions and waiting
packets. -/
structure FabS where
  epts : Map EptS
  cache : List Nat
  missOut : List FabWait
  missRetx : List (Nat × Nat × Bool)
  missResp : List Pkt
  missIn : List MissIn
  txns : List FabTxn
  nextTag : Nat
  waiting : List FabWait
  /-- Remote writes that wait for a step copy: the number of their waiting stores, and the response to come. -/
  late : List (Nat × Pkt)
  /-- Reads that wait for flash: the number of their flash reads, and what they are. -/
  slow : List (Nat × FabSlow)
deriving DecidableEq, Repr

/-- What a receiver has decided of a slot (R288). -/
inductive SlotTaken where
  | undecided | primary | backup | missing
deriving DecidableEq, Repr

/-- A phase-1 message (R287): the exponent (none: absent) and the non-finite flag. -/
structure ExpMsg where
  exp : Option Int
  nonfinite : Bool
deriving DecidableEq, Repr

/-- A slot at the root in phase 1 (R288): what was decided, and the messages of its primary and its backup. -/
structure ExpSlot where
  taken : SlotTaken
  prim : Option ExpMsg
  back : Option ExpMsg
deriving DecidableEq, Repr

def ExpSlot.none : ExpSlot := ⟨.undecided, .none, .none⟩

/-- A phase-3 packet at a reducer: offset in the shard, values, and the poison bits of its lines. -/
structure CollPiece where
  off : Nat
  vals : List W32
  pois : Nat
deriving DecidableEq, Repr

/-- A slot at a reducer in phase 3 (R288): what was decided, and the packets of its primary and its backup. -/
structure CollSlot where
  taken : SlotTaken
  prim : List CollPiece
  back : List CollPiece
deriving DecidableEq, Repr

def CollSlot.none : CollSlot := ⟨.undecided, [], []⟩

/-- A collective command of the running step (R284 to R298), kept until the step ends: parameters, descriptor, and its
progress as source, as root and as reducer. -/
structure CollS where
  ctx : Nat
  bucket : Nat
  flight : Nat
  gather : Bool
  die : Nat
  typeIn : Nat
  typeOut : Nat
  n : Nat
  partAddr : Nat
  outAddr : Nat
  recAddr : Nat
  deadlineUs : Nat
  lantern : Bool
  /-- The CRC of the command fields and the descriptor (R287). -/
  crc : W32
  /-- Own rank, ranks of the reducers, and primary and backup rank of each slot (R283). -/
  rank : Nat
  reducers : List Nat
  slots : List (Nat × Nat)
  /-- Ranks found out by a refusal (R293). -/
  out : NatSet
  /-- The own phase-1 message. -/
  own : ExpMsg
  /-- Phase 1 as root: first arrival, slots, whether the deadline passed, whether the scale was sent. -/
  expAt : Option Nat
  exps : Map ExpSlot
  expPassed : Bool
  rootDone : Bool
  /-- Phase 2: the parts received, the scale, the non-finite and mismatch flags, missing slots, unreduced shards. -/
  scaleGot : NatSet
  scale : Int
  nonfinite : Bool
  mismatch : Bool
  missing : NatSet
  unreduced : NatSet
  /-- The scale is in force and phase 3 was sent. -/
  sent : Bool
  /-- Phase 3 as reducer: first arrival, slots, whether the deadline passed, late packets, whether the shard and the
  record are written. -/
  conAt : Option Nat
  cons : Map CollSlot
  conPassed : Bool
  late : Nat
  written : Bool
  /-- All-gather: elements that have arrived of each shard. -/
  got : Map Nat
  /-- All-gather: pieces that wait for the engine (R356): shard, offset, bytes, poison bits. -/
  held : List (Nat × Nat × List Byte × Nat)
  /-- Slots whose exponents a refusing root leaves to the next one, which wait for the engine's grant (R293, R356). -/
  redo : List (Nat × Bool)
  /-- The collective engine has begun the command, under its grant (R354, R356). -/
  begun : Bool
  /-- A missing slot or an unreduced shard was found (R292); deadline comparators held in phase 1 and phase 3 (R289). -/
  found : Bool
  armed1 : Bool
  armed3 : Bool
  /-- The command has completed. -/
  done : Bool
deriving DecidableEq, Repr

/-- A collective packet held in an early-arrival region (R290, R291). -/
structure EarlyPkt where
  ctx : Nat
  port : Nat
  /-- When it reached the part (R288). -/
  time : Nat
  pkt : Pkt
deriving DecidableEq, Repr

/-- Vigil's view of a queue (R399 to R401). -/
structure VigilQ where
  state : Nat
  node : Nat
  value : W64
  /-- The examination that first found this state, node, value and count; the latest. -/
  since : Nat
  last : Nat
  completed : Nat
  suspect : Bool
deriving DecidableEq, Repr

def VigilQ.none : VigilQ := ⟨0, 0, 0, 0, 0, 0, false⟩

/-- Vigil (R399 to R403): per die when EV_VIGIL_COARSE was last raised; what examinations have found of each queue; for each
queue that waits its wait state and since when it has been in it; graphs. -/
structure VigilS where
  coarseAt : Map Nat
  queues : Map VigilQ
  waits : Map (Nat × Nat)
  graphs : Nat
  ids : List W64
  lastAuto : Option Nat
  completed : Map Nat
  /-- The record of the latest graph (R387, R403). -/
  record : List Byte
deriving DecidableEq, Repr

/-- The state of the part. -/
structure State where
  /-- Commands that wait, first in first out (the block's own queue). -/
  pending : List Instr
  /-- Timer rows that stand back for an arrival of their own cycle that still waits in the queue (R340). -/
  tied : List Instr
  variant : Variant
  /-- The index of the next free value (the model's own field). -/
  freeCount : Nat
  /-- The register file: key Reg.key, unlisted registers at their reset value. -/
  regs : Map W64
  /-- All addressed memories in one numbering (Ops.lean): bytes, and poisoned 64-byte lines. -/
  mem : List Host.Cell
  poison : NatSet
  /-- Words of accumulator memory that hold no element of a placed tile and whose error or poison mark stands, by physical
  address / 4 (R228). -/
  accPois : NatSet
  boot : BootS
  clk : ClkS
  gov : Map GovS
  /-- The thermal level of each Trinaosh die, and of the anchor die as number 8 (R365). -/
  therm : Map Therm
  /-- Readings of the 96 thermal sensors at the last sample, in 0.25 °C: 11 of each Trinaosh die in turn, then 8 of the
  anchor die (R365, R385). -/
  temps : List Nat
  thermtrip : Bool
  /-- BRAKE_N is low. -/
  brakeN : Bool
  /-- The pins SMB_ADDR[2:0] (R421). -/
  smbAddr : BitVec 3
  ages : Map AgeS
  sec : SecS
  hist : HistS
  evt : EvtS
  mgmt : MgmtS
  out : OutS
  /-- Retired engines, bad lane pairs (64·engine + pair), permanently retired pairs, retired element engines and
  quantisers, bad port lanes (8·port + lane), the power cycle of the self-test (R106 to R108, R374). -/
  retEng : NatSet
  badPairs : NatSet
  permPairs : NatSet
  retElt : NatSet
  retQnt : NatSet
  badLanes : NatSet
  selftestGen : Nat
  queues : Map QueueS
  /-- Dependency counters (key 4096·context + index; context 64: the admin queue), and their values when the context
  left the previous Equinox (R316). -/
  ctrs : Map W32
  ctrSnap : Map W32
  /-- The place in each die's round of queues that its command processor visited last, plus one (R308). -/
  visits : Map Nat
  flight : List Flight
  nextId : Nat
  cals : Map CalS
  txns : List Txn
  capTable : List W32
  /-- The owner of each cluster (R309). -/
  owner : Map (Option Nat)
  ctxs : Map CtxS
  /-- Pages, key 2^24·context + page. -/
  pages : Map PageS
  nextFrame : Nat
  nextFpage : Nat
  images : List ImageS
  ftl : FtlS
  engs : Map EngS
  clus : Map ClusS
  /-- Quantiser scale registers (key 32768·quantiser + index, R149); quantiser and element-engine windows. -/
  scales : Map W32
  qnts : Map (List Nat)
  elts : Map (List Nat)
  ports : Map PortS
  fab : FabS
  colls : List CollS
  early : List EarlyPkt
  vigil : VigilS
  /-- EV_LAN_OVERFLOW was raised and the Lantern ring has not had space since (R397). -/
  lanFull : Bool
deriving DecidableEq, Repr

/-- Why a step stops with a fault. -/
inductive Fault where
  /-- Raised by an event row that names a unit the part does not carry (R1, R5): no such event exists. Safe: the model
  stops where the hardware has nothing that could act. -/
  | noSuchUnit (kind : String) (number : Nat)
deriving DecidableEq, Repr

/-- Why a step is refused. -/
inductive Refusal where
  /-- The row has no meaning in the model yet. Safe: nothing can be proved of it. -/
  | notModelled (mnemonic : String)
deriving DecidableEq, Repr

/-- The part right after its first power-on, at the release of PORST_N (R407, R409): phase ROM, power-cycle count 1
(R384), the always-on domain running (R424), the PLL not locked yet; every register at its reset value; nothing mapped,
granted, queued or in flight. -/
def State.reset : State where
  pending := []
  tied := []
  variant := .m8
  freeCount := 0
  regs := []
  mem := []
  poison := []
  accPois := []
  boot := { phase := .rom, cause := 0, unit := 0, fwFails := 0, porst := true, perst := true, aon := true,
            pllLocked := false, romDone := false, running := false, partFault := false, fwDigest := [], fwVersion := 0,
            sigAlarm := false, bases := [], channels := 0, warming := false, failed := [] }
  clk := { timebase := 0, roots := 0, delivered := 0, clus := [], syncEnd := none }
  gov := []
  therm := []
  temps := []
  thermtrip := false
  brakeN := false
  smbAddr := 0
  ages := []
  sec := { kek := none, kekId := 0, kekState := 0, kekLoad := none, active := [], alarmNUntil := none,
           debugLocked := false, lastSensor := 0, meshDue := false }
  hist := { pc := 1, faults := [], bin := 0, ages := [], alarms := [], hostWritten := 0, nandWritten := 0, rated := 0,
            measurements := [], staticIp := none, nextImage := 1, partFails := [] }
  evt := { log := [], held := [], overflowSent := false, msixLast := none, msixDue := false }
  mgmt := { eid := 0, receiver := none, ip := none, bank := false, versions := (0, 0), images := ([], []),
            verified := false, restart := none, running := true }
  out := ⟨[], [], [], [], [], [], [], [], [], [], []⟩
  retEng := []
  badPairs := []
  permPairs := []
  retElt := []
  retQnt := []
  badLanes := []
  selftestGen := 0
  queues := []
  ctrs := []
  ctrSnap := []
  visits := []
  flight := []
  nextId := 0
  cals := []
  txns := []
  capTable := []
  owner := []
  ctxs := []
  pages := []
  nextFrame := 0
  nextFpage := 0
  images := []
  ftl := { nextChan := 0, readOnly := false, reads := [], scrubs := [] }
  engs := []
  clus := []
  scales := []
  qnts := []
  elts := []
  ports := []
  fab := { epts := [], cache := [], missOut := [], missRetx := [], missResp := [],
           missIn := [], txns := [], nextTag := 0, waiting := [], late := [], slow := [] }
  colls := []
  early := []
  vigil := { coarseAt := [], queues := [], waits := [], graphs := 0, ids := [], lastAuto := none, completed := [], record := [] }
  lanFull := false

end Sys2Proof.Machine
end

