-- ==== Sys2Proof/Machine/Ops.lean ====
section
/-! DEFINITION. The named operations over registers, events, memory, pages and units that the meanings share. -/

namespace Sys2Proof.Machine

open Sys2Proof

abbrev Out := Host.Outcome State Fault Refusal

/-! ### The variant's counts (R1, R26) -/

/-- Trinaosh dies. -/
def State.dies (s : State) : Nat := match s.variant with | .m8 => 8 | .m4 => 4 | .m2 => 2

def State.nClus (s : State) : Nat := 16 * s.dies
def State.nEng (s : State) : Nat := 256 * s.dies
def State.nElt (s : State) : Nat := 32 * s.dies
def State.nQnt (s : State) : Nat := 16 * s.dies
def State.nPorts (s : State) : Nat := 3 * s.dies
def State.nQueues (s : State) : Nat := 4096 * s.dies
def State.nChan (s : State) : Nat := 4 * s.dies

/-- HBM frames available to contexts (R204). -/
def State.frames (s : State) : Nat := match s.variant with | .m8 => 730373 | .m4 => 364162 | .m2 => 181057

/-- The admin queue's place among the contexts: it belongs to no context (R302); its counters have this index. -/
def adminCtx : Nat := 64

/-! ### Registers -/

/-- The stored value of register `r`, instance `i`. -/
def State.reg (s : State) (r : Reg) (i : Nat) : W64 := Map.get regDefault s.regs (r.key i)

def State.setReg (s : State) (r : Reg) (i : Nat) (v : W64) : State :=
  { s with regs := Map.set regDefault s.regs (r.key i) v }

/-- The register's value cut to its access width (R430). -/
def Reg.cut (r : Reg) (v : W64) : W64 := if r.info.wide then v else v &&& 0xFFFFFFFF

/-- Add to a counter register, which wraps to zero at its width. -/
def State.bump (s : State) (r : Reg) (i n : Nat) : State :=
  s.setReg r i (r.cut (s.reg r i + BitVec.ofNat 64 n))

/-- Set bits of a register by hardware (a W1C flag, R11). -/
def State.orReg (s : State) (r : Reg) (i : Nat) (bitsSet : Nat) : State :=
  s.setReg r i (s.reg r i ||| BitVec.ofNat 64 bitsSet)

/-- Field [hi:lo] of a register. -/
def State.fld (s : State) (r : Reg) (i hi lo : Nat) : Nat := bits (s.reg r i) hi lo

def State.setFld (s : State) (r : Reg) (i hi lo v : Nat) : State := s.setReg r i (setBits (s.reg r i) hi lo v)

/-- Timebase nanoseconds (R351). -/
def State.now (s : State) : Nat := s.clk.timebase

/-- Take the next free value's index. -/
def State.nextFree (s : State) : Nat × State := (s.freeCount, { s with freeCount := s.freeCount + 1 })

/-! ### Indexed pieces of the state -/

def State.ctx (s : State) (c : Nat) : CtxS := Map.get (fun _ => CtxS.none) s.ctxs c
def State.setCtx (s : State) (c : Nat) (x : CtxS) : State :=
  { s with ctxs := Map.set (fun _ => CtxS.none) s.ctxs c x }
def State.updCtx (s : State) (c : Nat) (f : CtxS → CtxS) : State := s.setCtx c (f (s.ctx c))

def State.queue (s : State) (q : Nat) : QueueS := Map.get (fun _ => QueueS.none) s.queues q
def State.setQueue (s : State) (q : Nat) (x : QueueS) : State :=
  { s with queues := Map.set (fun _ => QueueS.none) s.queues q x }
def State.updQueue (s : State) (q : Nat) (f : QueueS → QueueS) : State := s.setQueue q (f (s.queue q))

def State.ctr (s : State) (c i : Nat) : W32 := Map.get (fun _ => 0) s.ctrs (4096 * c + i)
def State.setCtr (s : State) (c i : Nat) (v : W32) : State :=
  { s with ctrs := Map.set (fun _ => 0) s.ctrs (4096 * c + i) v }

def State.cal (s : State) (n : Nat) : CalS := Map.get (fun _ => CalS.none) s.cals n
def State.setCal (s : State) (n : Nat) (x : CalS) : State :=
  { s with cals := Map.set (fun _ => CalS.none) s.cals n x }

def State.ownerOf (s : State) (k : Nat) : Option Nat := Map.get (fun _ => none) s.owner k
def State.setOwner (s : State) (k : Nat) (o : Option Nat) : State :=
  { s with owner := Map.set (fun _ => none) s.owner k o }

def pageKey (c p : Nat) : Nat := 16777216 * c + p
def State.page (s : State) (c p : Nat) : PageS := Map.get (fun _ => PageS.none) s.pages (pageKey c p)
def State.setPage (s : State) (c p : Nat) (x : PageS) : State :=
  { s with pages := Map.set (fun _ => PageS.none) s.pages (pageKey c p) x }
def State.updPage (s : State) (c p : Nat) (f : PageS → PageS) : State := s.setPage c p (f (s.page c p))

/-- The mapped pages of a context, as (page, record), ascending. -/
def State.pagesOf (s : State) (c : Nat) : List (Nat × PageS) :=
  (s.pages.filter fun e => e.1 / 16777216 == c).map fun e => (e.1 % 16777216, e.2)

def State.eng (s : State) (e : Nat) : EngS := Map.get (fun _ => EngS.none) s.engs e
def State.setEng (s : State) (e : Nat) (x : EngS) : State :=
  { s with engs := Map.set (fun _ => EngS.none) s.engs e x }
def State.updEng (s : State) (e : Nat) (f : EngS → EngS) : State := s.setEng e (f (s.eng e))

def State.clusS (s : State) (k : Nat) : ClusS := Map.get (fun _ => ClusS.none) s.clus k
def State.setClusS (s : State) (k : Nat) (x : ClusS) : State :=
  { s with clus := Map.set (fun _ => ClusS.none) s.clus k x }

def State.port (s : State) (p : Nat) : PortS := Map.get (fun _ => PortS.none) s.ports p
def State.setPort (s : State) (p : Nat) (x : PortS) : State :=
  { s with ports := Map.set (fun _ => PortS.none) s.ports p x }
def State.updPort (s : State) (p : Nat) (f : PortS → PortS) : State := s.setPort p (f (s.port p))

def State.ept (s : State) (n : Nat) : EptS := Map.get (fun _ => EptS.none) s.fab.epts n
def State.setEpt (s : State) (n : Nat) (x : EptS) : State :=
  { s with fab := { s.fab with epts := Map.set (fun _ => EptS.none) s.fab.epts n x } }

def State.govOf (s : State) (d : Nat) : GovS := Map.get (fun _ => GovS.none) s.gov d
def State.setGov (s : State) (d : Nat) (x : GovS) : State :=
  { s with gov := Map.set (fun _ => GovS.none) s.gov d x }

def State.thermOf (s : State) (d : Nat) : Therm := Map.get (fun _ => .normal) s.therm d
def State.ageOf (s : State) (d : Nat) : AgeS := Map.get (fun _ => AgeS.none) s.ages d
def State.setAge (s : State) (d : Nat) (x : AgeS) : State :=
  { s with ages := Map.set (fun _ => AgeS.none) s.ages d x }

def State.flightOf (s : State) (id : Nat) : Option Flight := s.flight.find? fun f => f.id == id
def State.updFlight (s : State) (id : Nat) (f : Flight → Flight) : State :=
  { s with flight := updFirst (fun x => x.id == id) f s.flight }

def State.image (s : State) (id : Nat) : Option ImageS := s.images.find? fun x => x.id == id
def State.updImage (s : State) (id : Nat) (f : ImageS → ImageS) : State :=
  { s with images := updFirst (fun x => x.id == id) f s.images }

/-- The epoch of a context (R233). -/
def State.epoch (s : State) (c : Nat) : W64 := s.reg .eqxEpoch c

/-- Commands in flight of a context, of a queue, of a die (R307; a part-wide count for CFG_INFLIGHT). -/
def State.ctxFlights (s : State) (c : Nat) : List Flight := s.flight.filter fun f => f.ctx == c
def State.queueFlights (s : State) (q : Nat) : List Flight := s.flight.filter fun f => f.queue == q
def State.dieFlights (s : State) (d : Nat) : List Flight := s.flight.filter fun f => f.queue / 4096 == d

/-! ### Where units sit (R5, R179) -/

def clusterOfEng (e : Nat) : Nat := e / 16
def clusterOfElt (e : Nat) : Nat := e / 2
def dieOfClus (k : Nat) : Nat := k / 16

/-- The array cycles that a cluster's clock has delivered (R6, R349): CLK_CYCLES. -/
def State.clusCycles (s : State) (k : Nat) : Nat :=
  s.clk.delivered - (Map.get (fun _ => ClusClk.none) s.clk.clus k).lost

/-! ### Memory: one numbering of all addressed memories -/

def memStride : Nat := 1208925819614629174706176

/-- Tier 0 SRAM at its offset in the window of R200; HBM frame; flash page; admin region (R304); image buffer. -/
def physSram (off : Nat) : Nat := off
def physFrame (frame off : Nat) : Nat := memStride + 2097152 * frame + off
def physFlash (page off : Nat) : Nat := 2 * memStride + 2097152 * page + off
def physAdmin (off : Nat) : Nat := 3 * memStride + off
def physImage (off : Nat) : Nat := 4 * memStride + off

/-- What an unlisted byte reads as (log entry 4; R215 for a mapped frame). -/
def memDefault (_ : Nat) : Byte := 0

def State.byte (s : State) (a : Nat) : Byte := Map.get memDefault s.mem a

def rdMem (m : Map Byte) (a : Nat) : Nat → List Byte
  | 0 => []
  | n + 1 => Map.get memDefault m a :: rdMem m (a + 1) n

def wrMem (m : Map Byte) (a : Nat) : List Byte → Map Byte
  | [] => m
  | b :: t => wrMem (Map.set memDefault m a b) (a + 1) t

def State.rd (s : State) (a n : Nat) : List Byte := rdMem s.mem a n

/-- The poisoned lines among those that `n` bytes at `a` touch. -/
def State.poisonIn (s : State) (a n : Nat) : List Nat :=
  s.poison.filter fun l => decide (a / 64 ≤ l) && decide (l * 64 < a + n)

/-- n free values, from the k-th on. -/
def freeBytes (k n : Nat) : List Byte := (List.range n).map fun i => Config.freeByte (k + i)

/-- The marked words of accumulator memory that `n` bytes at `a` do not write whole (R228). -/
def State.accPoisLeft (s : State) (a n : Nat) : NatSet :=
  s.accPois.filter fun w => !(decide (a ≤ 4 * w) && decide (4 * w + 4 ≤ a + n))

/-- Store bytes: a poisoned store marks every line it touches, and the content of what it writes is unspecified, so
the bytes are free values (R228, R229); an unpoisoned one clears the marks of the lines, in accumulator memory of the
words, that it writes whole and leaves the others' marks (R228). -/
def State.wr (s : State) (a : Nat) (bs : List Byte) (pois : Bool) : State :=
  let lines := if bs.isEmpty then [] else (List.range ((a + bs.length - 1) / 64 - a / 64 + 1)).map (· + a / 64)
  { s with
    freeCount := if pois then s.freeCount + bs.length else s.freeCount
    mem := wrMem s.mem a (if pois then freeBytes s.freeCount bs.length else bs)
    poison := lines.foldl (fun p l =>
      if pois then NatSet.ins l p
      else if decide (a ≤ l * 64) && decide (l * 64 + 64 ≤ a + bs.length) then NatSet.del p l else p) s.poison
    accPois := if pois then s.accPois else s.accPoisLeft a bs.length }

/-- Zero a range of whole lines and clear its marks. -/
def State.zero (s : State) (a n : Nat) : State :=
  { s with
    mem := s.mem.filter fun e => !(decide (a ≤ e.1) && decide (e.1 < a + n))
    poison := s.poison.filter fun l => !(decide (a ≤ l * 64) && decide (l * 64 < a + n))
    accPois := s.accPoisLeft a n }

/-- Copy a range of whole lines with its marks onto a disjoint one. Of two entries of one key the first counts, so it is
set last. -/
def State.copyMem (s : State) (src dst n : Nat) : State :=
  let z := s.zero dst n
  { z with
    mem := (s.mem.filter fun e => decide (src ≤ e.1) && decide (e.1 < src + n)).reverse.foldl
      (fun m e => Map.set memDefault m (e.1 - src + dst) e.2) z.mem
    poison := (s.poison.filter fun l => decide (src ≤ l * 64) && decide (l * 64 < src + n)).foldl
      (fun p l => NatSet.ins (l - src / 64 + dst / 64) p) z.poison }

/-! ### Status codes (R319) -/

namespace St

def ok : Nat := 0x00
def rolledBack : Nat := 0x01
def held : Nat := 0x02
def reduceMissing : Nat := 0x03
def imageCorrupt : Nat := 0x04
def badVersion : Nat := 0x40
def badOpcode : Nat := 0x41
def badField : Nat := 0x42
def notOwner : Nat := 0x43
def badScale : Nat := 0x48
def scaleAxis : Nat := 0x49
def widthMismatch : Nat := 0x4A
def engineRetired : Nat := 0x4B
def slotEmpty : Nat := 0x4C
def slotBusy : Nat := 0x4D
def spillQuota : Nat := 0x4E
def streamFull : Nat := 0x4F
def unmapped : Nat := 0x50
def sealed : Nat := 0x51
def quota : Nat := 0x52
def notSealed : Nat := 0x53
def flashRo : Nat := 0x54
def poisoned : Nat := 0x55
def ctxBusy : Nat := 0x58
def noKey : Nat := 0x59
def noRoute : Nat := 0x60
def fabricTimeout : Nat := 0x61
def fabricDenied : Nat := 0x62
def collMismatch : Nat := 0x63
def fenced : Nat := 0x64
def notInTxn : Nat := 0x68
def txnOpen : Nat := 0x69
def txnFull : Nat := 0x6A
def txnAborted : Nat := 0x6B
def cfgConflict : Nat := 0x6C
def cancelled : Nat := 0x70
def ctxTerminated : Nat := 0x71

end St

/-- A faulty outcome: its status and the detail of its record (R317). -/
structure Err where
  st : Nat
  detail : W32
deriving DecidableEq, Repr

/-- A fault of the packet word `w`. -/
def Err.word (st w : Nat) : Err := ⟨st, if st == St.badField || st == St.notOwner then BitVec.ofNat 32 w else 0⟩

/-- A fault in memory the command reads, or in the state of the part (R317). -/
def Err.state (st : Nat) : Err := ⟨st, if st == St.badField || st == St.notOwner then 0xFFFFFFFF else 0⟩

/-- The first fault of a list of checks. -/
def firstErr : List (Option Err) → Option Err
  | [] => none
  | some e :: _ => some e
  | none :: t => firstErr t

/-- A check: the fault when the condition holds. -/
def errIf (b : Bool) (e : Err) : Option Err := if b then some e else none

/-! ### Events (R390 to R393) -/

/-- The 32 bytes of an event record (R390). -/
def EvtRec.bytes (r : EvtRec) : List Byte :=
  leBytes 8 r.seq
  ++ leBytes 4 (r.code * 65536 + r.sev * 16384 + (if r.ctx.isSome then 8192 else 0) + r.origin * 512
      + (r.ctx.getD 0))
  ++ leBytes 8 r.time ++ ((r.detail ++ [0, 0, 0]).take 3).flatMap fun (w : W32) => leBytes 4 w.toNat

/-- Two detail words of a 64-bit item, low word first (R390). -/
def words64 (v : W64) : List W32 := [v.setWidth 32, (v >>> 32).setWidth 32]

/-- Send a record as a platform event message, when a receiver is registered (R393). -/
def State.sendMgmt (s : State) (r : EvtRec) : State :=
  match s.mgmt.receiver with
  | some e => { s with out := { s.out with mgmt := s.out.mgmt ++ [.event e r] } }
  | none => s

/-- Append to the event log of 4,096 records, the oldest overwritten first (R383), and take the next seq (R391). -/
def State.logEvent (s : State) (code sev : Nat) (ctx : Option Nat) (origin time : Nat) (detail : List W32) :
    EvtRec × State :=
  let r : EvtRec := ⟨(s.reg .vwmEvtSeq 0).toNat, code, sev, ctx, origin, time, detail⟩
  let l := s.evt.log ++ [r]
  (r, { (s.bump .vwmEvtSeq 0 1) with evt := { s.evt with log := l.drop (l.length - 4096) } })

/-- The host event ring has no place for one more record (R392). -/
def State.evtRingFull (s : State) : Bool :=
  let n := s.fld .vwmEvtCtrl 0 20 16
  let off := s.fld .vwmEvtBase 0 25 12 * 4096
  decide (67108864 < off + 32 * 2 ^ n)
    || (s.fld .vwmEvtProd 0 15 0 + 1) % 2 ^ n == s.fld .vwmEvtCons 0 15 0

/-- Send the event ring's MSI-X message, at most one per 10 µs (R392). -/
def State.evtMsix (s : State) : State :=
  let due := match s.evt.msixLast with
    | some t => decide (t + 10000 ≤ s.now)
    | none => true
  if due then
    { s with out := { s.out with msix := s.out.msix ++ [s.fld .vwmEvtCtrl 0 10 0] }
             evt := { s.evt with msixLast := some s.now, msixDue := false } }
  else { s with evt := { s.evt with msixDue := true } }

/-- Write a record to the host event ring, or count it as dropped; true when the ring is full (R392). -/
def State.hostRing (s : State) (r : EvtRec) : Bool × State :=
  if s.fld .vwmEvtCtrl 0 31 31 == 0 || decide (r.sev < s.fld .vwmEvtCtrl 0 15 14) then (false, s)
  else if s.evtRingFull then (true, s.bump .vwmEvtDrop 0 1)
  else
    let n := s.fld .vwmEvtCtrl 0 20 16
    let i := s.fld .vwmEvtProd 0 15 0
    let s := s.wr (physAdmin (s.fld .vwmEvtBase 0 25 12 * 4096 + 32 * (i % 2 ^ n))) r.bytes false
    (false, (s.setFld .vwmEvtProd 0 15 0 ((i + 1) % 2 ^ n)).evtMsix)

/-- EV_EVT_OVERFLOW, on the management path once while the host ring stays full (R392). -/
def State.evtOverflow (s : State) : State :=
  if s.evt.overflowSent then s
  else
    let p := s.logEvent 0x0905 1 none 0xF s.now (words64 (s.reg .vwmEvtDrop 0))
    { p.2.sendMgmt p.1 with evt := { p.2.evt with overflowSent := true } }

/-- Deliver an event that has reached Vexward: each path carries the records in ascending seq (R391). -/
def State.deliver (s : State) (code sev : Nat) (ctx : Option Nat) (origin time : Nat) (detail : List W32) : State :=
  let p := s.logEvent code sev ctx origin time detail
  let h := p.2.hostRing p.1
  let s := if decide (h.2.fld .vwmEvtCtrl 0 13 12 ≤ sev) then h.2.sendMgmt p.1 else h.2
  if h.1 then s.evtOverflow else s

/-- Raise an event: while the control core restarts the hardware holds up to 256 and counts later ones (R389). With the
always-on domain in reset there is no event log (R424). -/
def State.raise (s : State) (code sev : Nat) (ctx : Option Nat) (origin : Nat) (detail : List W32) : State :=
  if !s.boot.aon then s
  else if s.mgmt.restart.isSome then
    if s.evt.held.length < 256 then
      { s with evt := { s.evt with held := s.evt.held ++ [⟨0, code, sev, ctx, origin, s.now, detail⟩] } }
    else s.bump .vwmEvtDrop 0 1
  else s.deliver code sev ctx origin s.now detail

/-- The origin code of the anchor die (R390). -/
def anchorDie : Nat := 0xF

/-- Send an MSI-X message. -/
def State.msix (s : State) (v : Nat) : State := { s with out := { s.out with msix := s.out.msix ++ [v] } }

/-! ### Local addresses (R199, R200) -/

/-- What a local address of a context names. -/
inductive Place where
  | sram (off : Nat)
  | page (p off : Nat)
  | admin (off : Nat)
  | hole
deriving DecidableEq, Repr

/-- The local address space under context `c` (R199; R304 for the admin queue). -/
def State.place (s : State) (c a : Nat) : Place :=
  if a < 35184372088832 then
    if c == adminCtx then (if a < 67108864 then .admin a else .hole) else .page (a / 2097152) (a % 2097152)
  else if decide (263882790666240 ≤ a) && decide (a < 263882790666240 + 536870912 * s.dies) then
    .sram (a - 263882790666240)
  else .hole

/-- The cluster of a tier 0 offset (R200). -/
def sramCluster (off : Nat) : Nat := off / 33554432

/-- Granules of the three partitions of a cluster, as ends: spill, then quantiser, then outlier (R142, R200). -/
def State.partEnds (s : State) (k : Nat) : Nat × Nat × Nat :=
  let a := s.fld .splStageQuota k 7 0
  let b := s.fld .splStageQuota k 15 8
  let c := s.fld .splStageQuota k 23 16
  (a, a + b, a + b + c)

/-- Data movement may write operand SRAM and general staging granules (R200). -/
def State.sramWritable (s : State) (off : Nat) : Bool :=
  let o := off % 33554432
  decide (o < 16777216)
    || (decide (25165824 ≤ o) && decide ((s.partEnds (sramCluster off)).2.2 ≤ (o - 25165824) / 65536))

/-- The byte behind a page's reads (R202, R244): the frame, or the flash page while it is in FLASH or UP. -/
def PageS.readPhys (p : PageS) (off : Nat) : Option Nat :=
  match p.st with
  | .unmapped => .none
  | .hbm | .down => some (physFrame p.frame off)
  | .flash | .up => some (physFlash p.fpage off)

/-- The physical byte that a read at a local address reaches; none: unmapped. -/
def State.readPhys (s : State) (c a : Nat) : Option Nat :=
  match s.place c a with
  | .sram off => some (physSram off)
  | .admin off => some (physAdmin off)
  | .page p off => (s.page c p).readPhys off
  | .hole => none

/-- Bytes at a local address (an unmapped byte counts as zero: R232). -/
def State.rdVa (s : State) (c a : Nat) : Nat → List Byte
  | 0 => []
  | n + 1 => (match s.readPhys c a with | some p => s.byte p | none => 0) :: s.rdVa c (a + 1) n

def State.rd32 (s : State) (c a : Nat) : W32 := BitVec.ofNat 32 (ofLeBytes (s.rdVa c a 4))
def State.rd64 (s : State) (c a : Nat) : W64 := BitVec.ofNat 64 (ofLeBytes (s.rdVa c a 8))

/-- Where a byte of accumulator memory lies (R102, R103, R200): engine, unit, slot of the unit, index of the word in the
slot's words; none outside the slots. -/
def State.accPlace (s : State) (off : Nat) : Option (Nat × Nat × Nat × Nat) :=
  let o := off % 33554432
  if decide (o < 16777216) || decide (25165824 ≤ o) then none
  else
    let e := 16 * sramCluster off + (o - 16777216) / 524288
    let a := (o - 16777216) % 524288
    if (s.eng e).quarter then
      if 131072 ≤ a then none else some (e, a / 32768, a / 16384 % 2, a % 16384 / 4)
    else some (e, 0, a / 65536, a % 65536 / 4)

/-- The row and column of a word of a slot: rows of 128 words, of 64 in a quarter engine (R102). -/
def wordPlace (quarter : Bool) (w : Nat) : Nat × Nat :=
  let cols := if quarter then 64 else 128
  (w / cols, w % cols)

/-- An element of a slot is poisoned (R228, R229): its own mark, or that of its tile's row, column or tables. -/
def UnitS.elemPois (u : UnitS) (j r c : Nat) : Bool :=
  let x := Map.get (fun _ => SlotS.none) u.slots j
  x.pois.contains (128 * r + c)
  || (u.tiles.any fun t => x.tile == some t.id
      && (t.tablePoison || (decide (r < t.m) && decide (c < t.n) && (t.poisRows.contains r || t.poisCols.contains c))))

/-- The word of accumulator memory at a tier 0 offset holds a poisoned element, or a mark outside every placed tile
(R228). -/
def State.accPoisoned (s : State) (off : Nat) : Bool :=
  s.accPois.contains (off / 4) || match s.accPlace off with
  | some (e, q, j, w) =>
    let p := wordPlace (s.eng e).quarter w
    (Map.get (fun _ => UnitS.none) (s.eng e).units q).elemPois j p.1 p.2
  | none => false

/-- The line of a local address is poisoned; in accumulator memory, its element. -/
def State.vaPoisoned (s : State) (c a : Nat) : Bool :=
  match s.readPhys c a with
  | some p => s.poison.contains (p / 64) || (decide (p < memStride) && s.accPoisoned p)
  | none => false

/-- The first poisoned byte address among the `n` bytes at `a`, which lie in one line: in accumulator memory each word has
its own mark. -/
def State.poisonWithin (s : State) (c a n : Nat) : Option Nat :=
  ((List.range (a % 4 + n)).filterMap fun i =>
    if i == 0 || (a - a % 4 + i) % 4 == 0 then some (max a (a - a % 4 + i)) else none).find? fun x => s.vaPoisoned c x

/-- The first poisoned byte address among `n` bytes at `a`, line by line. -/
def State.firstPoison (s : State) (c a n : Nat) : Option Nat :=
  if n == 0 then none
  else (List.range ((a + n - 1) / 64 - a / 64 + 1)).findSome? fun i =>
    let lo := max a ((a / 64 + i) * 64)
    match s.place c lo with
    | .sram _ => s.poisonWithin c lo (min (a + n) ((a / 64 + i + 1) * 64) - lo)
    | _ => if s.vaPoisoned c lo then some lo else none

/-- The pages that `n` bytes at a unified-range address touch. -/
def pagesTouched (a n : Nat) : List Nat :=
  if n == 0 then [] else (List.range ((a + n - 1) / 2097152 - a / 2097152 + 1)).map (· + a / 2097152)

/-- The clusters that `n` bytes at a tier 0 offset touch. -/
def clustersTouched (off n : Nat) : List Nat :=
  if n == 0 then [] else (List.range ((off + n - 1) / 33554432 - off / 33554432 + 1)).map (· + off / 33554432)

/-- A stream under a value of CFG_RNG_STEP (R190). -/
def flagKey (step : W64) (st : W32) : Nat := 4294967296 * step.toNat + st.toNat

/-- A computed local address as 64 bits; one beyond them names nothing (R199). -/
def vaOf (a : Nat) : W64 := if a < 18446744073709551616 then BitVec.ofNat 64 a else BitVec.allOnes 64

/-- The check of a region that a command reads, at acceptance (R199, R203, R309); `w`: the packet word that gives it. A tier 0
address names its cluster for a region of no bytes too. -/
def State.chkRead (s : State) (c : Nat) (w : Nat) (a : W64) (n : Nat) : Option Err :=
  let a := a.toNat
  match s.place c a, s.place c (a + (n - 1)) with
  | .page _ _, .page _ _ =>
    if (pagesTouched a n).any fun p => (s.page c p).st == .unmapped then some (Err.word St.unmapped w) else none
  | .sram off, .sram _ =>
    if (clustersTouched off (max n 1)).any fun k => s.ownerOf k != some c then some (Err.word St.notOwner w) else none
  | .admin _, .admin _ => none
  | _, _ => some (Err.word St.unmapped w)

/-- Pages that hold the Almanac region of a context (R160). -/
def State.almPage (s : State) (c p : Nat) : Bool :=
  let b := (s.reg .almBase c).toNat / 2097152
  s.reg .almBase c != 0 && (p == b || p == b + 1)

/-- A page lies in a protected range, and in a digest range, of its context; an Almanac page counts as unprotected
(R160, R242). -/
def State.protPage (s : State) (c p : Nat) : Bool :=
  ((s.ctx c).ranges.any fun r => decide (r.first ≤ p) && decide (p < r.first + r.count)) && !s.almPage c p
def State.digestPage (s : State) (c p : Nat) : Bool :=
  ((s.ctx c).ranges.any fun r => r.digest && decide (r.first ≤ p) && decide (p < r.first + r.count)) && !s.almPage c p

/-- `n` bytes at `a` touch [lo, lo + m). -/
def overlaps (a n lo m : Nat) : Bool := decide (a < lo + m) && decide (lo < a + n)

/-- `n` bytes at `a` touch the Almanac region of the context (R160). -/
def State.inAlmanac (s : State) (c a n : Nat) : Bool :=
  s.reg .almBase c != 0 && overlaps a n (s.reg .almBase c).toNat 4194304

/-- Data movement must not write the Almanac region (R160) or the stream table (R189). -/
def State.dmForbidden (s : State) (c a n : Nat) : Bool :=
  s.inAlmanac c a n || (s.reg .cfgStreamBase c != 0 && overlaps a n (s.reg .cfgStreamBase c).toNat 524288)

/-- The check of a region that a command writes, at acceptance (R160, R199, R200, R203, R212): the Almanac region changes
only by statistics, Equinox processing and ALM_SLOT_WRITE. -/
def State.chkWrite (s : State) (c : Nat) (w : Nat) (a : W64) (n : Nat) : Option Err :=
  let x := a.toNat
  match s.chkRead c w a n with
  | some e => some e
  | none =>
    match s.place c x with
    | .page _ _ =>
      if s.inAlmanac c x n then some (Err.word St.badField w)
      else if (pagesTouched x n).any fun p => (s.page c p).sealed then some (Err.word St.sealed w) else none
    | .sram off =>
      if (List.range ((off + n - 1) / 65536 - off / 65536 + 1)).all fun i => s.sramWritable ((off / 65536 + i) * 65536)
      then none else some (Err.word St.badField w)
    | _ => none

/-! ### Flights and step flags -/

/-- The flight reads the poisoned line of `a`: the step's poison flag, and the event, which carries the line's address,
once per command (R230); in the first step the context is to be terminated (R368). -/
def State.consume (s : State) (id c a : Nat) : State :=
  let s := s.updCtx c fun x => { x with poison := true, consumed := x.consumed || s.epoch c == 0 }
  match s.flightOf id with
  | some f =>
    if f.poisoned then s
    else
      let s := s.updFlight id fun f => { f with poisoned := true }
      let s := (s.orReg .tierCtxErr c 4).bump .tierPoisonReads 0 1
      s.raise 0x0301 2 (some c) (f.queue / 4096) (words64 (BitVec.ofNat 64 (a / 64 * 64)))
  | none => s

/-- The flight reads `n` bytes at `a`: consume the first poisoned line among them, if any. -/
def State.consumeRange (s : State) (id c a n : Nat) : State :=
  match s.firstPoison c a n with
  | some x => s.consume id c x
  | none => s

/-! ### Frames and quotas (R218, R219) -/

/-- Pages of the context that an image of its own still holds in a frame. -/
def State.heldFrames (s : State) (c : Nat) : List Nat :=
  (s.images.filter fun i => i.ctx == c && i.st == .draining).flatMap fun i =>
    (i.pages.filter fun p => !p.drained).map fun p => p.frame

/-- Frames that live pages of the context map, and its step-start frames. -/
def State.liveFrames (s : State) (c : Nat) : List Nat :=
  (s.pagesOf c).flatMap fun e =>
    (match e.2.st with | .hbm | .down | .up => [e.2.frame] | _ => [])
    ++ e.2.stepStart.toList ++ e.2.prevStart.toList ++ e.2.copying.toList

/-- Image-only frames: H of R246. -/
def State.imageOnly (s : State) (c : Nat) : List Nat :=
  let live := s.liveFrames c
  ((s.heldFrames c).filter fun f => !live.contains f).eraseDups

/-- HBM use in frames (R219). -/
def State.hbmUse (s : State) (c : Nat) : Nat := (s.liveFrames c).length + (s.imageOnly c).length

/-- Flash use in pages (R219, R254). -/
def State.flashUse (s : State) (c : Nat) : Nat :=
  ((s.pagesOf c).filter fun e => e.2.st == .flash || e.2.st == .down || e.2.st == .up).length
  + ((s.images.filter fun i => i.ctx == c && i.st != .failed).map fun i => i.quota).sum

/-- The sum of a quota register over all contexts. -/
def State.quotaSum (s : State) (r : Reg) : Nat := ((List.range 64).map fun c => (s.reg r c).toNat).sum

/-! ### Stores (R203, R212, R244, R245, R247) -/

/-- Cut bytes at 64-byte lines. -/
def linePieces : Nat → Nat → List Byte → List (Nat × List Byte)
  | 0, _, _ => []
  | fuel + 1, a, bs =>
    if bs.isEmpty then []
    else
      let k := 64 - a % 64
      (a, bs.take k) :: linePieces fuel (a + k) (bs.drop k)

/-- The pieces of a store, one per line. -/
def storePieces (a : Nat) (bs : List Byte) : List (Nat × List Byte) := linePieces (bs.length + 1) a bs

/-- A step copy begins: a free frame is taken (R244). -/
def State.beginCopy (s : State) (c p : Nat) : State :=
  { (s.updPage c p fun x => { x with copying := some s.nextFrame, creditWait := false }) with
    nextFrame := s.nextFrame + 1 }

/-- A copy finds no frame in the quota (R245). -/
def State.copyQuotaFail (s : State) (c : Nat) : State :=
  (s.updCtx c fun x => { x with copyQuota := true }).raise 0x0405 2 (some c) anchorDie []

/-- The step-start frame of the page is held by an undrained image of the context (R247). -/
def State.frameHeld (s : State) (c frame : Nat) : Bool := (s.heldFrames c).contains frame

/-- A write to a page needs a step copy first (R244): protected, not in HELD (R239), none made in this step. -/
def State.needsCopy (s : State) (c p : Nat) : Bool :=
  s.protPage c p && (s.page c p).stepStart.isNone && (s.ctx c).phase != .held

/-- Store one piece (within a line) at a unified-range address under the rules of the moment at which it is made:
none on success or waiting, or the status that ends its command. -/
def State.storePage (s : State) (fl : Option Nat) (c a : Nat) (bs : List Byte) (pois : Bool) : Option Nat × State :=
  let p := a / 2097152
  let x := s.page c p
  let wait : WaitStore := ⟨fl, a, bs, pois⟩
  if x.st == .unmapped then (some St.unmapped, s)
  else if x.sealed then (some St.sealed, s)
  else if x.copying.isSome || x.creditWait then
    (none, s.updPage c p fun x => { x with waits := x.waits ++ [wait] })
  else if s.needsCopy c p then
    let t := s.updPage c p fun x => { x with waits := x.waits ++ [wait] }
    let held := s.frameHeld c x.frame
    if held && decide ((s.reg .eqxCredits c).toNat ≤ (s.ctx c).creditsHeld.length) then
      ((none : Option Nat), t.updPage c p fun x => { x with creditWait := true })
    else if (s.reg .tierQuotaHbm c).toNat ≤ s.hbmUse c then (some St.quota, s.copyQuotaFail c)
    else if held then
      (none, (t.updCtx c fun y => { y with
        creditPages := NatSet.ins p y.creditPages, creditsHeld := NatSet.ins x.frame y.creditsHeld }).beginCopy c p)
    else (none, t.beginCopy c p)
  else (none, s.wr (physFrame x.frame (a % 2097152)) bs pois)

/-! ### Operand SRAM that array commands still read (R90) -/

/-- The regions (offset, bytes) of an operand: base, stride, number of stored rows, bytes per row. -/
structure OpRegion where
  base : Nat
  stride : Nat
  rows : Nat
  bytes : Nat
deriving DecidableEq, Repr

def OpRegion.touches (r : OpRegion) (a n : Nat) : Bool :=
  (List.range r.rows).any fun i => overlaps a n (r.base + i * r.stride) r.bytes

end Sys2Proof.Machine
end

