-- ==== Sys2Proof/Machine/Operands.lean ====
section
/-! DEFINITION. Command packets: how a packet is taken from the head of its queue (R307 to R315), its header checks
(R312), the accesses of a command in flight (R203, R228, R230, R244) and its completion (R303, R306, R315, R317). -/

namespace Sys2Proof.Machine

open Sys2Proof

/-! ### Opcodes (R320) -/

/-- The queues on which an opcode may be issued. -/
inductive QueueKind where
  | any | context | admin
deriving DecidableEq, Repr

/-- An opcode of R320: its code, its length code (0: 64 bytes, 1: 128), its queues, and how R239 treats it in HELD. -/
structure Opc where
  code : Nat
  size : Nat
  queues : QueueKind
  inHeld : Bool
deriving DecidableEq, Repr

/-- The assigned opcodes (R320). -/
def assignedOpcodes : List Nat :=
  [0x000, 0x001, 0x002, 0x003, 0x004, 0x100, 0x101, 0x102, 0x200, 0x201, 0x202, 0x203, 0x300, 0x301, 0x302, 0x310]
  ++ [0x320, 0x321, 0x330, 0x400, 0x401, 0x402, 0x403, 0x404, 0x410, 0x411, 0x430, 0x431]
  ++ [0x500, 0x501, 0x502, 0x503, 0x504, 0x505, 0x510, 0x511, 0x512, 0x513, 0x514, 0x515]
  ++ [0x600, 0x601, 0x602, 0x603, 0x610, 0x620, 0x621, 0x622, 0x700, 0x701, 0x702]

/-! ### Accesses of a command in flight -/

/-- End a flight with a fault found while it runs: effect 1 once an access was made, else 0 (R203). -/
def State.failFlight (s : State) (id st : Nat) (detail : W32) : State :=
  s.updFlight id fun f =>
    if f.status == St.ok then { f with status := st, detail := detail, effect := if f.made then 1 else 0 } else f

/-- The flight still runs without a fault. -/
def State.running (s : State) (id : Nat) : Bool :=
  match s.flightOf id with
  | some f => f.status == St.ok
  | none => false

/-- A line of operand SRAM of an engine is still read by an accepted array command (R90): decided from the regions of
its accepted commands. Region list: (base, stride, rows, bytes). -/
def regionsRead (regs : List OpRegion) (a n : Nat) : Bool := regs.any fun r => r.touches a n

/-- The element width of a CSI type field (R40). -/
def csiWidth (t : Nat) : Nat := t / 256 % 16

/-- Bytes of `n` packed codes of width w, padded to 64 codes (R53, R54). -/
def packedBytes (w n : Nat) : Nat := ceilDiv n 64 * 8 * w

/-- The operand regions of an ARR_MATMUL (R88): vector order has a row per channel, cross order a row per index. -/
def matmulRegions (p : MatmulP) : List OpRegion :=
  let g := fun (base stride : Nat) (t : Nat) (tr : Bool) (chans k : Nat) =>
    if tr then (⟨base, stride, k, packedBytes (csiWidth t) chans⟩ : OpRegion)
    else ⟨base, stride, chans, packedBytes (csiWidth t) k⟩
  [g p.aBase.toNat p.aStride.toNat p.typeA.toNat p.ta p.mRows.toNat p.kLen.toNat,
   g p.bBase.toNat p.bStride.toNat p.typeB.toNat p.tb p.nCols.toNat p.kLen.toNat]

/-- The bytes of those regions that the command reads: of a channel in vector order, those of its K codes alone (R88, R90). In
cross order the zero codes that pad a row to a multiple of 64 are among them (DESIGN CHOICE, log entry 100). -/
def matmulReads (p : MatmulP) : List OpRegion :=
  let cut := fun (r : OpRegion) (t : Nat) (tr : Bool) =>
    if tr then r else { r with bytes := ceilDiv (csiWidth t * p.kLen.toNat) 8 }
  match matmulRegions p with
  | [a, b] => [cut a p.typeA.toNat p.ta, cut b p.typeB.toNat p.tb]
  | rs => rs

/-- Operand SRAM bytes that accepted array commands of engine `e` still read (R90). -/
def State.stillRead (s : State) (e a n : Nat) : Bool :=
  (s.eng e).units.any fun u => u.2.window.any fun w =>
    !w.readsEnded && (match w.cmd with | .matmul p => regionsRead (matmulReads p) a n | _ => false)

/-- A tier 0 store of a command: held while an accepted array command still reads the bytes (R90), or while an earlier
store that it overlaps is held (DESIGN CHOICE, log entry 104). -/
def State.storeSram (s : State) (id off : Nat) (bs : List Byte) (pois : Bool) : State :=
  let k := sramCluster off
  let o := off % 33554432
  let e := 16 * k + o / 1048576
  let held := (s.eng e).deferred.any fun d => overlaps d.off d.bytes.length (o % 1048576) bs.length
  if decide (o < 16777216) && (s.stillRead e (o % 1048576) bs.length || held) then
    s.updEng e fun x => { x with deferred := x.deferred ++ [⟨id, o % 1048576, bs, pois⟩] }
  else s.wr (physSram off) bs pois

/-- Store one piece of a flight, checked when it is made (R203); a fault ends the flight. -/
def State.storePiece (s : State) (id c a : Nat) (bs : List Byte) (pois : Bool) : State :=
  if !s.running id then s
  else match s.place c a with
  | .sram off => (s.storeSram id off bs pois).updFlight id fun f => { f with made := true }
  | .admin off => (s.wr (physAdmin off) bs pois).updFlight id fun f => { f with made := true }
  | .page _ _ =>
    match s.storePage (some id) c a bs pois with
    | (some st, s) => s.failFlight id st 0
    | (none, s) => s.updFlight id fun f => { f with made := true }
  | .hole => s.failFlight id St.unmapped 0

/-- Store bytes of a flight in ascending order. -/
def State.store (s : State) (id c a : Nat) (bs : List Byte) (pois : Bool) : State :=
  (storePieces a bs).foldl (fun s p => s.storePiece id c p.1 p.2 pois) s

/-- Byte x as a store of bytes at `a` leaves it. -/
def putOver (x : Nat) (b : Byte) (a : Nat) (bs : List Byte) : Byte :=
  if decide (a ≤ x) && decide (x < a + bs.length) then nth b bs (x - a) else b

/-- A byte as the stores that wait to land will leave it. -/
def State.pendingByte (s : State) (c x : Nat) (b : Byte) : Byte :=
  match s.place c x with
  | .page _ _ => (s.page c (x / 2097152)).waits.foldl (fun b w => putOver x b w.addr w.bytes) b
  | .sram off =>
    let o := off % 33554432
    (s.eng (16 * sramCluster off + o / 1048576)).deferred.foldl (fun b d => putOver (o % 1048576) b d.off d.bytes) b
  | _ => b

/-- Bytes at an address as they will be once the stores that wait have landed: what a read-modify-write builds on (R53,
R279). -/
def State.rdPending (s : State) (c a n : Nat) : List Byte := (s.rdVa c a n).mapIdx fun i b => s.pendingByte c (a + i) b

/-- The flight has ended with a fault: it makes no further access (R203). -/
def State.faulted (s : State) (id : Nat) : Bool :=
  match s.flightOf id with
  | some f => f.status != St.ok
  | none => false

/-- Every one of `n` bytes at a local address can be read (R199, R202). -/
def State.mapped (s : State) (c a n : Nat) : Bool :=
  match s.place c a with
  | .page _ _ => (pagesTouched a n).all fun p => (s.page c p).st != .unmapped
  | .hole => n == 0
  | _ => true

/-- A flight has made an access (R203). -/
def State.madeAccess (s : State) (id : Nat) : State := s.updFlight id fun f => { f with made := true }

/-- Read bytes of a flight in ascending order, checked when the read is made (R203): the bytes, whether a line was
poisoned, and the state after any poison was consumed (R230). A read that finds its page unmapped is not made and ends
the flight; a flight that has ended reads nothing. -/
def State.load (s : State) (id c a n : Nat) : List Byte × Bool × State :=
  if s.faulted id then (List.replicate n 0, false, s)
  else if !s.mapped c a n then (List.replicate n 0, false, s.failFlight id St.unmapped 0)
  else (s.rdVa c a n, (s.firstPoison c a n).isSome, (s.consumeRange id c a n).madeAccess id)

/-- Read ranges of memory for a flight, in order, as `State.load` reads each. -/
def State.loadAll (s : State) (id c : Nat) (rs : List (Nat × Nat)) : State :=
  rs.foldl (fun (s : State) r => (s.load id c r.1 r.2).2.2) s

/-- Mark two elements of a slot, `a` the first. -/
def UnitS.markPair (u : UnitS) (j a : Nat) : UnitS :=
  let y := Map.get (fun _ => SlotS.none) u.slots j
  { u with slots := Map.set (fun _ => SlotS.none) u.slots j { y with pois := NatSet.ins a (NatSet.ins (a + 1) y.pois) } }

/-- An uncorrectable error in accumulator memory marks the two elements of its 64-bit word and nothing else (R228): in a
slot that a tile holds the tile's elements, elsewhere, preload staging included, the words where they lie. -/
def State.markAccum (s : State) (off : Nat) : State :=
  let w0 := off / 8 * 2
  let bare := { s with accPois := NatSet.ins w0 (NatSet.ins (w0 + 1) s.accPois) }
  match s.accPlace off with
  | none => bare
  | some (e, q, j, w) =>
    let p := wordPlace (s.eng e).quarter (w / 2 * 2)
    let u := Map.get (fun _ => UnitS.none) (s.eng e).units q
    if (Map.get (fun _ => SlotS.none) u.slots j).tile.isNone then bare
    else s.updEng e fun x =>
      { x with units := Map.set (fun _ => UnitS.none) x.units q (u.markPair j (128 * p.1 + p.2)) }

/-- A physical byte lies in accumulator memory (R200). -/
def isAccum (p : Nat) : Bool :=
  decide (p < memStride) && decide (16777216 ≤ p % 33554432) && decide (p % 33554432 < 25165824)

/-- An ECC decoder's finding while a line is read (R227, R228): corrected and counted, or the line is poisoned; in
accumulator memory the two elements of the failed word. A page served from flash is read by the flash translation layer,
whose codewords FLASH_READ_COMPLETE reports. -/
def State.eccAt (s : State) (c : Nat) (hit : EccHit) : State :=
  match s.readPhys c hit.addr.toNat with
  | none => s
  | some p =>
    let isSram := decide (p < memStride)
    let die := if isSram then p / 536870912 else 0
    let free := s.nextFree
    let d := if isSram then (die, s) else (Config.freeNat free.1 % s.dies, free.2)
    if decide (2 * memStride ≤ p) && decide (p < 3 * memStride) then s
    else
      let s := d.2
      match hit.kind with
      | .corrected =>
        (s.bump (if isSram then .tierSramCe else .tierHbmCe) 0 1).bump .vwmLcEccCe d.1 1
      | .uncorrectable =>
        let s := (s.bump (if isSram then .tierSramUe else .tierHbmUe) 0 1).bump .vwmLcEccUe d.1 1
        if isAccum p then s.markAccum p else { s with poison := NatSet.ins (p / 64) s.poison }

/-- Stores of the flight that wait for a step copy, an image credit or the end of an array command's reads. -/
def State.waitingStores (s : State) (id : Nat) : Bool :=
  (s.pages.any fun p => p.2.waits.any fun w => w.flight == some id)
  || (s.engs.any fun e => e.2.deferred.any fun d => d.flight == id)

/-! ### Grants (R354 to R356) -/

/-- The cluster of a governed unit; the collective engine belongs to none. -/
def State.unitCluster (d : Nat) : GovUnit → Option Nat
  | .engine i => some (16 * d + i / 16)
  | .elt i => some (16 * d + i / 2)
  | .qnt i => some (16 * d + i)
  | .coll => none

/-- The place of a unit in the order of ties (R354). -/
def govRank : GovUnit → Nat
  | .engine i => i
  | .elt i => 256 + i
  | .qnt i => 288 + i
  | .coll => 304

/-- Units by rank. -/
def insRank (u : GovUnit) : List GovUnit → List GovUnit
  | [] => [u]
  | v :: t => if govRank u ≤ govRank v then u :: v :: t else v :: insRank u t

/-- The array cycles of a unit: those that its cluster's clock has delivered; of a collective engine, those that the bin
delivers (R344, R355). -/
def State.unitCycles (s : State) (d : Nat) (u : GovUnit) : Nat :=
  match State.unitCluster d u with
  | some k => s.clusCycles k
  | none => s.clk.delivered

/-- A unit has work in the present cycle, or takes its grant: its idle time, and that of its cluster, starts over (R350,
R355). -/
def State.touchUnit (s : State) (d : Nat) (u : GovUnit) : State :=
  let g := s.govOf d
  let n := s.unitCycles d u
  let s := s.setGov d { g with busyAt := Map.set (fun _ => 0) g.busyAt (govRank u) n }
  match State.unitCluster d u with
  | some k =>
    let x := Map.get (fun _ => ClusClk.none) s.clk.clus k
    { s with clk := { s.clk with clus := Map.set (fun _ => ClusClk.none) s.clk.clus k { x with lastBusy := n } } }
  | none => s

/-- A unit with work and no grant requests one; a unit that coasts goes on under its grant (R354, R355). -/
def State.requestGrant (s : State) (d : Nat) (u : GovUnit) : State :=
  let g := s.govOf d
  if g.granted.contains u then s.setGov d { g with asking := g.asking.filter fun x => x != u }
  else if g.waiting.contains u || g.fresh.contains u then s
  else s.setGov d { g with fresh := insRank u g.fresh }

def State.grantedTo (s : State) (d : Nat) (u : GovUnit) : Bool := (s.govOf d).granted.contains u

/-- A unit receives work: its cluster's clock restarts and it asks for a grant (R350, R354). -/
def State.giveWork (s : State) (d : Nat) (u : GovUnit) : State :=
  let s := s.touchUnit d u
  let s := match State.unitCluster d u with
    | some k =>
      let x := Map.get (fun _ => ClusClk.none) s.clk.clus k
      { s with clk := { s.clk with clus := Map.set (fun _ => ClusClk.none) s.clk.clus k { x with gated := false } } }
    | none => s
  s.requestGrant d u

/-- The commands of a quantiser, of an element engine, in the order of their delivery: the first 4, or 8, are its window
(R144, R179). -/
def State.qntList (s : State) (u : Nat) : List Nat := Map.get (fun _ => []) s.qnts u
def State.eltList (s : State) (el : Nat) : List Nat := Map.get (fun _ => []) s.elts el

/-- The governed units that a flight has work in: (die, unit). -/
def State.unitsOf (s : State) (f : Flight) : List (Nat × GovUnit) :=
  (match f.work with | .array e => [(e / 256, GovUnit.engine (e % 256))] | _ => [])
  ++ ((s.colls.filter fun x => x.flight == f.id).map fun x => (x.die, GovUnit.coll))
  ++ ((s.qnts.filter fun e => e.2.contains f.id).map fun e => (e.1 / 16, GovUnit.qnt (e.1 % 16)))
  ++ (s.elts.filter fun e => e.2.contains f.id).map fun e => (e.1 / 32, GovUnit.elt (e.1 % 32))

/-! ### Completion (R303, R306, R315, R317) -/

/-- The 32 bytes of a completion record (R317). -/
def recordBytes (f : Flight) (phase : Bool) (time : Nat) : List Byte :=
  leBytes 4 (f.hdr.tag.toNat * 65536 + f.status * 256 + f.effect * 64 + (if phase then 1 else 0))
  ++ leBytes 4 (f.opcode * 1048576 + f.hdr.queue.toNat)
  ++ leBytes 4 f.gen ++ leBytes 4 f.detail.toNat ++ leBytes 8 time ++ leBytes 8 f.result.toNat

/-- A ring page is mapped, in HBM and unsealed (R303). -/
def State.ringOk (s : State) (c a : Nat) : Bool :=
  if c == adminCtx then true
  else let p := s.page c (a / 2097152); p.st == .hbm && !p.sealed

/-- The queue stops on a bad ring page (R303). -/
def State.queueStop (s : State) (q : Nat) : State :=
  let x := s.queue q
  (s.setQueue q { x with stopped := true }).raise 0x0601 2 (if x.ctx == adminCtx then none else some x.ctx) (q / 4096) []

/-- Write one completion record at the queue's next entry, with its phase (R306); a bad ring page stops the queue. -/
def State.writeRecord (s : State) (f : Flight) : State :=
  let x := s.queue f.queue
  let n := 2 ^ x.cplLog2
  let a := x.cplBase.toNat + 32 * (x.written % n)
  if x.present == false then s
  else if !s.ringOk x.ctx a then s.queueStop f.queue
  else
    let bs := recordBytes f (x.written / n % 2 == 0) s.now
    let s := if x.ctx == adminCtx then s.wr (physAdmin a) bs false else (s.storePage none x.ctx a bs false).2
    s.setQueue f.queue { x with written := x.written + 1, unread := x.unread + 1 }

/-- Register flags that a completion with a status sets (owning chapters of R319). -/
def State.statusFlags (s : State) (f : Flight) : State :=
  if f.status == St.sealed then s.orReg .tierCtxErr f.ctx 2
  else if f.status == St.noRoute then s.orReg .ngfCtxErr f.ctx 1
  else if f.status == St.reduceMissing then s.orReg .ngfCtxErr f.ctx 8
  else if f.status == St.collMismatch then s.orReg .ngfCtxErr f.ctx 16
  else if f.status == St.cfgConflict then s.orReg .cfgTxnErr 0 1
  else if f.status == St.txnAborted then s.orReg .cfgTxnErr 0 4
  else s

/-- Add 1 to the counter a flight signals (R315). -/
def State.signal (s : State) (f : Flight) : State :=
  if f.hdr.signalEn then s.setCtr f.ctx f.hdr.signalCtr.toNat (s.ctr f.ctx f.hdr.signalCtr.toNat + 1) else s

/-- A flight leaves the windows of the quantisers or element engines (R146, R179). -/
def leaveWindows (id : Nat) (m : Map (List Nat)) : Map (List Nat) :=
  (m.map fun e => (e.1, e.2.filter fun x => x != id)).filter fun e => !e.2.isEmpty

/-- The granules that a flight's conversion holds are released (R146). -/
def ClusS.release (x : ClusS) (id : Nat) : ClusS :=
  let gone := fun (l : List (Nat × List Nat)) => (l.filter fun w => w.1 == id).flatMap fun w => w.2
  { x with
    outl := x.outl.filter fun g => !(gone x.outlHeld).contains g
    qnt := x.qnt.filter fun g => !(gone x.qntHeld).contains g
    outlHeld := x.outlHeld.filter fun w => w.1 != id
    qntHeld := x.qntHeld.filter fun w => w.1 != id }

/-- A flight leaves: its counter is signalled, then its record written and its message sent (R315, R311); `record`
false: its queue had stopped before (R303). -/
def State.retire (s : State) (f : Flight) (record : Bool) : State :=
  let s := (s.unitsOf f).foldl (fun (s : State) x => s.touchUnit x.1 x.2) s
  let s := { s with
    flight := dropFirst (fun x => x.id == f.id) s.flight
    qnts := leaveWindows f.id s.qnts
    clus := (s.clus.map fun (e : Nat × ClusS) => (e.1, e.2.release f.id)).filter fun (e : Nat × ClusS) => e.2 != ClusS.none
    elts := leaveWindows f.id s.elts }
  let s := State.statusFlags s f
  let s := s.signal f
  let n := Map.get (fun _ => 0) s.vigil.completed f.queue
  let s := { s with vigil := { s.vigil with completed := Map.set (fun _ => 0) s.vigil.completed f.queue (n + 1) } }
  if (f.hdr.noCpl && f.status == St.ok) || !record then s
  else
    let s := s.writeRecord f
    if f.hdr.irq && !(s.queue f.queue).stopped then s.msix (s.queue f.queue).msix else s

/-- Complete a flight: an outcome carries effect 2 (R317, R318). -/
def State.complete (s : State) (id : Nat) : State :=
  match s.flightOf id with
  | none => s
  | some f =>
    let f := if f.status < 0x40 then { f with effect := 2 } else f
    s.retire f (!(s.queue f.queue).stopped)

/-- Set the outcome of a flight. -/
def State.outcome (s : State) (id st : Nat) (detail : W32) (result : W64) : State :=
  s.updFlight id fun f => { f with status := st, detail := detail, result := result }

/-- End a command in the row that dispatched it: rejected with no effect (R18). -/
def State.reject (s : State) (id : Nat) (e : Err) : State := (s.outcome id e.st e.detail 0).complete id

/-- A command whose checks found a fault is rejected; else it runs (R18, R309). -/
def State.guarded (s : State) (id : Nat) (e : Option Err) (run : State → State) : State :=
  match e with
  | some e => s.reject id e
  | none => run s

/-- The work of a flight is over: it completes now, unless stores wait (then COMMAND_COMPLETE completes it). -/
def State.finishNow (s : State) (id : Nat) : State :=
  let s := s.updFlight id fun f => { f with finished := true }
  if s.waitingStores id then s else s.complete id

/-- The work of a flight is over; its completion is a later COMMAND_COMPLETE. -/
def State.finishLater (s : State) (id : Nat) : State := s.updFlight id fun f => { f with finished := true }

/-! ### Memory that hardware keeps structures in -/

/-- `n` bytes of which the manual gives no value. -/
def State.freeBytes (s : State) : Nat → List Byte × State
  | 0 => ([], s)
  | n + 1 =>
    let r := s.freeBytes n
    let k := r.2.nextFree
    (r.1 ++ [Config.freeByte k.1], k.2)

/-! ### Deadline comparators (R289, R400) -/

/-- Comparators of a die that reduction deadlines hold (R289). -/
def State.deadlinesOn (s : State) (d : Nat) : Nat :=
  (s.colls.filter fun x => x.die == d && x.armed1).length + (s.colls.filter fun x => x.die == d && x.armed3).length

/-- The comparators that Vigil holds on a die, and its granularity in ms. -/
def State.vigilGrain (s : State) (d : Nat) : Nat × Nat :=
  let m := s.fld .vwmVigilCtrl 0 29 24
  let c := min m (256 - s.deadlinesOn d)
  (c, if c == 0 then 1000 else s.fld .vwmVigilCtrl 0 23 16 * ceilDiv m c)

/-- Show a die's comparators and granularity; a change of the granularity raises EV_VIGIL_COARSE, at most once per
second (R400). -/
def State.regrain (s : State) (d : Nat) : State :=
  let g := s.vigilGrain d
  let old := s.fld .vwmVigilDie d 23 0
  let s := s.setReg .vwmVigilDie d (BitVec.ofNat 64 (g.1 * 16777216 + g.2))
  let quiet := s.vigil.coarseAt.any fun e => e.1 == d && decide (s.now < e.2 + 1000000000)
  if old == g.2 || quiet then s
  else
    let s := { s with vigil := { s.vigil with coarseAt := (Map.del s.vigil.coarseAt d) ++ [(d, s.now)] } }
    s.raise 0x0903 0 none anchorDie [BitVec.ofNat 32 d, BitVec.ofNat 32 g.2]

/-- The bucket's key among the collectives of its context: gathers are numbered apart (R284, R298). -/
def CollS.key (x : CollS) : Nat := x.bucket + if x.gather then 1048576 else 0

/-- Change the bucket with a key. -/
def State.updColl (s : State) (c b : Nat) (f : CollS → CollS) : State :=
  { s with colls := updFirst (fun x => x.ctx == c && x.key == b) f s.colls }

/-- What a root and a reducer hold of slot k. -/
def CollS.expSlot (x : CollS) (k : Nat) : ExpSlot := Map.get (fun _ => ExpSlot.none) x.exps k
def CollS.conSlot (x : CollS) (k : Nat) : CollSlot := Map.get (fun _ => CollSlot.none) x.cons k

/-- A slot of phase 1, of phase 3, is undecided. -/
def CollS.undecided1 (x : CollS) : Bool := (List.range x.slots.length).any fun k => (x.expSlot k).taken == .undecided
def CollS.undecided3 (x : CollS) : Bool := (List.range x.slots.length).any fun k => (x.conSlot k).taken == .undecided

/-- A deadline runs in phase 1, in phase 3, until the slot decisions of the phase are made (R289). -/
def CollS.open1 (x : CollS) : Bool := x.deadlineUs != 0 && x.expAt.isSome && x.undecided1 && !x.rootDone && !x.done
def CollS.open3 (x : CollS) : Bool := x.deadlineUs != 0 && x.conAt.isSome && x.undecided3 && !x.written && !x.done

/-- Free the comparators whose decisions are made, and arm the deadlines that wait for one (R289). -/
def State.armDie (s : State) (d : Nat) : State :=
  let s := { s with colls := s.colls.map fun (x : CollS) =>
    if x.die == d then { x with armed1 := x.armed1 && x.open1, armed3 := x.armed3 && x.open3 } else x }
  let s := s.colls.foldl (fun (s : State) y =>
    if y.die != d then s
    else
      let s := if y.open1 && !y.armed1 && decide (s.deadlinesOn d < 256) then
        s.updColl y.ctx y.key fun x => { x with armed1 := true } else s
      if y.open3 && !y.armed3 && decide (s.deadlinesOn d < 256) then
        s.updColl y.ctx y.key fun x => { x with armed3 := true } else s) s
  s.regrain d

/-! ### Termination and part fault (R369, R370) -/

/-- An engine in full mode with every slot FREE and nothing to do; when its injected check tiles fall due, and their next
pattern, do not depend on what it ran (R371). -/
def EngS.clear (x : EngS) : EngS := { EngS.none with checkAt := x.checkAt, checkPat := x.checkPat }

/-- Every engine of a cluster to full mode with every slot FREE, and the cluster zeroed (R310 steps 2 and 3). -/
def State.clearCluster (s : State) (k : Nat) : State :=
  let s := s.zero (physSram (33554432 * k)) 33554432
  { s with
    engs := s.engs.filterMap fun e =>
      if e.1 / 16 != k then some e else if e.2.clear == EngS.none then none else some (e.1, e.2.clear)
    clus := Map.del s.clus k
    scales := s.scales.filter fun e => e.1 / 32768 != k
    qnts := Map.del s.qnts k
    elts := s.elts.filter fun e => e.1 / 2 != k }

/-- The clusters that a context owns, ascending. -/
def State.clustersOf (s : State) (c : Nat) : List Nat :=
  (s.owner.filter fun e => e.2 == some c).map fun e => e.1

/-- Abandon a flight (R369 step 2, R370). -/
def State.abandon (s : State) (f : Flight) : State :=
  s.retire { f with status := St.ctxTerminated, effect := 1, detail := 0, result := 0 } (!(s.queue f.queue).stopped)

/-- Drop the packets, by flight and packet, that commands still send or await answers to: those that wait for a transaction or
an endpoint context, those not acknowledged, their copies at the ports, and those that a refusal may name. -/
def State.dropPackets (s : State) (bad : Nat → Pkt → Bool) : State :=
  let gone := (s.fab.epts.flatMap fun e => e.2.unacked.filter fun u => bad u.flight u.pkt).map fun u => u.pkt
  { s with
    ports := s.ports.map fun e => (e.1, { e.2 with queued := e.2.queued.filter fun o => !gone.contains o.pkt })
    fab := { s.fab with
      waiting := s.fab.waiting.filter fun t => !bad t.flight t.pkt
      missOut := s.fab.missOut.filter fun t => !bad t.flight t.pkt
      epts := s.fab.epts.map fun e => (e.1, { e.2 with
        unacked := e.2.unacked.filter fun u => !bad u.flight u.pkt
        acked := e.2.acked.filter fun u => !bad u.flight u.pkt }) } }

/-- Drop what the flights of a context had waiting in memory, the fabric, the ports and the collectives. -/
def State.dropWaits (s : State) (ids : List Nat) : State :=
  let s := s.dropPackets fun id _ => ids.contains id
  { s with
    pages := s.pages.map fun e =>
      (e.1, { e.2 with waits := e.2.waits.filter fun w => !(w.flight.any fun i => ids.contains i) })
    ftl := { s.ftl with reads := s.ftl.reads.filter fun r => !r.flight.any fun i => ids.contains i }
    fab := { s.fab with
      txns := s.fab.txns.filter fun t => !ids.contains t.flight
      slow := s.fab.slow.filter fun t => match t.2 with | .own w => !ids.contains w.flight | .remote _ => true }
    colls := s.colls.filter fun x => x.done || !ids.contains x.flight }

/-- The collective packets of a context stop, those of its finished reductions too, and their transactions are free (R369). -/
def State.stopColls (s : State) (c : Nat) : State :=
  let s := s.dropPackets fun _ k => k.cls == 2 && k.srcCtx.toNat == c
  { s with fab := { s.fab with txns := s.fab.txns.filter fun t => !(t.kind == .coll && t.ctx == c) } }

/-- The flags of a step are cleared for the next one. -/
def CtxS.clearFlags (x : CtxS) : CtxS :=
  { x with nonfinite := false, poison := false, reductionMissing := false, copyQuota := false }

/-- Terminate a context (R369), whose step is abandoned with its flags; cause 1: poison at epoch 0,
2: an error in a firmware-held structure (R390). -/
def State.terminate (s : State) (c cause : Nat) : State :=
  let fs := s.ctxFlights c
  let dies := ((s.colls.filter fun x => x.ctx == c).map fun x => x.die).eraseDups
  let s : State := State.dropWaits (fs.foldl State.abandon s) (fs.map fun f => f.id)
  let s := s.stopColls c
  let s := { s with
    queues := s.queues.map fun (e : Nat × QueueS) => (e.1, if e.2.ctx == c then { e.2 with stopped := true } else e.2)
    txns := s.txns.filter fun t => t.ctx != c }
  let s : State := (s.clustersOf c).foldl State.clearCluster s
  let s := s.updCtx c fun x =>
    { x.clearFlags with
      terminated := true, consumed := false, phase := .idle, barrier := none, records := []
      roots := [], votes := [], lateRecs := [], tardy := [], tardyVotes := [] }
  let s := { s with early := s.early.filter fun e => e.ctx != c, colls := s.colls.filter fun x => x.ctx != c }
  let s : State := dies.foldl State.armDie s
  s.raise 0x0603 2 (some c) anchorDie [BitVec.ofNat 32 cause]

/-- After what may have consumed poison: at epoch 0 the context is terminated at once (R368). -/
def State.settle (s : State) (c : Nat) : State :=
  if (s.ctx c).consumed && !(s.ctx c).terminated && c != adminCtx then s.terminate c 1 else s

/-- The same for every context. -/
def State.settleAll (s : State) : State := (List.range 64).foldl State.settle s

/-- The part fault (R370): the collectives that end with it free their comparators (R289, R400). -/
def State.partFaulted (s : State) : State :=
  if s.boot.partFault then s
  else
    let ids := s.flight.map fun f => f.id
    let dies := (s.colls.map fun x => x.die).eraseDups
    let s : State := State.dropWaits (s.flight.foldl State.abandon s) ids
    let s : State := dies.foldl State.armDie s
    let s := { s with boot := { s.boot with partFault := true } }
    s.raise 0x0807 3 none anchorDie []

/-! ### Dispatch of a packet (R38, R239, R307, R312 to R315, R326, R335, R336) -/

/-- Commands of the context may be dispatched in its Equinox phase (R38, R239). -/
def State.eqxAllows (s : State) (c : Nat) (o : Opc) : Bool :=
  if c == adminCtx then true
  else match (s.ctx c).phase with
  | .idle => true
  | .held => o.inHeld
  | _ => false

/-- The contexts that a staged register write affects: none for part-wide (R330, R335). The scope of an address is
decided by Flags.lean and kept with the transaction as this list: 64 stands for every context. -/
def Txn.affects (scopes : List Nat) (t : Txn) (c : Nat) : Bool :=
  t.st == .pending && t.idle && (scopes.contains 65 || scopes.contains c || (t.ctx == c && c != adminCtx))

/-- The queue exists, runs, and its context is not stopped by a whole-part condition. -/
def State.queueLive (s : State) (q : Nat) : Bool :=
  let x := s.queue q
  x.present && !x.stopped && s.boot.phase == .ready && !s.boot.partFault && s.boot.running
  && !(s.flight.any fun f => match f.work with | .destroy n => n == q | _ => false)

/-- The limits of R307. -/
def State.limitsAllow (s : State) (q : Nat) : Bool :=
  let x := s.queue q
  let n := (s.queueFlights q).length
  decide (n < x.maxInflight) && decide ((s.dieFlights (q / 4096)).length < 1536)
  && decide (x.unread + n < 2 ^ x.cplLog2)

/-- A calendar member dispatches only at its entry (R326). -/
def State.calAllows (s : State) (q : Nat) : Bool :=
  let x := s.queue q
  if x.calMember then
    let k := s.cal x.cal
    k.loaded && k.part != 0 && nth 64 k.entries k.entry == x.member
  else true

/-- Move a calendar past entries (R326): at the end of the prologue, loop and epilogue. Fuel bounds empty parts. -/
def CalS.normalise : Nat → CalS → CalS
  | 0, k => k
  | fuel + 1, k =>
    if k.part == 1 && k.entry == k.loopStart then
      if k.loopCount == 0 || k.loopStart == k.loopEnd then
        CalS.normalise fuel { k with part := 3, entry := k.loopEnd, iter := if k.loopStart == k.loopEnd then k.loopCount else 0 }
      else { k with part := 2 }
    else if k.part == 2 && k.entry == k.loopEnd then
      if k.iter + 1 < k.loopCount then { k with entry := k.loopStart, iter := k.iter + 1 }
      else CalS.normalise fuel { k with part := 3, entry := k.loopEnd, iter := k.iter + 1 }
    else if k.part == 3 && k.entry == k.entries.length then { k with part := 0 }
    else k

/-- Start a loaded calendar at entry 0 (R326). -/
def CalS.start (k : CalS) : CalS :=
  if k.loaded then CalS.normalise 4 { k with part := 1, entry := 0, iter := 0 } else k

/-- A stage_end command of the member moves the calendar to its next entry (R326). -/
def State.calAdvance (s : State) (q : Nat) (h : Hdr) : State :=
  let x := s.queue q
  if x.calMember && h.stageEnd then
    let k := s.cal x.cal
    s.setCal x.cal (CalS.normalise 4 { k with entry := k.entry + 1 })
  else s

/-- Take the packet from the ring (R312). -/
def State.take (s : State) (q slots : Nat) : State :=
  s.updQueue q fun x =>
    { x with fetch := (x.fetch + slots) % 2 ^ x.ringLog2, published := x.published - slots
             fetched := x.fetched + slots, waiting := false
             waitState := 0, waitNode := 0 }

/-- A flight for a packet, tagged with the current generation (R336). -/
def State.mkFlight (s : State) (q : Nat) (h : Hdr) (opcode : Nat) : Flight where
  id := s.nextId
  queue := q
  ctx := (s.queue q).ctx
  hdr := h
  opcode := opcode
  gen := (s.reg .cfgGen 0).toNat
  reads := []
  writes := []
  clusters := []
  status := St.ok
  effect := 0
  detail := 0
  result := 0
  work := .plain
  finished := false
  made := false
  poisoned := false
  stats := []
  cmd := none
  kernel := false
  waitState := 0
  waitNode := 0

def State.addFlight (s : State) (f : Flight) : State :=
  { s with flight := s.flight ++ [f], nextId := s.nextId + 1 }

/-- The header fault of a packet, in word order (R18, R312). -/
def State.headerFault (s : State) (q : Nat) (h : Hdr) (o : Option Opc) : Option Err :=
  let x := s.queue q
  if h.pver.toNat != x.pver then some (Err.word St.badVersion 0)
  else match o with
  | none => some (Err.word St.badOpcode 0)
  | some o =>
    if (o.queues == .context && x.ctx == adminCtx) || (o.queues == .admin && x.ctx != adminCtx) then
      some (Err.word St.badOpcode 0)
    else if h.queue.toNat != q then some (Err.word St.badField 0)
    else if h.size.toNat != o.size then some (Err.word St.badField 1)
    else none

/-- A packet with a header fault completes at the head of its queue; none of its flags applies (R312). -/
def State.headerReject (s : State) (q : Nat) (h : Hdr) (opcode : Nat) (e : Err) : State :=
  let f := s.mkFlight q { h with signalEn := false, noCpl := false, irq := false } opcode
  let s := (s.addFlight f).take q (h.size.toNat + 1)
  s.reject f.id e

/-- A CTR_WAIT_MEM of the queue waits and holds it (R321). -/
def State.memWaits (s : State) (q : Nat) : Bool :=
  (s.queueFlights q).any fun f => match f.work with | .waitMem _ _ => true | _ => false

/-- Why a packet with a header fault stays at the head of its queue: a CTR_WAIT_MEM holds the queue, its calendar does not stand
at it, or its record has no place (R307, R312, R321, R326, R399). -/
def State.faultWait (s : State) (q : Nat) : Option (Nat × Nat) :=
  if s.memWaits q then some (3, 0)
  else if !s.calAllows q then some (6, (s.queue q).cal)
  else if !s.limitsAllow q then some (4, 0)
  else none

/-- Note why the head of a queue waits: a node of the wait-for graph (R399). -/
def State.noteWait (s : State) (q : Nat) (w : Nat × Nat) : State :=
  s.setQueue q { s.queue q with waiting := w.1 == 1 || w.1 == 2 || w.1 == 3, waitState := w.1, waitNode := w.2 }

/-- A packet with a header fault at the head of its queue: it completes, or its wait is noted. -/
def State.faultHead (s : State) (q : Nat) (h : Hdr) (opcode : Nat) (e : Err) : State :=
  match s.faultWait q with
  | some w => s.noteWait q w
  | none => s.headerReject q h opcode e

/-- Why the head command waits (R399): wait state and node, when one of the tests of R315 or R307 fails. -/
def State.headWait (s : State) (q : Nat) (h : Hdr) (o : Opc) (applyStop : Bool) : Option (Nat × Nat) :=
  let x := s.queue q
  if s.memWaits q then some (3, 0)
  else if !s.calAllows q then some (6, x.cal)
  else if !s.eqxAllows x.ctx o then
    some (if (s.ctx x.ctx).phase == .held then (14, 0) else (10, x.ctx))
  else if applyStop then some (13, x.ctx)
  else if !s.limitsAllow q then some (4, 0)
  else if h.fence && !(s.queueFlights q).isEmpty then some (1, 0)
  else if h.waitEn && decide ((s.ctr x.ctx h.waitCtr.toNat - h.waitValue).toInt < 0) then
    some (2, 4096 * x.ctx + h.waitCtr.toNat)
  else none

/-- The contexts that a register address belongs to, as R330 decides: given by Flags.lean through this parameter. -/
abbrev Scopes := Txn → List Nat

/-- The context waits for an apply point (R335). -/
def State.applyStops (s : State) (scopes : Scopes) (c : Nat) : Bool := s.txns.any fun t => t.affects (scopes t) c

/-! ### Visits and fetches (R303, R308, R367) -/

/-- The place of a queue in the round of its die: the members of a calendar queue, which takes one visit as a whole, share
that of the first of them (R308). -/
def State.roundPlace (s : State) (q : Nat) : Nat :=
  let x := s.queue q
  if x.calMember then
    ((s.queues.filter fun e => e.2.present && e.2.calMember && e.2.cal == x.cal && e.1 / 4096 == q / 4096).map
      fun e => e.1).foldl min q
  else q

/-- How far a place lies behind the one that its die's command processor visited last. -/
def State.roundDist (s : State) (p : Nat) : Nat :=
  (p % 4096 + 4096 - Map.get (fun _ => 0) s.visits (p / 4096)) % 4096

/-- A queue's turn has come: no other queue of its die that is served and holds published slots comes before it in the
round (R308). -/
def State.turn (s : State) (q : Nat) : Bool :=
  s.queues.all fun e => e.1 / 4096 != q / 4096 || e.2.published == 0 || !s.queueLive e.1
    || decide (s.roundDist (s.roundPlace q) ≤ s.roundDist (s.roundPlace e.1))

/-- The command processor has visited a queue. -/
def State.visited (s : State) (q : Nat) : State :=
  { s with visits := Map.set (fun _ => 0) s.visits (q / 4096) (s.roundPlace q % 4096 + 1) }

/-- The addresses of the slots that a packet takes at the head of its queue; it may wrap (R303). -/
def QueueS.slotAddrs (x : QueueS) (slots : Nat) : List Nat :=
  (List.range slots).map fun i => x.ringBase.toNat + 64 * ((x.fetch + i) % 2 ^ x.ringLog2)

/-- What the fetch of a packet finds wrong: a ring page that is not mapped, in HBM and unsealed stops the queue; a
poisoned slot terminates its context, and on the admin queue, which belongs to none, is a part fault (R303, R367). -/
def State.fetchFault (s : State) (q slots : Nat) : Option State :=
  let x := s.queue q
  if (x.slotAddrs slots).any fun a => !s.ringOk x.ctx a then some (s.queueStop q)
  else if (x.slotAddrs slots).any fun a => s.vaPoisoned x.ctx a then
    some (if x.ctx == adminCtx then s.partFaulted else s.terminate x.ctx 2)
  else none

/-- A visit to the packet at the head of a queue: nothing happens while the queue is not served or its turn has not come,
and nothing but the visit while the packet is not published whole. The slots are read at every visit (log entry 81). -/
def State.visit (s : State) (q slots : Nat) (body : State → State) : Out :=
  if !inRange q s.nQueues || !s.queueLive q || !s.turn q then .next s
  else
    let s := s.visited q
    if (s.queue q).published < slots then .next s
    else match s.fetchFault q slots with
    | some t => .next t
    | none => .next (body s)

/-- A packet at the head of its queue: a header fault completes it once its record has a place; a wait is noted; else it
is dispatched, tagged, and `run` goes on with its flight's number and context. -/
def State.head (s : State) (scopes : Scopes) (h : Hdr) (o : Opc) (run : Nat → Nat → State → State) : State :=
  let q := h.ring.toNat
  match s.headerFault q h (some o) with
  | some e => s.faultHead q h o.code e
  | none =>
    match s.headWait q h o (s.applyStops scopes (s.queue q).ctx) with
    | some w => s.noteWait q w
    | none =>
      let f := s.mkFlight q h o.code
      let s := ((s.addFlight f).take q (h.size.toNat + 1)).calAdvance q h
      (run f.id f.ctx s).settle f.ctx

/-- A packet row: a visit to the packet at the head of its queue. -/
def State.packet (s : State) (scopes : Scopes) (h : Hdr) (o : Opc) (run : Nat → Nat → State → State) : Out :=
  s.visit h.ring.toNat (h.size.toNat + 1) fun s => s.head scopes h o run

/-! ### Field checks shared by commands (R309) -/

/-- A field that names an engine: range, ownership, retirement (R309). -/
def State.chkEngine (s : State) (c w e : Nat) : Option Err :=
  if !inRange e s.nEng then some (Err.word St.badField w)
  else if s.ownerOf (clusterOfEng e) != some c then some (Err.word St.notOwner w)
  else if s.retEng.contains e then some (Err.word St.engineRetired w)
  else none

def State.chkQnt (s : State) (c w u : Nat) : Option Err :=
  if !inRange u s.nQnt then some (Err.word St.badField w)
  else if s.ownerOf u != some c then some (Err.word St.notOwner w)
  else if s.retQnt.contains u then some (Err.word St.engineRetired w)
  else none

def State.chkElt (s : State) (c w u : Nat) : Option Err :=
  if !inRange u s.nElt then some (Err.word St.badField w)
  else if s.ownerOf (clusterOfElt u) != some c then some (Err.word St.notOwner w)
  else if s.retElt.contains u then some (Err.word St.engineRetired w)
  else none

/-- Where an address field points, of which an access follows: not at a reserved range or a register window (R199), and at
tier 0 only of a cluster that the context owns (R309). Whether the pages of the unified range are mapped is not judged. -/
def State.chkPlace (s : State) (c w : Nat) (a : W64) : Option Err :=
  match s.place c a.toNat with
  | .hole => some (Err.word St.unmapped w)
  | .sram off => errIf (s.ownerOf (sramCluster off) != some c) (Err.word St.notOwner w)
  | _ => none

/-- What every local address field keeps to, one that no access follows too: bits [63:48] are zero, it names no register
window (R199), and no tier 0 address of a cluster that the context does not own (R309). DESIGN CHOICE (log 101): R199 gives
the reserved ranges to accesses, so a field that none follows may name one. -/
def State.chkAddrField (s : State) (c w : Nat) (a : W64) : Option Err :=
  match s.place c a.toNat with
  | .hole =>
    errIf (decide (2 ^ 48 ≤ a.toNat) || decide (0xFE0000000000 ≤ a.toNat) && decide (a.toNat < 0xFF0000000000))
      (Err.word St.unmapped w)
  | _ => s.chkPlace c w a

/-- A field that names the first of `n` whole pages of the unified range: its place (R199, R309), a page boundary, and no page
past the map's last (R201). -/
def State.chkPages (s : State) (c w : Nat) (va : W64) (n : Nat) : Option Err :=
  match s.place c va.toNat with
  | .page p off =>
    if off != 0 then some (Err.word St.badField w) else errIf (decide (16777216 < p + n)) (Err.word St.unmapped w)
  | _ => (s.chkPlace c w va).orElse fun _ => some (Err.word St.badField w)

/-- An address field is a multiple of `n`. -/
def chkAlign (w : Nat) (a : W64) (n : Nat) : Option Err := errIf (a.toNat % n != 0) (Err.word St.badField w)

/-- The clusters of the tier 0 addresses among ranges (R432). -/
def State.rangeClusters (s : State) (c : Nat) (rs : List (Nat × Nat)) : List Nat :=
  (rs.flatMap fun r =>
    match s.place c r.1 with
    | .sram off => clustersTouched off r.2
    | _ => []).eraseDups

/-- A command names further ranges, which a descriptor or a list that it reads gives (R432). -/
def State.addNames (s : State) (id c : Nat) (reads writes : List (Nat × Nat)) : State :=
  s.updFlight id fun f =>
    { f with reads := f.reads ++ reads, writes := f.writes ++ writes
             clusters := (f.clusters ++ s.rangeClusters c (reads ++ writes)).eraseDups }

/-- Note what a command reads and writes and which clusters it names (R432). -/
def State.names (s : State) (id c : Nat) (reads writes : List (Nat × Nat)) (clusters : List Nat) : State :=
  s.updFlight id fun f =>
    { f with reads := reads, writes := writes
             clusters := (clusters ++ s.rangeClusters c (reads ++ writes)).eraseDups }

end Sys2Proof.Machine
end

