-- ==== Sys2Proof/Machine/Flags.lean ====
section
/-! DEFINITION. The register file as software sees it: which register a local address names (R199, R430), what a read
returns (the status views computed from the structured state), which context a register belongs to (R330), and how a
written value is stored (the limits of the owning chapters). -/

namespace Sys2Proof.Machine

open Sys2Proof

/-! ### Addresses -/

/-- How many instances a window has on this part. -/
def State.winCount (s : State) : Win → Nat
  | .eng | .acc => s.nEng
  | .spl | .qnt | .clkCl => s.nClus
  | .alm | .rng | .tierCtx | .eqx | .ngfCtx | .cfgCtx | .cfgCal => 64
  | .ngfPort => s.nPorts
  | .db => s.nQueues
  | .gov | .vwmDie | .lc => s.dies
  | .dcnt => 64 * s.dies
  | .tier | .ftl | .eqxPart | .ngf | .cfg | .clk | .fault | .vwm | .lan | .boot => 1

/-- The local address of the boot page (R411). -/
def bootPage : Nat := 0xFE0000000000

/-- The base of a window, once runtime firmware has placed it (R411). -/
def State.winBase (s : State) (w : Win) : Option Nat :=
  if w == .boot then some bootPage else s.boot.bases[w.baseIdx]?

/-- The local address of a register instance. -/
def State.regAddr (s : State) (r : Reg) (i : Nat) : Option Nat :=
  (s.winBase r.info.win).map fun b => b + r.info.win.start + r.info.win.stride * i + r.info.off

/-- The instance of window `w` in which the block offset `o` lies, and the offset within it. -/
def Win.split (w : Win) (o : Nat) : Nat × Nat :=
  if w.stride == 0 then (0, o - w.start) else ((o - w.start) / w.stride, (o - w.start) % w.stride)

/-- Does register `r` lie at address `a`? Its instance, and whether `a` is the upper half of a 64-bit register. -/
def State.regAt (s : State) (a : Nat) (r : Reg) : Option (Nat × Bool) :=
  match s.winBase r.info.win with
  | none => none
  | some b =>
    if a < b + r.info.win.start then none
    else
      let p := r.info.win.split (a - b)
      if !inRange p.1 (s.winCount r.info.win) then none
      else if p.2 == r.info.off then some (p.1, false)
      else if r.info.wide && p.2 == r.info.off + 4 then some (p.1, true)
      else none

/-- The register at a local address (R430): name, instance, upper half. -/
def State.decodeReg (s : State) (a : Nat) : Option (Reg × Nat × Bool) :=
  Reg.all.findSome? fun r => (s.regAt a r).map fun p => (r, p.1, p.2)

/-! ### Views -/

def SlotSt.code : SlotSt → Nat
  | .free => 0 | .fill => 1 | .hold => 2 | .drain => 3

def BootPhase.code : BootPhase → Nat
  | .off => 0 | .rom => 1 | .awaitFw => 2 | .verify => 3 | .bringup => 4 | .ready => 5 | .failed => 0xF

def EqxPhase.code : EqxPhase → Nat
  | .idle => 0 | .drain => 1 | .exchange => 2 | .decide => 3 | .apply => 4 | .seal => 5 | .digest => 6 | .held => 7

def PortSt.code : PortSt → Nat
  | .disabled => 0 | .train => 1 | .align => 2 | .negotiate => 3 | .check => 4 | .up => 5 | .quarantine => 6
  | .failed => 7

def Therm.code : Therm → Nat
  | .normal => 0 | .throttle => 1 | .trip => 2 | .shutdown => 4

/-- A unit of an engine (0 in full mode; 0 to 3 in quarter mode). -/
def EngS.unit (e : EngS) (q : Nat) : UnitS := Map.get (fun _ => UnitS.none) e.units q
def EngS.setUnit (e : EngS) (q : Nat) (u : UnitS) : EngS :=
  { e with units := Map.set (fun _ => UnitS.none) e.units q u }

def UnitS.slot (u : UnitS) (j : Nat) : SlotS := Map.get (fun _ => SlotS.none) u.slots j
def UnitS.setSlot (u : UnitS) (j : Nat) (x : SlotS) : UnitS :=
  { u with slots := Map.set (fun _ => SlotS.none) u.slots j x }

/-- Accepted commands of an engine not yet completed, as ENG_STATUS.window_fill shows them: at most the places of the engine's
windows (R112; DESIGN CHOICE, log entry 100). -/
def State.engAccepted (s : State) (e : Nat) : Nat :=
  min (if (s.eng e).quarter then 8 else 4) ((s.eng e).units.map fun u => u.2.window.length).sum

/-- The commands that hold a place of a window: those that have not ended their reads. A command in drain holds none, as the
ping-pong example of R102 to R105 has it (R112; DESIGN CHOICE, log entry 100). -/
def UnitS.places (u : UnitS) : List WCmd := u.window.filter fun w => !w.readsEnded

/-- Usable lane pairs [lo, hi) of an engine (R106). -/
def State.usablePairs (s : State) (e lo hi : Nat) : List Nat :=
  ((List.range (hi - lo)).map (· + lo)).filter fun j => !s.badPairs.contains (64 * e + j)

/-- Usable lanes among pairs [lo, hi); 0 for an engine retired as a whole (R108). -/
def State.usableLanes (s : State) (e lo hi : Nat) : Nat :=
  if s.retEng.contains e then 0 else 2 * (s.usablePairs e lo hi).length

/-- The value of ENG_STATUS (R96). -/
def State.viewEngStatus (s : State) (e : Nat) : Nat :=
  let x := s.eng e
  let n := s.engAccepted e
  let codes := (List.range 8).map fun j =>
    (if x.quarter then (x.unit (j / 2)).slot (j % 2) else (x.unit 0).slot j).st.code * 4 ^ j
  (if n != 0 then 2147483648 else 0) + (if x.quarter then 1073741824 else 0) + n * 16777216 + codes.sum

/-- The current value of a register (R9): the stored value, or the view of the state behind a status field. QNT_STATUS.busy is
1 whenever the window holds a command, one that waits to start too (R144; DESIGN CHOICE, log entry 101). -/
def State.readReg (s : State) (r : Reg) (i : Nat) : W64 :=
  match r with
  | .engStatus => BitVec.ofNat 64 (s.viewEngStatus i)
  | .engLanes =>
    if s.boot.bases.isEmpty then 0
    else BitVec.ofNat 64 (s.usableLanes i 0 64 * 65536 + s.usableLanes i 32 64 * 256 + s.usableLanes i 0 32)
  | .splStageUse =>
    let x := s.clusS i
    BitVec.ofNat 64 (x.outl.length * 65536 + x.qnt.length * 256 + x.spill.length)
  | .qntStatus =>
    let n := min 4 (Map.get (fun _ => []) s.qnts i).length
    BitVec.ofNat 64 ((if n != 0 then 2147483648 else 0) + n * 16777216)
  | .cfgRngStreams =>
    let x := s.ctx i
    let now := x.dupFlagged.filter fun n => n / 4294967296 == (s.reg .cfgRngStep i).toNat
    BitVec.ofNat 64 (min 65535 now.length * 65536 + x.streams.length)
  | .tierFree => BitVec.ofNat 64 (if s.boot.bases.isEmpty then 0 else s.frames - s.quotaSum .tierQuotaHbm)
  | .tierUseHbm => BitVec.ofNat 64 (s.hbmUse i)
  | .tierUseFlash => BitVec.ofNat 64 (s.flashUse i)
  | .tierMig =>
    let n := fun st => min 65535 ((s.pagesOf i).filter fun e => e.2.st == st).length
    BitVec.ofNat 64 (n .up * 65536 + n .down)
  | .ftlState =>
    let rated := (s.reg .ftlRated 0).toNat
    let pct := if rated == 0 then 0 else min 255 ((s.reg .ftlNandWritten 0).toNat * 100 / rated)
    BitVec.ofNat 64 (pct * 256 + bits (s.reg .ftlState 0) 1 1 * 2 + (if s.ftl.readOnly then 1 else 0))
  | .eqxStatus =>
    let x := s.ctx i
    BitVec.ofNat 64 (x.phase.code * 16777216 + min 255 x.attempt * 65536
      + (s.images.filter fun m => m.ctx == i).length)
  | .eqxCopies => BitVec.ofNat 64 ((s.pagesOf i).filter fun e => e.2.stepStart.isSome || e.2.copying.isSome).length
  | .eqxCreditsUsed => BitVec.ofNat 64 (s.ctx i).creditsHeld.length
  | .ngfTxn => BitVec.ofNat 64 s.fab.txns.length
  | .ngfPortStatus =>
    let p := s.port i
    BitVec.ofNat 64 (p.st.code * 268435456 + p.lanes * 16777216 + p.version * 1048576
      + (if p.peerSwitch then 524288 else 0) + p.peerId.toNat)
  | .ngfFenced => BitVec.ofNat 64 (s.ctx i).fence.length
  | .cfgInflight => BitVec.ofNat 64 s.flight.length
  | .cfgCalPos =>
    let k := s.cal i
    BitVec.ofNat 64 (k.part * 1073741824 + k.entry % 256 * 65536 + k.iter % 65536)
  | .cfgDbState =>
    let x := s.queue i
    BitVec.ofNat 64 (if x.present then
      (if x.stopped then 0 else 2147483648) + (if x.waiting then 1073741824 else 0)
      + (if x.badWrite then 536870912 else 0) + (s.queueFlights i).length * 65536 + x.fetch else 0)
  | .cfgTxnState =>
    let n := fun st => (s.txns.filter fun t => t.ctx == i && t.st == st).length
    BitVec.ofNat 64 ((n .opened + n .voting) * 65536 + n .pending)
  | .clkTimebase => BitVec.ofNat 64 s.clk.timebase
  | .clkCycles =>
    BitVec.ofNat 64 (s.clusCycles i)
  | .govStatus =>
    let g := s.govOf i
    let st := if s.thermOf i == .shutdown then 4
      else if g.emergDue || g.emergUntil.isSome then 3
      else if g.brake.isSome then 2 else if s.thermOf i == .throttle then 1 else 0
    BitVec.ofNat 64 (bits (s.reg .govStatus i) 23 16 * 65536 + st)
  | .govAdmitted =>
    let g := s.govOf i
    let w := fun u => match u with | GovUnit.engine _ => 16 | .elt _ => 8 | .qnt _ => 6 | .coll => 40
    BitVec.ofNat 64 (if s.boot.running then 400 + g.uncore + (g.granted.map w).sum else 0)
  | .vwmStatus =>
    BitVec.ofNat 64 ((if s.mgmt.running && s.boot.aon then 2147483648 else 0)
      + (if s.mgmt.bank then 1073741824 else 0)
      + (if s.mgmt.bank then s.mgmt.versions.2 else s.mgmt.versions.1).toNat)
  | .vwmAlarmStatus =>
    BitVec.ofNat 64 ((if s.sec.debugLocked then 65536 else 0) + s.sec.lastSensor * 256
      + bits (s.reg .vwmAlarmStatus 0) 3 0)
  | .vwmKekStatus => BitVec.ofNat 64 s.sec.kekState
  | .vwmKekId => if s.sec.kek.isSome then s.sec.kekId.setWidth 64 else 0
  | .vwmBootStatus =>
    BitVec.ofNat 64 (s.boot.phase.code * 268435456 + s.boot.cause * 16777216 + s.boot.unit * 65536
      + bits (s.reg .vwmBootStatus 0) 2 2 * 4 + s.boot.fwFails)
  | _ => s.reg r i &&& ~~~ r.info.wo

/-- A register can be reached: its window is the boot page, or the part is in READY, where runtime firmware has placed the
windows; before READY and in FAILED the rest of BAR0 reads zero and ignores writes (R410, R411). -/
def State.regLive (s : State) (r : Reg) : Bool :=
  r.info.win == .boot || (s.boot.phase == .ready && !s.boot.bases.isEmpty)

/-- A word of a built-in activation table (R138): 2 is GELU, 3 is SiLU. -/
def builtinWord (act i : Nat) : W32 :=
  let gelu := act == 2
  match i with
  | 0 => if gelu then 0xC1000000 else 0xC1800000
  | 1 => if gelu then 0x41000000 else 0x41800000
  | 2 => if gelu then 0x41800000 else 0x41000000
  | 3 => 0 | 4 => 0 | 5 => 0x3F800000 | 6 => 0
  | _ => Config.actTable act i

/-- Bytes of an activation table: 776 words (R138). -/
def actTableBytes : Nat := 3104

/-- The built-in table in which a local address lies, and the word there (R138, R143): the GELU table's base is the 19th of
the list of bases, the SiLU table's the 20th. -/
def State.tableAt (s : State) (a : Nat) : Option (Nat × Nat) :=
  if s.boot.phase != .ready then none
  else [(18, 2), (19, 3)].findSome? fun t => (s.boot.bases[t.1]?).bind fun b =>
    if decide (b ≤ a) && decide (a < b + actTableBytes) then some (t.2, (a - b) / 4) else none

/-- A read of a local address in the register range: `wide` names the access width. A 32-bit read of a 64-bit register
returns the half named (R430); a reserved offset reads zero (R16); a built-in activation table reads as its words (R138).
DESIGN CHOICE (log entry 90): a 64-bit read of a 32-bit register returns its value in the low half, and a 64-bit read at
offset n + 4 of a 64-bit register returns zero; R430 gives neither. -/
def State.readAddr (s : State) (a : Nat) (wide : Bool) : W64 :=
  match s.tableAt a, s.decodeReg a with
  | some (t, i), _ =>
    let w := fun k => (builtinWord t k).setWidth 64
    if wide then w i ||| (w (i + 1) <<< 32) else w i
  | none, none => 0
  | none, some (r, i, hi) =>
    let v := s.readReg r i
    if !s.regLive r then 0
    else if r.info.wide && !wide then (if hi then v >>> 32 else v &&& 0xFFFFFFFF)
    else if hi then 0 else v

/-! ### Scope (R330) -/

/-- The context a register belongs to; none: part-wide (R330). -/
def State.regScope (s : State) (r : Reg) (i : Nat) : Option Nat :=
  match r with
  | .tierQuotaHbm | .tierQuotaFlash | .ngfCtxCtrl => none
  | _ =>
    match r.info.win with
    | .alm | .rng | .tierCtx | .eqx | .ngfCtx | .cfgCtx => some i
    | .eng | .acc => s.ownerOf (i / 16)
    | .spl | .qnt | .clkCl => s.ownerOf i
    | .db => if i == 0 || !(s.queue i).present then none else some (s.queue i).ctx
    | _ => none

/-- The contexts that a transaction affects at an idle point (R335): 65 stands for every context and the admin
queue. -/
def State.txnScopes (s : State) : Scopes := fun t =>
  t.changes.filterMap fun ch =>
    match ch with
    | .reg a _ _ =>
      match s.decodeReg a.toNat with
      | some (r, i, _) => some ((s.regScope r i).getD 65)
      | none => none
    | _ => none

/-! ### Stored values (the limits that the owning chapters give a written value) -/

/-- The nearer limit of a field. -/
def nearer (v : W64) (hi lo min max : Nat) : W64 := setBits v hi lo (clampNat min max (bits v hi lo))

/-- The value that a register stores for a written value `v` (already merged over its RW fields). -/
def Reg.stores (r : Reg) (v : W64) : W64 :=
  match r with
  | .engRunahead => if bits v 3 0 == 0 || decide (8 < bits v 3 0) then setBits v 3 0 8 else v
  | .eqxCtrl =>
    let v := if bits v 7 6 == 3 then setBits v 7 6 0 else v
    if bits v 3 0 == 0 then setBits v 3 0 1 else v
  | .eqxGroup => if bits v 16 0 == 0 || decide (65536 < bits v 16 0) then setBits v 16 0 1 else v
  | .eqxTimeout => if bits v 23 0 == 0 then setBits v 23 0 1 else v
  | .ngfCtxCtrl => if bits v 1 0 == 3 then setBits v 1 0 1 else v
  | .govCtrl => nearer (nearer v 15 8 10 100) 7 0 25 250
  | .vwmEvtCtrl =>
    let v := nearer v 20 16 6 16
    if bits v 13 12 == 3 then setBits v 13 12 2 else v
  | .vwmVigilCtrl =>
    let v := nearer v 29 24 1 32
    let v := if bits v 23 16 == 0 then setBits v 23 16 1 else v
    if bits v 15 0 == 0 then setBits v 15 0 1 else v
  | .lanCtrl => nearer (nearer v 20 16 0 16) 4 0 10 19
  | _ => v

/-- A written value merged over a register's RW fields, then cut to what the register stores. -/
def State.merged (s : State) (r : Reg) (i : Nat) (v mask : W64) : W64 :=
  let m := mask &&& r.info.rw
  r.stores ((s.reg r i &&& ~~~ m) ||| (v &&& m))

/-- The classes of the six sensors that VWM_ALARM_CLASS stores: a class below the fused minimum, 0 included, stores
the minimum (R380). -/
def State.alarmClasses (s : State) (v : W64) : W64 :=
  (List.range 6).foldl (fun v k =>
    let m := s.fld .vwmAlarmMin 0 (2 * k + 1) (2 * k)
    if bits v (2 * k + 1) (2 * k) < m then setBits v (2 * k + 1) (2 * k) m else v) v

/-! ### W1C -/

/-- A software write of `v` to the W1C fields of a register while hardware sets `hw` in the same cycle: a set is never
lost to a clear (R11). -/
def w1cNext (old v hw mask : W64) : W64 := (old &&& ~~~ (v &&& mask)) ||| (hw &&& mask)

/-- Write the W1C fields of a register. -/
def State.w1c (s : State) (r : Reg) (i : Nat) (v hw : W64) : State :=
  match r with
  | .cfgDbState =>
    let x := s.queue i
    if x.present then
      s.setQueue i { x with badWrite := (x.badWrite && bits v 29 29 == 0) || bits hw 29 29 == 1 }
    else s
  | _ => s.setReg r i (w1cNext (s.reg r i) v hw r.info.w1c)

end Sys2Proof.Machine
end

