-- ==== Sys2Proof/Machine/Almanac.lean ====
section
/-! DEFINITION. The Almanac: its slots in memory (R160 to R162), the statistics that conversions add (R163), the sums of
a step group (R164), the rule that the Equinox applies (R165 to R167) and the effect of ALM_SLOT_WRITE (R173). -/

namespace Sys2Proof.Machine

open Sys2Proof

/-! ### Statistics blocks (R162) -/

def StatSum.zero : StatSum := ⟨0, 0, 0, 0, 0, 0, 0, 0, 0, 0, []⟩

/-- Element-wise sum of two histograms. -/
def addHist : List Nat → List Nat → List Nat
  | [], b => b
  | a, [] => a
  | x :: a, y :: b => satAddNat 0xFFFFFFFF x y :: addHist a b

/-- The sum of two blocks: words 18 to 21 and the bins saturate, the other sums wrap (R162). -/
def StatSum.add (a b : StatSum) : StatSum where
  elements := (a.elements + b.elements) % 2 ^ 64
  sat := (a.sat + b.sat) % 2 ^ 64
  zeroed := (a.zeroed + b.zeroed) % 2 ^ 64
  nonfinite := (a.nonfinite + b.nonfinite) % 2 ^ 64
  errSum := (a.errSum + b.errSum) % 2 ^ 128
  sigSum := (a.sigSum + b.sigSum) % 2 ^ 128
  blocksZero := satAddNat 0xFFFFFFFF a.blocksZero b.blocksZero
  blocksSat := satAddNat 0xFFFFFFFF a.blocksSat b.blocksSat
  blocksNonfinite := satAddNat 0xFFFFFFFF a.blocksNonfinite b.blocksNonfinite
  outlierCand := satAddNat 0xFFFFFFFF a.outlierCand b.outlierCand
  hist := addHist a.hist b.hist

/-- Bytes [lo, lo + n) of a list, as a number. -/
def fieldLe (bs : List Byte) (lo n : Nat) : Nat := ofLeBytes ((bs.drop lo).take n)

/-- A block of 384 bytes as sums. -/
def StatSum.ofBytes (b : List Byte) : StatSum where
  elements := fieldLe b 8 8
  sat := fieldLe b 16 8
  zeroed := fieldLe b 24 8
  nonfinite := fieldLe b 32 8
  errSum := fieldLe b 40 16
  sigSum := fieldLe b 56 16
  blocksZero := fieldLe b 72 4
  blocksSat := fieldLe b 76 4
  blocksNonfinite := fieldLe b 80 4
  outlierCand := fieldLe b 84 4
  hist := (List.range 64).map fun i => fieldLe b (128 + 4 * i) 4

/-- Words 2 to 95 of a block. -/
def StatSum.bytes (x : StatSum) : List Byte :=
  leBytes 8 x.elements ++ leBytes 8 x.sat ++ leBytes 8 x.zeroed ++ leBytes 8 x.nonfinite
  ++ leBytes 16 x.errSum ++ leBytes 16 x.sigSum ++ leBytes 4 x.blocksZero ++ leBytes 4 x.blocksSat
  ++ leBytes 4 x.blocksNonfinite ++ leBytes 4 x.outlierCand ++ List.replicate 40 0
  ++ (List.range 64).flatMap fun i => leBytes 4 (nth 0 x.hist i)

/-! ### Slots in memory (R160, R161) -/

def almSlots : Nat := 4096

/-- The address of slot n of the context's Almanac. -/
def State.almVa (s : State) (c n : Nat) : Nat := (s.reg .almBase c).toNat + 1024 * n

/-- Why an access to slot n fails (R203, R212): its page is not mapped, or, of a write, is sealed. A slot that lies in no page,
of an Almanac that is gone too, is taken as one in an unmapped page (DESIGN CHOICE, log entry 107). -/
def State.almFault (s : State) (c n : Nat) (writes : Bool) : Option Nat :=
  match s.place c (s.almVa c n) with
  | .page p _ =>
    if s.reg .almBase c == 0 || (s.page c p).st == .unmapped then some St.unmapped
    else if writes && (s.page c p).sealed then some St.sealed else none
  | _ => some St.unmapped

/-- A field that names an Almanac slot, whose page is checked like every one that a command names (R203, R212). -/
def State.chkAlmSlot (s : State) (c w : Nat) (n : BitVec 12) (writes : Bool) : Option Err :=
  (s.almFault c n.toNat writes).map fun st => Err.word st w

/-- The Almanac slot that a command uses, as a range (R432). -/
def State.almRange (s : State) (c : Nat) (n : BitVec 12) (used : Bool) : List (Nat × Nat) :=
  if used then [(s.almVa c n.toNat, 1024)] else []

/-- Where slot n of the context's Almanac lies; none: no Almanac, or its page is not mapped. -/
def State.almPhys (s : State) (c n : Nat) : Option Nat :=
  if s.reg .almBase c == 0 then none
  else match s.place c (s.almVa c n) with
  | .page p off => if (s.page c p).st == .unmapped then none else (s.page c p).readPhys off
  | _ => none

/-- The listed bytes of a range, read over that sublist. -/
def State.rdRange (s : State) (a n : Nat) : List Byte :=
  rdMem (s.mem.filter fun e => decide (a ≤ e.1) && decide (e.1 < a + n)) a n

/-- The 1,024 bytes of a slot; zeros without a place. -/
def State.almSlot (s : State) (c n : Nat) : List Byte :=
  match s.almPhys c n with
  | some a => s.rdRange a 1024
  | none => List.replicate 1024 0

/-- Write the bytes of `new` that differ from `old`. -/
def wrDiff (m : Map Byte) (a : Nat) : List Byte → List Byte → Map Byte
  | x :: old, y :: new => wrDiff (if x == y then m else Map.set memDefault m a y) (a + 1) old new
  | _, _ => m

/-- Slot n can be written: its page is there and not sealed (R212). -/
def State.almWritable (s : State) (c n : Nat) : Bool := (s.almFault c n true).isNone

/-- Set the bytes of a slot; a sealed page stays as it is (R212). -/
def State.setAlmSlot (s : State) (c n : Nat) (new : List Byte) : State :=
  match s.almPhys c n with
  | some a => if s.almWritable c n then { s with mem := wrDiff s.mem a (s.rdRange a 1024) new } else s
  | none => s

/-- The configuration and status words of a slot (R161). -/
structure AlmCfg where
  widthMin : Nat
  widthMax : Nat
  width : Nat
  pending : Nat
  adaptEn : Bool
  blkStorm : Bool
  thrHi : Nat
  thrLo : Nat
  stormThr : Nat
  lowSteps : Nat
  lowRun : Nat
  satAtMax : Bool
  bandExhausted : Bool
  changeEpoch : Nat
deriving DecidableEq, Repr

def AlmCfg.ofBytes (b : List Byte) : AlmCfg :=
  let w := fieldLe b 0 4
  let w3 := fieldLe b 12 4
  let w4 := fieldLe b 16 4
  { widthMin := w / 2 ^ 24 % 16, widthMax := w / 2 ^ 20 % 16, width := w / 2 ^ 16 % 16, pending := w / 2 ^ 12 % 16
    adaptEn := w / 256 % 2 == 1, blkStorm := w / 128 % 2 == 1, thrHi := fieldLe b 4 4, thrLo := fieldLe b 8 4
    stormThr := w3 / 65536, lowSteps := w3 / 256 % 256, lowRun := w3 % 256
    satAtMax := w4 / 2 % 2 == 1, bandExhausted := w4 % 2 == 1, changeEpoch := fieldLe b 20 4 }

/-- Words 0 to 5. -/
def AlmCfg.bytes (x : AlmCfg) : List Byte :=
  leBytes 4 (x.widthMin * 2 ^ 24 + x.widthMax * 2 ^ 20 + x.width * 2 ^ 16 + x.pending * 2 ^ 12
    + (if x.adaptEn then 256 else 0) + (if x.blkStorm then 128 else 0))
  ++ leBytes 4 x.thrHi ++ leBytes 4 x.thrLo ++ leBytes 4 (x.stormThr * 65536 + x.lowSteps * 256 + x.lowRun)
  ++ leBytes 4 ((if x.satAtMax then 2 else 0) + (if x.bandExhausted then 1 else 0)) ++ leBytes 4 x.changeEpoch

def State.almCfg (s : State) (c n : Nat) : AlmCfg := AlmCfg.ofBytes (s.almSlot c n)

/-- The sums of the current block of a slot. -/
def currentOf (slot : List Byte) : StatSum := StatSum.ofBytes (slot.drop 64)

/-- What is written over the marked lines of [a, a + n) is unspecified, and they stay marked (R229). -/
def State.keepMarked (s : State) (a n : Nat) : State :=
  (List.range (ceilDiv (a % 64 + n) 64)).foldl (fun (s : State) i =>
    let l := a / 64 + i
    if s.poison.contains l then
      let lo := max a (64 * l)
      s.wr lo (List.replicate (min (a + n) (64 * l + 64) - lo) 0) true
    else s) s

/-- Words 2 to 95 of the current block of a slot take new sums (R162). -/
def State.putCurrent (s : State) (c n : Nat) (x : StatSum) : State :=
  let b := s.almSlot c n
  let t := s.setAlmSlot c n (b.take 72 ++ StatSum.bytes x ++ b.drop 448)
  match s.almPhys c n with
  | some a => t.keepMarked (a + 72) 376
  | none => t

/-- A completing command adds its statistics to the current block of its slot (R163): it reads the block, whose poison it
consumes (R230), and writes it; it ends with ST_UNMAPPED or ST_SEALED instead where the page does not let it (R203, R212). -/
def State.addStats (s : State) (id c : Nat) (a : StatAdd) : State :=
  match s.almFault c a.slot true with
  | some st => s.failFlight id st 0
  | none =>
    let sums := StatSum.add (currentOf (s.almSlot c a.slot)) a.sums
    (s.consumeRange id c (s.almVa c a.slot + 72) 376).putCurrent c a.slot sums

/-! ### The rule (R165) -/

/-- What the rule does to a slot's configuration at epoch e. -/
def AlmCfg.rule (x : AlmCfg) (cur : StatSum) (e : Nat) : AlmCfg :=
  if x.pending != 0 then { x with width := x.pending, pending := 0, lowRun := 0, changeEpoch := e }
  else if cur.elements == 0 then x
  else
    let hi := decide (x.thrHi * cur.sigSum < cur.errSum * 2 ^ 32)
    let lo := decide (cur.errSum * 2 ^ 32 < x.thrLo * cur.sigSum)
    let storm := (x.stormThr != 0 && decide (x.stormThr * cur.elements ≤ cur.sat * 2 ^ 16))
      || (x.blkStorm && decide (0 < cur.blocksSat))
    if storm || hi then
      if x.width < x.widthMax then { x with lowRun := 0, pending := x.width + 1 }
      else { x with lowRun := 0, bandExhausted := x.bandExhausted || hi, satAtMax := x.satAtMax || storm }
    else if lo then
      let r := min (x.lowRun + 1) 255
      if decide (x.lowSteps ≤ r) && decide (x.widthMin < x.width) then { x with pending := x.width - 1, lowRun := 0 }
      else { x with lowRun := r }
    else { x with lowRun := 0 }

/-- What the Equinox counts over the slots: newly exhausted, newly at maximum, changed, raised, lowered. -/
structure AlmTally where
  exhausted : Nat
  atMax : Nat
  changed : Nat
  raised : Nat
  lowered : Nat
deriving DecidableEq, Repr

def AlmTally.note (t : AlmTally) (old new : AlmCfg) : AlmTally where
  exhausted := t.exhausted + if new.bandExhausted && !old.bandExhausted then 1 else 0
  atMax := t.atMax + if new.satAtMax && !old.satAtMax then 1 else 0
  changed := t.changed + if new.width != old.width || new.pending != old.pending then 1 else 0
  raised := t.raised + if old.pending == 0 && decide (new.width < new.pending) then 1 else 0
  lowered := t.lowered + if old.pending == 0 && new.pending != 0 && decide (new.pending < new.width) then 1 else 0

/-- The current block moves to previous, with discarded set at a rollback, and is cleared; the new current block takes
the epoch of the next step (R166). -/
def rollSlot (slot : List Byte) (cfg : AlmCfg) (cur : StatSum) (discard : Bool) (nextEpoch : Nat) : List Byte :=
  cfg.bytes ++ (slot.drop 24).take 40
  ++ leBytes 4 0 ++ leBytes 4 nextEpoch ++ List.replicate 376 0
  ++ leBytes 4 (if discard then 2147483648 else 0) ++ ((slot.drop 68).take 4) ++ StatSum.bytes cur
  ++ slot.drop 832

/-- The lines of a slot at `a` when its blocks roll: those of previous take the marks of current, which are whole lines too
and are cleared with it (R166, R228, R229). -/
def State.rollMarks (s : State) (a : Nat) : State :=
  (List.range 6).foldl (fun (s : State) i =>
    let l := a / 64 + 1 + i
    let t := { s with poison := NatSet.del (NatSet.del s.poison (l + 6)) l }
    if s.poison.contains l then t.wr (64 * (l + 6)) (List.replicate 64 0) true else t) s

/-- One slot at an Equinox: `cur` is its current block, summed over the group where R164 asks for it. A slot in a sealed
page stays as it is (R212). -/
def State.almSlotEqx (s : State) (c n : Nat) (cur : StatSum) (commit : Bool) (e : Nat) (t : AlmTally) :
    AlmTally × State :=
  if !s.almWritable c n then (t, s) else
  let slot := s.almSlot c n
  let old := AlmCfg.ofBytes slot
  let new := if commit && s.fld .almCtrl c 0 0 == 1 && old.adaptEn then old.rule cur e else old
  let s' := s.setAlmSlot c n (rollSlot slot new cur (!commit) ((e + 1) % 2 ^ 32))
  (t.note old new, match s.almPhys c n with | some a => s'.rollMarks a | none => s')

/-- The Almanac at an Equinox (R164 to R167): `sums` gives each slot's current block; e: low 32 bits of the epoch. -/
def State.almEqx (s : State) (c : Nat) (sums : Nat → StatSum) (commit : Bool) (e : Nat) : State :=
  if s.reg .almBase c == 0 then s
  else
    let r := (List.range almSlots).foldl (fun (p : AlmTally × State) n => p.2.almSlotEqx c n (sums n) commit e p.1)
      (⟨0, 0, 0, 0, 0⟩, s)
    let t := r.1
    let s := r.2.setReg .almEpoch c (BitVec.ofNat 64 e)
    if !commit then s
    else
      let s := s.setReg .almLast c (BitVec.ofNat 64 (t.raised * 65536 + t.lowered))
      let s := if t.changed != 0 then s.orReg .almFlags c 4 else s
      let s := if t.exhausted != 0 then
        (s.orReg .almFlags c 1).raise 0x0205 1 (some c) anchorDie [BitVec.ofNat 32 t.exhausted] else s
      if t.atMax != 0 then (s.orReg .almFlags c 2).raise 0x0206 1 (some c) anchorDie [BitVec.ofNat 32 t.atMax] else s

/-! ### ALM_SLOT_WRITE (R173) -/

/-- The configuration that a slot write leaves. A width that it changes leaves change_epoch as it is, which the effects of
R173 do not name (R161; DESIGN CHOICE, log entry 105). -/
def AlmWriteP.result (p : AlmWriteP) (x : AlmCfg) : AlmCfg :=
  let x : AlmCfg := if p.setConfig then
    { x with widthMin := p.widthMin.toNat, widthMax := p.widthMax.toNat, adaptEn := p.adaptEn, blkStorm := p.blkStorm
             thrHi := p.thrHi.toNat, thrLo := p.thrLo.toNat, stormThr := p.stormThr.toNat
             lowSteps := p.lowSteps.toNat } else x
  let x : AlmCfg := if p.setWidth then { x with width := p.width.toNat, pending := 0, lowRun := 0 } else x
  if p.clearFlags then { x with bandExhausted := false, satAtMax := false } else x

/-- What R173 asks of a slot write, in word order: the band and the resulting width, which is no
reserved code (R17), the thresholds, low_steps. -/
def AlmWriteP.checks (p : AlmWriteP) (x : AlmCfg) : List (Option Err) :=
  let y := AlmWriteP.result p x
  let band := p.setConfig && (p.widthMin.toNat == 0 || decide (p.widthMax.toNat < p.widthMin.toNat)
    || decide (8 < p.widthMax.toNat))
  let width := (p.setWidth && (p.width == 0 || decide (8 < p.width.toNat)))
    || decide (y.width < y.widthMin) || decide (y.widthMax < y.width)
  [errIf (band || width) (Err.word St.badField 5),
   errIf (p.setConfig && decide (p.thrHi.toNat < p.thrLo.toNat)) (Err.word St.badField 6),
   errIf (p.setConfig && p.lowSteps == 0) (Err.word St.badField 8)]

/-- The checks of ALM_SLOT_WRITE in word order: the page of its slot, where there is an Almanac, and what R173 asks (R203,
R212). -/
def State.slotWriteChecks (s : State) (c : Nat) (p : AlmWriteP) : List (Option Err) :=
  (if s.reg .almBase c == 0 then none else s.chkAlmSlot c 4 p.slot true)
    :: AlmWriteP.checks p (s.almCfg c p.slot.toNat)

/-- The context is between IDLE and HELD: an Equinox is in progress (R235). -/
def State.atEquinox (s : State) (c : Nat) : Bool := (s.ctx c).phase != .idle && (s.ctx c).phase != .held

/-- A committed slot write (R167, R173). One that changes width or pending at an Equinox sets ALM_FLAGS.width_changed. -/
def State.applySlotWrite (s : State) (c : Nat) (p : AlmWriteP) : State :=
  let n := p.slot.toNat
  let b := s.almSlot c n
  let old := AlmCfg.ofBytes b
  let new := AlmWriteP.result p old
  let changed := s.almWritable c n && (new.width != old.width || new.pending != old.pending)
  let s := s.setAlmSlot c n (new.bytes ++ b.drop 24)
  if changed && s.atEquinox c then s.orReg .almFlags c 4 else s

end Sys2Proof.Machine
end

