-- ==== Sys2Proof/Machine/Count.lean ====
section
/-! DEFINITION. The light counters and the deep counters (R394, R395, R433). -/

namespace Sys2Proof.Machine

open Sys2Proof

/-! The events of the deep counters (R395). -/

namespace Dc

def bitmac : Nat := 1
def planes : Nat := 2
def skipped : Nat := 3
def empty : Nat := 4
def tables : Nat := 5
def promotions : Nat := 6
def spills : Nat := 7
def chainAdds : Nat := 8
def qntElems : Nat := 9
def epiOut : Nat := 10
def eltElems : Nat := 11
def collElems : Nat := 12

end Dc

/-- A selection's qualifier `want` matches an occurrence's (R395): 0xFFFF matches every value; an event without a
qualifier matches always; the bits above the ones that the table names are ignored. -/
def qualMatches (event want qual : Nat) : Bool :=
  want == 0xFFFF
  || (if event == Dc.bitmac then want % 64 == qual
    else if event == Dc.planes || event == Dc.skipped then want % 16 == qual
    else if event == Dc.qntElems || event == Dc.epiOut then want % 256 == qual
    else if event == Dc.eltElems then want == 0 || want == qual
    else true)

/-- A selection (VWM_DCNT_SEL) counts an event with a qualifier in a context. -/
def dcntMatches (sel : W64) (event qual ctx : Nat) : Bool :=
  bits sel 31 31 == 1 && bits sel 23 16 == event && qualMatches event (bits sel 15 0) qual
  && (bits sel 24 24 == 0 || bits sel 30 25 == ctx)

/-- n occurrences of an event on a die (R395). -/
def State.deep (s : State) (d event qual ctx n : Nat) : State :=
  ((List.range 64).filter fun k => dcntMatches (s.reg .vwmDcntSel (64 * d + k)) event qual ctx).foldl
    (fun s k => s.bump .vwmDcntValue (64 * d + k) n) s

/-- The checks of CNT_SELECT. -/
def State.cntSelectErr (s : State) (q c : Nat) (p : CntSelectP) : Option Err :=
  let e := p.event.toNat
  firstErr [errIf (!inRange p.die.toNat s.dies) (Err.word St.badField 4),
    errIf (e == 0 || decide (12 < e)) (Err.word St.badField 5),
    errIf (!(s.queue q).priv && c != adminCtx && !(p.ctxEn && p.ctx.toNat == c)) (Err.word St.notOwner 6)]

/-- The value of VWM_DCNT_SEL that a selection gives. -/
def CntSelectP.sel (p : CntSelectP) : Nat :=
  (if p.enable then 2147483648 else 0) + p.ctx.toNat * 33554432 + (if p.ctxEn then 16777216 else 0)
    + p.event.toNat % 256 * 65536 + p.qualifier.toNat

/-- The counter that a selection names. -/
def CntSelectP.index (p : CntSelectP) : Nat := 64 * p.die.toNat + p.counter.toNat

/-- CNT_SELECT zeroes a deep counter and selects its event, qualifier and context filter (R395). -/
def execCntSelect (h : Hdr) (p : CntSelectP) (s : State) : Out :=
  s.packet s.txnScopes h ⟨0x702, 0, .any, false⟩ fun id c s =>
    s.guarded id (s.cntSelectErr h.ring.toNat c p) fun s =>
      ((s.setReg .vwmDcntSel (CntSelectP.index p) (BitVec.ofNat 64 (CntSelectP.sel p))).setReg .vwmDcntValue
        (CntSelectP.index p) 0).finishNow id

end Sys2Proof.Machine
end

