-- ==== Sys2Proof/Machine/Lantern.lean ====
section
/-! DEFINITION. Lantern records of marked packets (R396, R397). -/

namespace Sys2Proof.Machine

open Sys2Proof

/-- A Lantern record's fields before its time. -/
structure LanRec where
  kind : Nat
  port : Nat
  retx : Nat
  partner : Nat
  cls : Nat
  fop : Nat
  ctx : Nat
  partnerCtx : Nat
  seq : Nat
  tag : Nat
deriving DecidableEq, Repr

/-- The 32 bytes of a record (R397). -/
def LanRec.bytes (r : LanRec) (time : Nat) : List Byte :=
  leBytes 4 (r.kind * 2 ^ 28 + r.port * 2 ^ 23 + min 31 r.retx * 65536 + r.partner)
  ++ leBytes 4 (r.cls * 2 ^ 28 + r.fop * 65536 + r.ctx * 1024 + r.partnerCtx * 16) ++ leBytes 4 r.seq
  ++ leBytes 4 (r.tag * 65536) ++ leBytes 8 time ++ leBytes 8 0

/-- The Lantern ring has no place for one more record (R397). -/
def State.lanRingFull (s : State) : Bool :=
  let n := s.fld .lanCtrl 0 4 0
  let off := s.fld .lanBase 0 25 12 * 4096
  decide (67108864 < off + 32 * 2 ^ n)
    || (s.fld .lanProd 0 19 0 + 1) % 2 ^ n == s.fld .lanCons 0 19 0

/-- Once the Lantern ring has space, EV_LAN_OVERFLOW may be raised again (R397). -/
def State.lanSpace (s : State) : State := if s.lanRingFull then s else { s with lanFull := false }

/-- Write a record of an instant to the ring, or count it as dropped (R397). -/
def State.lanWrite (s : State) (r : LanRec) (time : Nat) : State :=
  if s.lanRingFull then
    let s := s.bump .lanDrop 0 1
    if s.lanFull then s
    else { s with lanFull := true }.raise 0x0904 1 none anchorDie (words64 (s.reg .lanDrop 0))
  else
    let m := s.fld .lanCtrl 0 4 0
    let i := s.fld .lanProd 0 19 0
    let s := s.wr (physAdmin (s.fld .lanBase 0 25 12 * 4096 + 32 * (i % 2 ^ m))) (r.bytes time) false
    s.setReg .lanProd 0 (BitVec.ofNat 64 ((i + 1) % 2 ^ m))

/-- The sequence number is sampled (R396). -/
def State.lanSampled (s : State) (seq : Nat) : Bool := seq % 2 ^ s.fld .lanCtrl 0 20 16 == 0

/-- A marked packet leaves by a port: the record carries the earlier transmissions of its seq and the header tag of its
command (R396, R397). -/
def State.lanSend (s : State) (port earlier : Nat) (o : Outgoing) : State :=
  match o.lan with
  | none => s
  | some tag =>
    let k := o.pkt
    if s.fld .lanCtrl 0 31 31 == 1 && s.lanSampled k.seq.toNat then
      s.lanWrite ⟨1, port, earlier, k.dstPart.toNat, k.cls.toNat, k.fop.toNat, k.srcCtx.toNat, k.dstCtx.toNat, k.seq.toNat, tag⟩
        s.now
    else s

/-- The first accepted receipt of a packet that arrived at an instant (R396). -/
def State.lanReceive (s : State) (port : Nat) (k : Pkt) (time : Nat) : State :=
  if s.fld .lanCtrl 0 30 30 == 1 && s.lanSampled k.seq.toNat then
    s.lanWrite ⟨2, port, 0, k.srcPart.toNat, k.cls.toNat, k.fop.toNat, k.dstCtx.toNat, k.srcCtx.toNat, k.seq.toNat, 0⟩ time
  else s

end Sys2Proof.Machine
end

