-- ==== Sys2Proof/Machine/Link.lean ====
section
/-! DEFINITION. Ports: the bring-up state machine (R264, R265, R270, R271), the link layer with replay and credits
(R266 to R268), and encryption's effect on it (R269). -/

namespace Sys2Proof.Machine

open Sys2Proof

/-- The die that carries a port (R26). -/
def dieOfPort (p : Nat) : Nat := p / 3

/-! ### Transaction packets on the wire (R278) -/

/-- The bytes of a packet before its ecrc. -/
def Pkt.head (p : Pkt) : List Byte :=
  leBytes 4 (p.cls.toNat * 268435456 + p.pver.toNat * 16777216 + p.fop.toNat * 65536 + p.dstPart.toNat)
  ++ leBytes 4 (p.srcPart.toNat * 65536 + p.dstCtx.toNat * 1024 + p.srcCtx.toNat * 16)
  ++ leBytes 4 p.seq.toNat
  ++ leBytes 4 (p.tagSlot.toNat * 65536 + p.status.toNat * 256 + p.poison.toNat)
  ++ leBytes 4 p.w4.toNat ++ leBytes 4 p.w5.toNat ++ leBytes 4 p.w6.toNat

/-- The payload in whole 64-byte units. -/
def Pkt.padded (p : Pkt) : List Byte :=
  p.payload ++ List.replicate (64 * ceilDiv p.payload.length 64 - p.payload.length) 0

/-- The CRC-32C over words 0 to 6 and the payload. -/
def Pkt.crc (p : Pkt) : W32 := BitVec.ofNat 32 (crc32c (Pkt.head p ++ Pkt.padded p))

def Pkt.bytes (p : Pkt) : List Byte := Pkt.head p ++ leBytes 4 p.ecrc.toNat ++ Pkt.padded p

/-- The virtual channel of a packet (R266). -/
def Pkt.vc (p : Pkt) : Nat :=
  match p.cls.toNat with | 0 => 1 | 1 => 2 | 2 => 3 | _ => 0

/-! ### Flits (R266, R269) -/

/-- The flit types (R266). -/
def flitData : Nat := 1
def flitAck : Nat := 2
def flitNak : Nat := 3
def flitControl : Nat := 4

/-- The 232 payload bytes. -/
def Flit.body (f : Flit) : List Byte := (f.payload ++ List.replicate 232 0).take 232

/-- The bytes of a flit of a type that fcrc covers: words 0 to 59 and 61 to 63. -/
def Flit.covered (ftype : Nat) (f : Flit) : List Byte :=
  leBytes 4 (ftype * 268435456 + f.fseq.toNat * 65536 + f.ackseq.toNat * 16 + f.vc.toNat)
  ++ leBytes 4 (f.credits.toNat * 65536 + f.creditVc.toNat * 16384 + f.firstPkt.toNat * 256)
  ++ Flit.body f ++ leBytes 4 0 ++ leBytes 8 f.tag.toNat

def Flit.crc (ftype : Nat) (f : Flit) : W32 := BitVec.ofNat 32 (crc32c (Flit.covered ftype f))

/-- The IV of a flit: a session counter, then its position in the stream of its type (log entry 78). -/
def flitIv (session ftype pos : Nat) : List Nat := Aes.beBytes 4 session ++ Aes.beBytes 8 (ftype * 2 ^ 60 + pos)

/-- The 64-bit tag of an encrypted payload. -/
def flitTag (key iv ct : List Nat) : W64 := BitVec.ofNat 64 (ofLeBytes (bytesOf ((Aes.tag key iv [] ct).take 8)))

/-- The link is encrypted: both ends chose it and agreed a key (R269). -/
def PortS.ciphered (p : PortS) : Bool := p.encrypt && p.key

/-- The key of port n's link. -/
def PortS.linkKey (p : PortS) (n : Nat) : List Nat := keyBytes (Config.linkKey n p.session)

def PortS.place (m : Map Nat) (ftype : Nat) : Nat := Map.get (fun _ => 0) m ftype
def PortS.pass (m : Map Nat) (ftype k : Nat) : Map Nat := Map.set (fun _ => 0) m ftype (PortS.place m ftype + k)

/-- A flit as port n sends it, k places on in the stream: on an encrypted link its payload is encrypted and carries a tag
(R269); then fcrc (R266). -/
def PortS.seal (p : PortS) (n ftype k : Nat) (f : Flit) : Flit :=
  let f :=
    if p.ciphered then
      let iv := flitIv p.session ftype (PortS.place p.txPos ftype + k)
      let ct := Aes.ctr (p.linkKey n) iv (natsOf (Flit.body f))
      { f with payload := bytesOf ct, tag := flitTag (p.linkKey n) iv ct }
    else { f with payload := Flit.body f, tag := 0 }
  { f with fcrc := Flit.crc ftype f }

/-- The IV with which port n reads the next flit of a type. -/
def PortS.rxIv (p : PortS) (n ftype : Nat) : List Nat :=
  flitIv (Config.peerSession n p.session) ftype (PortS.place p.rxPos ftype)

/-- The receiver's checks of a flit: fcrc, and the tag on an encrypted link (R267, R269). -/
def PortS.sound (p : PortS) (n ftype : Nat) (f : Flit) : Bool :=
  f.fcrc == Flit.crc ftype f
  && (!p.ciphered || f.tag == flitTag (p.linkKey n) (p.rxIv n ftype) (natsOf (Flit.body f)))

/-- The payload of a received flit in clear. -/
def PortS.clear (p : PortS) (n ftype : Nat) (f : Flit) : List Byte :=
  if p.ciphered then bytesOf (Aes.ctr (p.linkKey n) (p.rxIv n ftype) (natsOf (Flit.body f))) else Flit.body f

/-- Send an ack, nak or control flit that returns `credits` for a channel. -/
def State.sendFlit (s : State) (n ftype ackseq credits vc : Nat) (payload : List Byte) : State :=
  let p := s.port n
  let f := p.seal n ftype 0 {
    fseq := 0, ackseq := BitVec.ofNat 12 ackseq, vc := 0, credits := BitVec.ofNat 16 credits
    creditVc := BitVec.ofNat 2 vc, firstPkt := 63, payload := payload, fcrc := 0, tag := 0 }
  let s := s.setPort n { p with txPos := PortS.pass p.txPos ftype 1 }
  if ftype == flitControl then { s with out := { s.out with ctlFlits := s.out.ctlFlits ++ [(n, f)] } }
  else { s with out := { s.out with acks := s.out.acks ++ [(n, ftype, f)] } }

/-- Cut packet bytes into flit payloads of 232 bytes. -/
def flitPayloads : Nat → List Byte → List (List Byte)
  | 0, _ => []
  | n + 1, bs => if bs.isEmpty then [] else bs.take 232 :: flitPayloads n (bs.drop 232)

/-- The channel of the flit that is being filled, with the bytes it has; of another channel none (R266). -/
def PortS.filled (p : PortS) (vc : Nat) : List Byte :=
  match p.filling with
  | some x => if x.vc == vc then x.bytes else []
  | .none => []

/-- Flits that a packet begins: packets of one channel are packed back to back, so the first bytes go into the flit that is
being filled (R266; log entry 78). -/
def PortS.opens (p : PortS) (k : Pkt) : Nat :=
  let b := (p.filled (Pkt.vc k)).length
  ceilDiv (b + (Pkt.bytes k).length) 232 - if b == 0 then 0 else 1

/-- The replay buffer (R267). -/
def replayFlits : Nat := 1024

/-- The port carries packets of a virtual channel in its state (R270). -/
def PortS.carries (p : PortS) (vc : Nat) : Bool := p.st == .up || (p.st == .quarantine && vc == 0)

/-- The port can send the packet now: credits for every flit that it begins, and place in the replay buffer (R267,
R268). -/
def PortS.canSend (p : PortS) (k : Pkt) : Bool :=
  p.carries (Pkt.vc k) && decide (p.opens k ≤ Map.get (fun _ => 0) p.credits (Pkt.vc k))
  && decide (p.replay.length + (if p.filling.isSome then 1 else 0) + p.opens k ≤ replayFlits)

/-- Send a data flit: the next of the port's sequence, sealed, into the replay buffer (R266, R267, R269). -/
def State.putFlit (s : State) (n : Nat) (x : OpenFlit) : State :=
  let p := s.port n
  let f := p.seal n flitData 0 {
    fseq := BitVec.ofNat 12 p.txSeq, ackseq := BitVec.ofNat 12 (p.rxNext + 4095), vc := BitVec.ofNat 4 x.vc
    credits := 0, creditVc := 0, firstPkt := BitVec.ofNat 6 x.firstPkt, payload := x.bytes, fcrc := 0, tag := 0 }
  let s := s.setPort n { p with
    txSeq := (p.txSeq + 1) % 4096, txPos := PortS.pass p.txPos flitData 1, replay := p.replay ++ [f], filling := none }
  { s with out := { s.out with flits := s.out.flits ++ [(n, f)] } }

/-- The flit that is being filled leaves, its unused bytes zero. -/
def State.closeFlit (s : State) (n : Nat) : State :=
  match (s.port n).filling with
  | some x => s.putFlit n x
  | none => s

/-- What has filled flits in part leaves within its nanosecond (log entry 78). -/
def State.closeFlits (s : State) : State := s.ports.foldl (fun (s : State) e => s.closeFlit e.1) s

/-- Put the bytes of a packet into flits: whole ones leave, the last one stays to be filled. -/
def State.fillFlits (s : State) (n : Nat) (k : Pkt) : State :=
  let s := if (s.port n).filling.any fun x => x.vc != Pkt.vc k then s.closeFlit n else s
  let start := ((s.port n).filling).getD ⟨Pkt.vc k, 63, []⟩
  let first := if start.firstPkt == 63 then start.bytes.length / 4 else start.firstPkt
  let bs := start.bytes ++ Pkt.bytes k
  ((flitPayloads (bs.length + 1) bs).zipIdx).foldl (fun (s : State) e =>
    let x : OpenFlit := ⟨Pkt.vc k, if e.2 == 0 then first else 63, e.1⟩
    if e.1.length == 232 then s.putFlit n x else s.updPort n fun p => { p with filling := some x }) s

/-- The unacknowledged packet of a partner with a sequence number. -/
def State.unacked (s : State) (n seq : Nat) : Option Unacked := (s.ept n).unacked.find? fun u => u.seq == seq

/-- Update an unacknowledged packet of a partner. -/
def State.updUnacked (s : State) (n seq : Nat) (f : Unacked → Unacked) : State :=
  let e := s.ept n
  s.setEpt n { e with unacked := updFirst (fun u => u.seq == seq) f e.unacked }

/-- A packet that is to be acknowledged is transmitted: its earlier transmissions, and the state that counts this one
(R397). -/
def State.countSent (s : State) (n : Nat) (k : Pkt) : Nat × State :=
  let d := k.dstPart.toNat
  let q := k.seq.toNat
  if k.cls == 1 then (0, s)
  else (((s.unacked d q).map fun u => u.sent).getD 0, s.updUnacked d q fun u => { u with port := n, sent := u.sent + 1 })

/-- Transmit a packet by a port, under the credits of the flits that it begins; a marked packet leaves its Lantern record
(R266, R268, R396), and a retransmission counts on the port's die (R394, R433). -/
def State.emit (s : State) (n : Nat) (o : Outgoing) : State :=
  let p := s.port n
  let k := o.pkt
  let cr := Map.get (fun _ => 0) p.credits (Pkt.vc k)
  let s := (s.setPort n { p with credits := Map.set (fun _ => 0) p.credits (Pkt.vc k) (cr - p.opens k) }).fillFlits n k
  let s := if o.retx then s.bump .vwmLcLinkRetry (dieOfPort n) 1 else s
  let t := s.countSent n k
  { t.2 with out := { t.2.out with fab := t.2.out.fab ++ [(n, k)] } }.lanSend n t.1 o

/-- Send a packet on a port, or queue it behind those of its channel that wait for credits (R268). -/
def State.sendOn (s : State) (n : Nat) (o : Outgoing) : State :=
  let p := s.port n
  if !(p.queued.any fun x => Pkt.vc x.pkt == Pkt.vc o.pkt) && p.canSend o.pkt then s.emit n o
  else s.setPort n { p with queued := p.queued ++ [o] }

/-- Queued packets that can go, go, in order within each channel (R268). -/
def State.drainPort (s : State) (n : Nat) : Nat → State
  | 0 => s
  | fuel + 1 =>
    let p := s.port n
    let first := (List.range 4).findSome? fun vc =>
      match p.queued.find? fun o => Pkt.vc o.pkt == vc with
      | some o => if p.canSend o.pkt then some o else none
      | none => none
    match first with
    | some k => State.drainPort ((s.setPort n { p with queued := dropFirst (fun x => x == k) p.queued }).emit n k) n fuel
    | none => s

/-! ### The state machine (R270) -/

/-- Enter a state. -/
def State.enterPort (s : State) (n : Nat) (st : PortSt) : State :=
  s.updPort n fun p => { p with st := st, enteredAt := s.now, capNext := s.now }

/-- Each entry into TRAIN starts an attempt; what the link held is dropped (R267, R270). -/
def State.toTrain (s : State) (n : Nat) : State :=
  let p := s.port n
  let was := p.st == .up || p.st == .quarantine
  let s := s.setPort n { p with
    st := .train, attempts := p.attempts + 1, enteredAt := s.now, trained := 0, lanes := 0, version := 0
    aligned := false, key := false, encrypt := false, replay := [], replayFrom := 0, replayCount := 0, filling := none }
  if was then s.bump .ngfPortDowns n 1 else s

/-- Port and peer identity, the detail of the events of FAILED and QUARANTINE (R270). -/
def State.linkDetail (s : State) (n : Nat) : List W32 := [BitVec.ofNat 32 n, (s.port n).peerId.setWidth 32]

/-- Enter FAILED. -/
def State.portFail (s : State) (n : Nat) : State :=
  let s := s.enterPort n .failed
  s.raise 0x0502 2 none (dieOfPort n) (s.linkDetail n)

/-- An attempt fails: TRAIN again, or FAILED after the third (R270). -/
def State.failAttempt (s : State) (n : Nat) : State :=
  if 3 ≤ (s.port n).attempts then s.portFail n else s.toTrain n

/-- A bring-up that software starts: its first attempt. -/
def State.freshTrain (s : State) (n : Nat) : State := (s.updPort n fun p => { p with attempts := 0 }).toTrain n

/-- Enter NEGOTIATE. -/
def State.negotiate (s : State) (n : Nat) : State := s.enterPort n .negotiate

/-- CHECK: UP when the peer's digest and encrypt setting match the port's own, else QUARANTINE (R270). -/
def State.checkPort (s : State) (n : Nat) : State :=
  let p := s.port n
  let match? := p.peerDigest == s.reg .ngfFabDigest 0 && p.peerEncrypt == p.encrypt
  let s := s.updPort n fun p => { p with attempts := 0 }
  if match? then (if p.st == .up then s else s.enterPort n .up).drainPort n 4096
  else if p.st == .quarantine then s
  else
    let s := s.enterPort n .quarantine
    s.raise 0x0503 1 none (dieOfPort n) (s.linkDetail n)

/-- Lanes of a port: 8, or the group of four that trained, lanes 0 to 3 first (R265); 0 when neither did. -/
def lanesOf (trained : Nat) : Nat :=
  if trained % 256 == 255 then 8 else if trained % 16 == 15 || trained / 16 % 16 == 15 then 4 else 0

/-- The trained lanes of a port that have no record of failure (R374). -/
def State.goodLanes (s : State) (n trained : Nat) : Nat :=
  ((List.range 8).filter fun i => trained / 2 ^ i % 2 == 1 && !s.badLanes.contains (8 * n + i)).map (2 ^ ·) |>.sum

def portFault (n : Nat) : Out := .fault (.noSuchUnit "port" n)

/-- NGF_PORT_CTRL.enable changes (R270). -/
def State.setEnable (s : State) (n : Nat) (on : Bool) : State :=
  let s := s.setFld .ngfPortCtrl n 0 0 (if on then 1 else 0)
  if on then (if (s.port n).st == .disabled then s.freshTrain n else s)
  else s.setPort n { PortS.none with session := (s.port n).session, queued := (s.port n).queued }

/-- Writing retrain returns an enabled port to TRAIN (R270). -/
def State.retrain (s : State) (n : Nat) : State :=
  if (s.port n).st == .disabled then s else s.freshTrain n

/-- Setting enable brings a port to TRAIN; clearing it disables the port (R270). -/
def execNgfPortEnable (port : BitVec 5) (enable : Bool) (s : State) : Out :=
  let n := port.toNat
  if !inRange n s.nPorts then portFault n
  else if s.boot.phase != .ready then .next s
  else .next (s.setEnable n enable)

/-- Writing retrain returns the port to TRAIN (R270). -/
def execNgfPortRetrain (port : BitVec 5) (s : State) : Out :=
  let n := port.toNat
  if !inRange n s.nPorts then portFault n
  else if s.boot.phase != .ready then .next s
  else .next (s.retrain n)

/-- A change of encrypt takes effect at the next NEGOTIATE (R269). -/
def execNgfPortEncrypt (port : BitVec 5) (encrypt : Bool) (s : State) : Out :=
  let n := port.toNat
  if !inRange n s.nPorts then portFault n
  else if s.boot.phase != .ready then .next s
  else .next (s.setFld .ngfPortCtrl n 2 2 (if encrypt then 1 else 0))

/-- PMD training ends: ALIGN when a usable set of lanes trained, else the attempt fails (R265, R270). -/
def execLinkTrainDone (port : BitVec 5) (lanes : BitVec 8) (s : State) : Out :=
  let n := port.toNat
  if !inRange n s.nPorts then portFault n
  else if (s.port n).st != .train then .next s
  else
    let t := s.goodLanes n lanes.toNat
    if lanesOf t == 0 then .next (s.failAttempt n)
    else .next ((s.enterPort n .align).updPort n fun p => { p with trained := t })

/-- Training not finished within 500 ms fails the attempt (R270). -/
def execLinkTrainTimeout (port : BitVec 5) (s : State) : Out :=
  let n := port.toNat
  if !inRange n s.nPorts then portFault n
  else if (s.port n).st != .train || decide (s.now < (s.port n).enteredAt + 500000000) then .next s
  else .next (s.failAttempt n)

/-- FEC lock and deskew complete with a choice of 8 or 4 lanes; the port then waits for NGF_PART_ID.valid (R265, R270). -/
def execAlignDone (port : BitVec 5) (s : State) : Out :=
  let n := port.toNat
  if !inRange n s.nPorts then portFault n
  else if (s.port n).st != .align || (s.port n).aligned then .next s
  else
    let k := lanesOf (s.port n).trained
    let s := s.updPort n fun p => { p with lanes := k, aligned := true }
    let s := if k == 4 then s.raise 0x0504 1 none (dieOfPort n) [] else s
    .next (if s.fld .ngfPartId 0 31 31 == 1 then s.negotiate n else s)

/-- Alignment not complete within 10 ms returns the port to TRAIN (R270). -/
def execAlignTimeout (port : BitVec 5) (s : State) : Out :=
  let n := port.toNat
  let p := s.port n
  if !inRange n s.nPorts then portFault n
  else if p.st != .align || p.aligned || decide (s.now < p.enteredAt + 10000000) then .next s
  else .next (s.failAttempt n)

/-- The capability flit of a port (R271). -/
def State.capFlit (s : State) (n : Nat) : CapFlit where
  vmin := 1
  vmax := 1
  switchPort := false
  partId := BitVec.ofNat 16 (s.fld .ngfPartId 0 15 0)
  digest := s.reg .ngfFabDigest 0
  encrypt := s.fld .ngfPortCtrl n 2 2 == 1
  lanes := BitVec.ofNat 4 (s.port n).lanes
  keyOk := true

/-- In NEGOTIATE the port sends a capability flit every 1 µs (R270, R271). -/
def execCapabilityFlitSend (port : BitVec 5) (s : State) : Out :=
  let n := port.toNat
  if !inRange n s.nPorts then portFault n
  else if (s.port n).st != .negotiate || decide (s.now < (s.port n).capNext) then .next s
  else .next { s.updPort n (fun p => { p with capNext := s.now + 1000 }) with
    out := { s.out with capFlits := s.out.capFlits ++ [(n, s.capFlit n)] } }

/-- The initial credits of the four channels (R268). -/
def initialCredits : Map Nat :=
  (List.range 4).foldl (fun m vc => Map.set (fun _ => 0) m vc (Config.initialCredits vc)) []

/-- A peer's capability flit: no common version is FAILED; a key share that does not verify is no valid flit; else
the version, the peer's settings and the key are taken, and CHECK decides (R269 to R271). -/
def execCapabilityFlitReceive (port : BitVec 5) (flit : CapFlit) (s : State) : Out :=
  let n := port.toNat
  if !inRange n s.nPorts then portFault n
  else if (s.port n).st != .negotiate then .next s
  else
    let own := s.fld .ngfPortCtrl n 2 2 == 1
    let s := s.updPort n fun p => { p with
      peerSwitch := flit.switchPort, peerId := flit.partId, peerDigest := flit.digest, peerEncrypt := flit.encrypt }
    if decide (1 < flit.vmin.toNat) || decide (flit.vmax.toNat < 1) then .next (s.portFail n)
    else if own && flit.encrypt && !flit.keyOk then .next s
    else
      let s := s.updPort n fun p => { p with
        st := .check, version := 1, encrypt := own, key := own && flit.encrypt, session := p.session + 1
        txSeq := 0, rxNext := 0, ackSent := 0, replay := [], replayFrom := 0, replayCount := 0
        credits := initialCredits, rxVc := 0, txPos := [], rxPos := [], filling := none }
      .next (s.checkPort n)

/-- 10 ms without a valid peer flit returns the port to TRAIN (R270). -/
def execNegotiateTimeout (port : BitVec 5) (s : State) : Out :=
  let n := port.toNat
  if !inRange n s.nPorts then portFault n
  else if (s.port n).st != .negotiate || decide (s.now < (s.port n).enteredAt + 10000000) then .next s
  else .next (s.failAttempt n)

/-- Loss of FEC lock returns the port to TRAIN (R270). -/
def execFecLockLoss (port : BitVec 5) (s : State) : Out :=
  let n := port.toNat
  if !inRange n s.nPorts then portFault n
  else match (s.port n).st with
  | .align | .negotiate | .check => .next (s.failAttempt n)
  | .up | .quarantine => .next (s.toTrain n)
  | .disabled | .train | .failed => .next s

/-! ### Acknowledgement, replay and credits (R267, R268) -/

/-- Free the replay entries up to and including `seq`. -/
def freeReplay (seq : Nat) (fs : List Flit) : List Flit :=
  if fs.any fun f => f.fseq.toNat == seq then
    (fs.dropWhile fun f => f.fseq.toNat != seq).drop 1
  else fs

/-- Credits come back, and waiting packets go. -/
def State.gainCredits (s : State) (n vc k : Nat) : State :=
  let p := s.port n
  let c := Map.get (fun _ => 0) p.credits vc
  (s.setPort n { p with credits := Map.set (fun _ => 0) p.credits vc (c + k) }).drainPort n 4096

/-- The acknowledgement and the credits that every flit carries: replay entries are freed, which ends a succession of
replays, and credits come back (R266 to R268). -/
def State.ackFlit (s : State) (n : Nat) (f : Flit) : State :=
  let s := s.updPort n fun p =>
    let fs := freeReplay f.ackseq.toNat p.replay
    { p with replay := fs, replayCount := if fs.length == p.replay.length then p.replayCount else 0 }
  s.gainCredits n f.creditVc.toNat f.credits.toNat

/-- The nak that answers a discarded flit: it names the last good one (R267). -/
def State.sendNak (s : State) (n : Nat) : State := s.sendFlit n flitNak (((s.port n).rxNext + 4095) % 4096) 0 0 []

/-- A flit of a type other than data arrives at a port that carries flits: one that fails its checks is answered by a nak;
else `body` takes it, with the place in the stream passed (R267, R269). -/
def State.takeFlit (s : State) (n ftype : Nat) (f : Flit) (body : State → State) : Out :=
  let p := s.port n
  if !inRange n s.nPorts then portFault n
  else if p.st != .up && p.st != .quarantine then .next s
  else
    let t := s.setPort n { p with rxPos := PortS.pass p.rxPos ftype 1 }
    .next (if p.sound n ftype f then body t else t.sendNak n)

/-- A data flit: one that fails fcrc, or its tag on an encrypted link, or is out of sequence is discarded with a nak that
names the last good one; else it is delivered, and acknowledged with one credit for the channel of its packet (R266 to
R269). -/
def execFlitDataReceive (port : BitVec 5) (flit : Flit) (s : State) : Out :=
  let n := port.toNat
  let p := s.port n
  if !inRange n s.nPorts then portFault n
  else if p.st != .up && p.st != .quarantine then .next s
  else if !p.sound n flitData flit || flit.fseq.toNat != p.rxNext then .next (s.sendNak n)
  else
    let vc := if flit.firstPkt == 63 then p.rxVc else flit.vc.toNat
    let s := s.setPort n { p with
      rxNext := (p.rxNext + 1) % 4096, ackSent := p.rxNext, rxVc := vc, rxPos := PortS.pass p.rxPos flitData 1 }
    .next ((s.sendFlit n flitAck p.rxNext 1 vc []).ackFlit n flit)

/-- An ack flit (R266, R268). -/
def execFlitAckReceive (port : BitVec 5) (head : FlitHead) (payload : List Byte) (check : FlitCheck) (s : State) : Out :=
  let flit := Flit.of head payload check
  s.takeFlit port.toNat flitAck flit fun s => s.ackFlit port.toNat flit

/-- Replay from the flit after the one that a nak names; the sixteenth replay of one flit in succession returns the port to
TRAIN (R267). -/
def State.replay (s : State) (n lastGood : Nat) : State :=
  let p := s.port n
  let fs := freeReplay lastGood p.replay
  match fs with
  | [] => s.setPort n { p with replay := fs, replayCount := 0 }
  | f :: _ =>
    let again := fs.length == p.replay.length && f.fseq.toNat == p.replayFrom
    let k := if again then p.replayCount + 1 else 1
    let s := s.setPort n { p with replay := fs, replayFrom := f.fseq.toNat, replayCount := k }
    let s := (s.bump .ngfPortReplay n fs.length).bump .vwmLcLinkRetry (dieOfPort n) fs.length
    if 16 ≤ k then (s.raise 0x0501 1 none (dieOfPort n) []).toTrain n
    else { s with out := { s.out with flits := s.out.flits ++ fs.map fun f => (n, f) } }

/-- A nak flit: its credits come back and the sender replays (R266, R267). -/
def execFlitNakReceive (port : BitVec 5) (flit : Flit) (s : State) : Out :=
  s.takeFlit port.toNat flitNak flit fun s =>
    (s.gainCredits port.toNat flit.creditVc.toNat flit.credits.toNat).replay port.toNat flit.ackseq.toNat

/-- The payload of a control flit: the fabric digest, then the encrypt setting (R271; log entry 78). -/
def controlBytes (digest : W64) (encrypt : Bool) : List Byte :=
  leBytes 8 digest.toNat ++ leBytes 1 (if encrypt then 1 else 0)

/-- A control flit with new values: both are checked again as in CHECK (R271). -/
def execControlFlitReceive (port : BitVec 5) (payload : List Byte) (frame : FlitHead × FlitCheck) (s : State) : Out :=
  let n := port.toNat
  let flit := Flit.of frame.1 payload frame.2
  let bs := (s.port n).clear n flitControl flit
  s.takeFlit n flitControl flit fun s =>
    let s := s.updPort n fun p => { p with
      peerDigest := BitVec.ofNat 64 (ofLeBytes (bs.take 8)), peerEncrypt := ofLeBytes ((bs.drop 8).take 1) % 2 == 1 }
    (s.checkPort n).ackFlit n flit

/-! ### Registers of the fabric identity (R270, R271) -/

/-- Ports beyond ALIGN (R270). -/
def State.beyondAlign (s : State) : Bool :=
  s.ports.any fun e => e.2.st == .negotiate || e.2.st == .check || e.2.st == .up || e.2.st == .quarantine

/-- NGF_PART_ID is set, and ports that wait in ALIGN go on (R270). -/
def State.setPartId (s : State) (v : W64) : State :=
  let s := s.setReg .ngfPartId 0 v
  if bits v 31 31 == 0 then s
  else ((s.ports.filter fun e => e.2.st == .align && e.2.aligned).map fun e => e.1).foldl State.negotiate s

/-- NGF_FAB_DIGEST is set, and every port in UP or QUARANTINE sends a control flit and checks again (R271). -/
def State.setFabDigest (s : State) (v : W64) : State :=
  let s := s.setReg .ngfFabDigest 0 v
  ((s.ports.filter fun e => e.2.st == .up || e.2.st == .quarantine).map fun e => e.1).foldl (fun (s : State) n =>
    let p := s.port n
    (s.sendFlit n flitControl ((p.rxNext + 4095) % 4096) 0 0 (controlBytes v p.encrypt)).checkPort n) s

end Sys2Proof.Machine
end

