-- ==== Sys2Proof/Machine/Fp.lean ====
section
/-! DEFINITION. Floating-point and integer formats and their exact arithmetic: the storage formats (R44, R45, R50),
rounding to nearest even (R62), stochastic rounding (R63), overflow, infinities and NaN on write (R47, R431, R48), and
the binary32 operations of the element engines and the epilogue (R180). Values are exact fractions. -/

namespace Sys2Proof.Machine

/-- A non-negative fraction num / den with den > 0. -/
structure Mag where
  num : Nat
  den : Nat
deriving DecidableEq, Repr

/-- What a floating-point pattern means. -/
inductive Fv where
  | nan
  | inf (neg : Bool)
  | fin (neg : Bool) (m : Mag)
deriving DecidableEq, Repr

/-- A binary floating-point layout of R44. `hasInf` is false for E4M3, whose all-ones exponent is finite but for
its NaN (R45). -/
structure FFmt where
  ebits : Nat
  mbits : Nat
  bias : Nat
  hasInf : Bool
deriving DecidableEq, Repr

def fp32 : FFmt := ⟨8, 23, 127, true⟩
def bf16 : FFmt := ⟨8, 7, 127, true⟩
def fp16 : FFmt := ⟨5, 10, 15, true⟩
def e4m3 : FFmt := ⟨4, 3, 7, false⟩
def e5m2 : FFmt := ⟨5, 2, 15, true⟩

/-- The canonical NaN of R48. -/
def FFmt.canonNan (f : FFmt) : Nat :=
  if f.hasInf then ((2 ^ f.ebits - 1) <<< f.mbits) + 2 ^ (f.mbits - 1) else 2 ^ (f.ebits + f.mbits) - 1

/-- The pattern of the largest finite magnitude (R44). -/
def FFmt.maxFinite (f : FFmt) : Nat :=
  if f.hasInf then ((2 ^ f.ebits - 1) <<< f.mbits) - 1 else 2 ^ (f.ebits + f.mbits) - 2

/-- 2^e for an integer e. -/
def pow2 (e : Int) : Mag := if 0 ≤ e then ⟨2 ^ e.toNat, 1⟩ else ⟨1, 2 ^ (-e).toNat⟩

def Mag.mul (a b : Mag) : Mag := ⟨a.num * b.num, a.den * b.den⟩
/-- Exact quotient (0 when the divisor is 0: its callers exclude that). -/
def Mag.div (a b : Mag) : Mag := if b.num = 0 then ⟨0, 1⟩ else ⟨a.num * b.den, a.den * b.num⟩
def Mag.isZero (a : Mag) : Bool := a.num == 0
def Mag.le (a b : Mag) : Bool := decide (a.num * b.den ≤ b.num * a.den)
def Mag.lt (a b : Mag) : Bool := decide (a.num * b.den < b.num * a.den)
def Mag.add (a b : Mag) : Mag := ⟨a.num * b.den + b.num * a.den, a.den * b.den⟩
/-- a - b for b ≤ a. -/
def Mag.sub (a b : Mag) : Mag := ⟨a.num * b.den - b.num * a.den, a.den * b.den⟩
def Mag.ofNat (n : Nat) : Mag := ⟨n, 1⟩

/-- floor(log2 m) of a positive magnitude. -/
def Mag.log2 (m : Mag) : Int :=
  let g : Int := (m.num.log2 : Int) - (m.den.log2 : Int)
  if Mag.le (pow2 g) m then g else g - 1

/-- Decode a pattern (R44, R45). -/
def FFmt.decode (f : FFmt) (b : Nat) : Fv :=
  let man := b % 2 ^ f.mbits
  let ex := (b >>> f.mbits) % 2 ^ f.ebits
  let neg := decide ((b >>> (f.ebits + f.mbits)) % 2 = 1)
  if f.hasInf && ex = 2 ^ f.ebits - 1 then (if man = 0 then .inf neg else .nan)
  else if !f.hasInf && ex = 2 ^ f.ebits - 1 && man = 2 ^ f.mbits - 1 then .nan
  else
    let e : Int := (if ex = 0 then 1 else (ex : Int)) - f.bias - f.mbits
    let m := if ex = 0 then man else 2 ^ f.mbits + man
    .fin neg (Mag.mul ⟨m, 1⟩ (pow2 e))

/-- Nearest integer to a fraction, ties to even (R62). -/
def Mag.rne (m : Mag) : Nat :=
  let q := m.num / m.den
  let r := 2 * (m.num % m.den)
  if r < m.den then q else if m.den < r then q + 1 else if q % 2 = 0 then q else q + 1

/-- floor of a fraction. -/
def Mag.floor (m : Mag) : Nat := m.num / m.den

/-- The magnitude rounded up to an integer. -/
def Mag.ceil (m : Mag) : Nat := (m.num + m.den - 1) / m.den

/-- Stochastic rounding of a magnitude with the 16-bit draw r (R63). -/
def Mag.stoch (m : Mag) (r : Nat) : Nat :=
  let n := m.num / m.den
  let f16 := (m.num % m.den) * 65536 / m.den
  if 65536 ≤ f16 + r then n + 1 else n

/-- How a conversion rounds: to nearest even, stochastically with a draw, or toward plus infinity (scales, R148). -/
inductive Rnd where
  | rne
  | stoch (draw : Nat)
  | up
deriving DecidableEq, Repr

def Mag.round (m : Mag) : Rnd → Nat
  | .rne => m.rne
  | .stoch r => m.stoch r
  | .up => m.ceil

/-- The exponent of the quantum of |x| in a format: floor(log2 |x|), no lower than the smallest normal's, less the
mantissa bits. -/
def FFmt.quantum (f : FFmt) (m : Mag) : Int :=
  let emin : Int := 1 - f.bias
  let e := if m.isZero then emin else m.log2
  (if e < emin then emin else e) - f.mbits

/-- A finite magnitude rounded into a format: its unsigned pattern, and whether it overflowed (R47). -/
def FFmt.encodeMag (f : FFmt) (m : Mag) (rnd : Rnd) : Nat × Bool :=
  let q := f.quantum m
  let n := (Mag.div m (pow2 q)).round rnd
  -- n is at most 2^(mbits+1); the pattern of n·2^q follows from q, a carry into the next binade included
  let base : Int := (q + f.mbits + f.bias - 1) * 2 ^ f.mbits
  let pat := (base + n).toNat
  if f.maxFinite < pat then ((if f.hasInf && decide (3 ≤ f.mbits) then (2 ^ f.ebits - 1) <<< f.mbits else f.maxFinite), true)
  else (pat, false)

/-- What a write of a value reports: a saturating write (R47), a non-finite value (R431). -/
structure Wrote where
  pat : Nat
  saturated : Bool
  nonfinite : Bool
deriving DecidableEq, Repr

/-- Write a value in a scalar format: overflow as R47, infinities as R431, NaN as R48. E5M2 has infinities but its
finite overflow saturates (R47). An overflow to infinity is non-finite and no saturating write (log entry 20). -/
def FFmt.write (f : FFmt) (v : Fv) (rnd : Rnd) : Wrote :=
  let sgn (neg : Bool) : Nat := if neg then 2 ^ (f.ebits + f.mbits) else 0
  match v with
  | .nan => ⟨f.canonNan, false, true⟩
  | .inf neg =>
    if f.hasInf then ⟨sgn neg + ((2 ^ f.ebits - 1) <<< f.mbits), false, true⟩ else ⟨f.canonNan, false, true⟩
  | .fin neg m =>
    let (p, big) := f.encodeMag m rnd
    let toInf := f.hasInf && decide (3 ≤ f.mbits)
    ⟨sgn neg + p, big && !toInf, big && toInf⟩

/-- A binary32 pattern. -/
abbrev F32 := BitVec 32

def fval (x : F32) : Fv := fp32.decode x.toNat
def rne32 (v : Fv) : F32 := BitVec.ofNat 32 (fp32.write v .rne).pat

def Fv.neg? : Fv → Bool
  | .nan => false
  | .inf n => n
  | .fin n _ => n
def Fv.isNan : Fv → Bool
  | .nan => true
  | _ => false
def Fv.isInf : Fv → Bool
  | .inf _ => true
  | _ => false
def Fv.isFin : Fv → Bool
  | .fin _ _ => true
  | _ => false
def Fv.isZero : Fv → Bool
  | .fin _ m => m.isZero
  | _ => false
def Fv.negate : Fv → Fv
  | .nan => .nan
  | .inf n => .inf (!n)
  | .fin n m => .fin (!n) m

/-- An exact integer as a value. -/
def Fv.ofInt (i : Int) : Fv := .fin (decide (i < 0)) ⟨i.natAbs, 1⟩

/-- Exact sum (IEEE 754: opposite infinities give NaN; an exact zero of opposite signs is +0). -/
def Fv.add : Fv → Fv → Fv
  | .nan, _ => .nan
  | _, .nan => .nan
  | .inf a, .inf b => if a = b then .inf a else .nan
  | .inf a, _ => .inf a
  | _, .inf b => .inf b
  | .fin a m, .fin b n =>
    if a = b then .fin a (m.add n)
    else if m.lt n then .fin b (n.sub m)
    else if n.lt m then .fin a (m.sub n)
    else .fin false ⟨0, 1⟩

/-- Exact product. -/
def Fv.mul : Fv → Fv → Fv
  | .nan, _ => .nan
  | _, .nan => .nan
  | .inf a, .inf b => .inf (a != b)
  | .inf a, .fin b n => if n.isZero then .nan else .inf (a != b)
  | .fin a m, .inf b => if m.isZero then .nan else .inf (a != b)
  | .fin a m, .fin b n => .fin (a != b) (m.mul n)

/-- Exact quotient (a finite non-zero value over zero is an infinity; zero over zero is NaN). -/
def Fv.div : Fv → Fv → Fv
  | .nan, _ => .nan
  | _, .nan => .nan
  | .inf _, .inf _ => .nan
  | .inf a, .fin b _ => .inf (a != b)
  | .fin a _, .inf b => .fin (a != b) ⟨0, 1⟩
  | .fin a m, .fin b n =>
    if n.isZero then (if m.isZero then .nan else .inf (a != b)) else .fin (a != b) (m.div n)

/-- The order of values: is a < b (false with a NaN)? -/
def Fv.lt : Fv → Fv → Bool
  | .nan, _ => false
  | _, .nan => false
  | .inf a, .inf b => a && !b
  | .inf a, .fin _ _ => a
  | .fin _ _, .inf b => !b
  | .fin a m, .fin b n =>
    if m.isZero && n.isZero then false
    else match a, b with
      | true, false => true
      | false, true => false
      | false, false => m.lt n
      | true, true => n.lt m

-- The binary32 operations of R180: one rounding of the exact result.
def fadd (a b : F32) : F32 := rne32 (Fv.add (fval a) (fval b))
def fsub (a b : F32) : F32 := rne32 (Fv.add (fval a) (fval b).negate)
def fmul (a b : F32) : F32 := rne32 (Fv.mul (fval a) (fval b))
def fdiv (a b : F32) : F32 := rne32 (Fv.div (fval a) (fval b))
/-- a · b + c with one rounding. -/
def ffma (a b c : F32) : F32 := rne32 (Fv.add (Fv.mul (fval a) (fval b)) (fval c))

/-- The largest n with n² ≤ x, found bit by bit from bit `k` down. -/
def isqrtBits : Nat → Nat → Nat → Nat
  | 0, x, acc => if (acc + 1) * (acc + 1) ≤ x then acc + 1 else acc
  | k + 1, x, acc =>
    let a := acc + 2 ^ (k + 1)
    isqrtBits k x (if a * a ≤ x then a else acc)

/-- The largest n with n² ≤ x. -/
def isqrt (x : Nat) : Nat := isqrtBits (x.log2 / 2 + 1) x 0

/-- Correctly rounded square root of a binary32 value (R180): the root is taken to 40 bits beyond the result, with a
sticky last bit, so that one rounding of it is the rounding of the exact root. -/
def fsqrt (a : F32) : F32 :=
  match fval a with
  | .nan => rne32 .nan
  | .inf n => if n then rne32 .nan else a
  | .fin n m =>
    if m.isZero then a
    else if n then rne32 .nan
    else
      -- m is num / den with den a power of two: scale it to an integer times an even power of two
      let sh := 2 * (200 : Nat)
      let x := m.num * 2 ^ sh / m.den
      let r := isqrt x
      let sticky := if r * r = x && m.num * 2 ^ sh % m.den = 0 then 0 else 1
      rne32 (.fin false ⟨2 * r + sticky, 2 ^ 201⟩)

/-- min and max return the operand that is not NaN when exactly one is (R180), and of +0 and −0 the first (DESIGN CHOICE, log
entry 96: R180 is silent). -/
def fmin (a b : F32) : F32 :=
  match fval a, fval b with
  | .nan, .nan => rne32 .nan
  | .nan, _ => b
  | _, .nan => a
  | x, y => if y.lt x then b else a
def fmax (a b : F32) : F32 :=
  match fval a, fval b with
  | .nan, .nan => rne32 .nan
  | .nan, _ => b
  | _, .nan => a
  | x, y => if x.lt y then b else a

/-- The BF16 pattern of a value, to nearest even (R62, R47). -/
def toBf16 (v : Fv) : Wrote := bf16.write v .rne

/-- The exponent histogram's bin of a value (R139, R152). -/
def histBin (v : Fv) : Nat :=
  match v with
  | .nan => 63
  | .inf _ => 63
  | .fin _ m => if m.isZero then 0 else (clampInt 1 62 (m.log2 + 32)).toNat

-- ---------------------------------------------------------------- format codes (R42)

/-- Format codes of R42. -/
inductive Fmt where
  | bf16 | fp16 | fp32 | e4m3 | e5m2
  | mxE4m3 | mxE5m2 | mxE2m3 | mxE3m2 | mxFp4 | mxInt8
  | csi | int32 | rem8
deriving DecidableEq, Repr

/-- The format of a code; none for a reserved code (R17, R42). -/
def Fmt.ofCode (c : Nat) : Option Fmt :=
  match c with
  | 1 => some .bf16 | 2 => some .fp16 | 3 => some .fp32 | 4 => some .e4m3 | 5 => some .e5m2
  | 6 => some .mxE4m3 | 7 => some .mxE5m2 | 8 => some .mxE2m3 | 9 => some .mxE3m2 | 10 => some .mxFp4
  | 11 => some .mxInt8 | 16 => some .csi | 17 => some .int32 | 18 => some .rem8
  | _ => none

/-- Stored bits of one element; CSI by its width. -/
def Fmt.ebits : Fmt → Nat
  | .bf16 => 16 | .fp16 => 16 | .fp32 => 32 | .e4m3 => 8 | .e5m2 => 8
  | .mxE4m3 => 8 | .mxE5m2 => 8 | .mxE2m3 => 6 | .mxE3m2 => 6 | .mxFp4 => 4 | .mxInt8 => 8
  | .csi => 0 | .int32 => 32 | .rem8 => 8

def Fmt.isMx : Fmt → Bool
  | .mxE4m3 | .mxE5m2 | .mxE2m3 | .mxE3m2 | .mxFp4 | .mxInt8 => true
  | _ => false

/-- The scalar layout of a format that has one. -/
def Fmt.scalar : Fmt → Option FFmt
  | .bf16 => some Machine.bf16 | .fp16 => some Machine.fp16 | .fp32 => some Machine.fp32
  | .e4m3 => some Machine.e4m3 | .e5m2 => some Machine.e5m2
  | _ => none

-- R43, the role columns.
def Fmt.quantiserInput : Fmt → Bool
  | .fp32 | .csi | .int32 | .rem8 => false
  | _ => true
def Fmt.epilogueOutput : Fmt → Bool
  | .bf16 | .fp16 | .fp32 | .e4m3 | .e5m2 | .int32 => true
  | _ => false
def Fmt.eltLoad : Fmt → Bool
  | .csi => false
  | _ => true
def Fmt.reducePartial : Fmt → Bool
  | .bf16 | .fp16 | .fp32 => true
  | _ => false
def Fmt.reduceShard : Fmt → Bool
  | .bf16 | .fp32 => true
  | _ => false
def Fmt.gatherTransport : Fmt → Bool
  | .bf16 | .fp16 => true
  | _ => false

/-- The value of a scalar element pattern. -/
def Fmt.value (f : Fmt) (b : Nat) : Fv :=
  match f.scalar with
  | some l => l.decode b
  | none =>
    match f with
    | .int32 => Fv.ofInt (BitVec.ofNat 32 b).toInt
    | .rem8 => Fv.ofInt (BitVec.ofNat 8 b).toInt
    | _ => .nan

/-- The value of an MX element pattern under its scale byte (R49, R50): a scale byte of 0xFF is NaN. -/
def Fmt.mxValue (f : Fmt) (b scale : Nat) : Fv :=
  if scale = 255 then .nan
  else
    let s : Fv := .fin false (pow2 ((scale : Int) - 127))
    let small (eb mb bias : Nat) : Fv :=
      let man := b % 2 ^ mb
      let ex := (b >>> mb) % 2 ^ eb
      let neg := decide ((b >>> (eb + mb)) % 2 = 1)
      .fin neg (Mag.mul ⟨if ex = 0 then man else 2 ^ mb + man, 1⟩
        (pow2 ((if ex = 0 then 1 else (ex : Int)) - bias - mb)))
    let e : Fv := match f with
      | .mxE4m3 => FFmt.decode Machine.e4m3 b
      | .mxE5m2 => FFmt.decode Machine.e5m2 b
      | .mxE2m3 => small 2 3 1
      | .mxE3m2 => small 3 2 3
      | .mxFp4 => small 2 1 1
      | .mxInt8 => Fv.mul (Fv.ofInt (BitVec.ofNat 8 b).toInt) (.fin false ⟨1, 64⟩)
      | _ => .nan
    Fv.mul e s

/-- Flush a BF16 or FP16 subnormal to zero of its sign: the quantiser's reading (R46). -/
def Fmt.flush (f : Fmt) (v : Fv) : Fv :=
  match f, v with
  | .bf16, .fin n m => if m.lt (pow2 (-126)) then .fin n ⟨0, 1⟩ else .fin n m
  | .fp16, .fin n m => if m.lt (pow2 (-14)) then .fin n ⟨0, 1⟩ else .fin n m
  | _, v => v

/-- A CSI scale must be positive, finite and normal (R55). -/
def scaleOk (b : F32) : Bool :=
  match fval b with
  | .fin false m => Mag.le (pow2 (-126)) m
  | _ => false

-- ---------------------------------------------------------------- CSI codes (R52 to R57)

/-- Bits [n·w + w - 1 : n·w] of a packed stream (R53). -/
def streamGet (bs : List Byte) (w n : Nat) : Nat :=
  let lo := n * w
  let first := lo / 8
  (ofLeBytes ((bs.drop first).take 3) >>> (lo % 8)) % 2 ^ w

/-- The integer value of a w-bit code (R52). -/
def codeVal (signed : Bool) (w c : Nat) : Int :=
  if signed then (BitVec.ofNat w c).toInt else ((c % 2 ^ w : Nat) : Int)

/-- Pack codes at exact width into bytes (R53): the stream as one number, then its bytes. -/
def streamPack (w : Nat) (codes : List Int) : List Byte :=
  let total := codes.foldr (fun c acc => acc * 2 ^ w + (c % ((2 ^ w : Nat) : Int)).toNat) 0
  leBytes (ceilDiv (w * codes.length) 8) total

/-- Pad codes with zeros to a multiple of 64 (R54). -/
def padCodes (codes : List Int) : List Int :=
  codes ++ List.replicate (64 * ceilDiv codes.length 64 - codes.length) 0

/-- The clamp range of a conversion to CSI-w (R56). -/
def clampRange (signed : Bool) (w : Nat) : Int × Int :=
  if signed then (if w = 1 then (-1, 0) else (-(2 ^ (w - 1) - 1 : Int), 2 ^ (w - 1) - 1)) else (0, 2 ^ w - 1)

/-- The largest code of R148. -/
def qmax (signed : Bool) (w : Nat) : Nat :=
  if signed then (if w = 1 then 1 else 2 ^ (w - 1) - 1) else 2 ^ w - 1

/-- An exact value rounded to an integer: nearest even on the value (R62), or stochastically on the signed value with
floor (R63, integer targets). -/
def roundInt (v : Fv) (rnd : Rnd) : Int :=
  match v with
  | .fin neg m =>
    match rnd with
    | .stoch r =>
      if neg then
        -- t = -m; n = floor t = -ceil m; f = ceil m - m
        let c := m.ceil
        let f16 := (c * m.den - m.num) * 65536 / m.den
        if 65536 ≤ f16 + r then -(c : Int) + 1 else -(c : Int)
      else (m.stoch r : Nat)
    | _ => if neg then -(m.rne : Int) else (m.rne : Int)
  | _ => 0

/-- Plane weight w_p of R68. -/
def planeWeight (signed : Bool) (wa p : Nat) : Int :=
  if signed && decide (p + 1 = wa) then -(2 ^ p : Int) else (2 ^ p : Int)

/-- Slice j of a b code of width wb (R57): the code is extended to 2·ceil(wb/2) bits, and the top slice of a signed
code is signed. -/
def slice (signed : Bool) (wb : Nat) (code : Int) (j : Nat) : Int :=
  let g := ceilDiv wb 2
  let ext : Nat := (code % ((4 ^ g : Nat) : Int)).toNat
  let s := (ext >>> (2 * j)) % 4
  if signed && decide (j + 1 = g) && decide (2 ≤ s) then (s : Int) - 4 else (s : Int)

/-- sat_add of R119: the exact sum, clamped to 32 bits; true when it was clamped. -/
def satAdd32 (a b : Int) : Int × Bool :=
  let x := a + b
  let c := clampInt (-(2 ^ 31)) (2 ^ 31 - 1) x
  (c, decide (c ≠ x))

end Sys2Proof.Machine
end

