-- ==== Sys2Proof/Machine/Move.lean ====
section
/-! DEFINITION. The data-movement commands (R208 to R211) and the flash reads they wait for (R223). -/

namespace Sys2Proof.Machine

open Sys2Proof

/-! ### Type fields (R40 to R43) -/

/-- The rounding field of a type (R40). -/
def typeRnd (t : BitVec 16) : Nat := t.toNat / 16384

/-- The format of a type. -/
def typeFmt (t : BitVec 16) : Option Fmt := Fmt.ofCode (t.toNat % 256)

/-- The defined fields of a type: width, signed and scale_axis are reserved for a format other than CSI (R15, R40). -/
def typeDefined (t : BitVec 16) : BitVec 16 := if Fmt.ofCode (t.toNat % 256) == some .csi then t else t &&& 0xC0FF#16

/-- The fields of a type that a command only reads: rnd is ignored (R41). -/
def typeRead (t : BitVec 16) : BitVec 16 := typeDefined t &&& 0x3FFF#16

def csiSigned (t : Nat) : Bool := t / 4096 % 2 == 1
def csiAxis (t : Nat) : Bool := t / 8192 % 2 == 1

/-- A type field that must be CSI: format, width 1 to 8, no reserved rounding (R17, R41, R65, R111). -/
def chkCsi (w : Nat) (t : BitVec 16) : Option Err :=
  errIf (typeFmt t != some .csi || csiWidth t.toNat == 0 || decide (8 < csiWidth t.toNat) || decide (2 ≤ typeRnd t))
    (Err.word St.badField w)

/-- A type field that must be a format of a role other than CSI: the part ignores bits [13:8] (R15, R17, R40, R41,
R43). -/
def chkFmt (w : Nat) (t : BitVec 16) (role : Fmt → Bool) : Option Err :=
  let ok := match typeFmt t with
    | some f => role f && f != .csi && decide (typeRnd t < 2)
    | none => false
  errIf (!ok) (Err.word St.badField w)

/-! ### Copies -/

/-- A destination of data movement (R211): where R160 or R189 forbids writes it faults, else as any destination. -/
def State.chkMove (s : State) (c w : Nat) (a : W64) (n : Nat) : Option Err :=
  firstErr [errIf (s.dmForbidden c a.toNat n) (Err.word St.badField w), s.chkWrite c w a n]

/-- The source of byte j of a copy in ascending order: a forward overlap repeats the bytes before the destination. -/
def srcAt (src dst len j : Nat) : Nat :=
  if decide (src < dst) && decide (dst < src + len) then src + j % (dst - src) else src + j

/-- The destination of a copy cut at 64-byte lines: (offset, bytes). -/
def lineOffs (dst len : Nat) : List (Nat × Nat) :=
  if len == 0 then []
  else (List.range ((dst + len - 1) / 64 - dst / 64 + 1)).map fun i =>
    let lo := max dst ((dst / 64 + i) * 64)
    let hi := min (dst + len) ((dst / 64 + i + 1) * 64)
    (lo - dst, hi - lo)

/-- One byte at a local address. -/
def State.byteVa (s : State) (c a : Nat) : Byte := (s.rdVa c a 1).headD 0

/-- Copy k bytes that fall in one destination line, with the poison of their source lines (R208, R229); a source page
found unmapped ends the command (R203). -/
def State.copyChunk (s : State) (id c src dst len off k : Nat) : State :=
  if !s.running id then s
  else
    let addrs := (List.range k).map fun i => srcAt src dst len (off + i)
    if addrs.any fun a => (s.readPhys c a).isNone then s.failFlight id St.unmapped 0
    else
      let s := s.madeAccess id
      let bad := addrs.find? fun a => s.vaPoisoned c a
      let bs := addrs.map fun a => s.byteVa c a
      let s := match bad with
        | some a => s.consume id c a
        | none => s
      s.storePiece id c (dst + off) bs bad.isSome

/-- Copy len bytes in ascending address order (R208). -/
def State.copyBytes (s : State) (id c src dst len : Nat) : State :=
  (lineOffs dst len).foldl (fun s p => s.copyChunk id c src dst len p.1 p.2) s

/-! ### Flash reads (R223) -/

/-- The parts of ranges that lie on pages served from flash (R202). -/
def State.flashPieces (s : State) (id c : Nat) (rs : List (Nat × Nat)) : List FlashRead :=
  rs.flatMap fun r =>
    match s.place c r.1 with
    | .page _ _ => (pagesTouched r.1 r.2).filterMap fun p =>
      let x := s.page c p
      if x.st == .flash || x.st == .up then
        let lo := max r.1 (p * 2097152)
        let hi := min (r.1 + r.2) ((p + 1) * 2097152)
        some ⟨some id, x.chan, x.fpage, lo - p * 2097152, hi - lo⟩
      else none
    | _ => []

/-- The flash reads of a command's sources are queued (R223). -/
def State.queueReads (s : State) (id c : Nat) (rs : List (Nat × Nat)) : State :=
  { s with ftl := { s.ftl with reads := s.ftl.reads ++ s.flashPieces id c rs } }

/-- A flash read of the flight is outstanding. -/
def State.reading (s : State) (id : Nat) : Bool := s.ftl.reads.any fun r => r.flight == some id

/-- Run a command at once, or after its flash reads (R223). -/
def State.withReads (s : State) (id c : Nat) (rs : List (Nat × Nat)) (cmd : Instr) (body : State → State) : State :=
  if (s.flashPieces id c rs).isEmpty then body s
  else (s.queueReads id c rs).updFlight id fun f => { f with cmd := some cmd }

/-! ### MEM_COPY (R208) -/

/-- The copy itself, with what ECC finds in the lines read (R227). -/
def State.runMemCopy (s : State) (id c : Nat) (src dst len : W64) (ecc : List EccHit) : State :=
  let s := ecc.foldl (fun (s : State) e => s.eccAt c e) s
  (s.copyBytes id c src.toNat dst.toNat len.toNat).finishLater id

/-- The checks of MEM_COPY, in word order (R18): the regions are checked over the bytes that word 8 asks for. -/
def State.memCopyErr (s : State) (c : Nat) (src dst len : W64) : Option Err :=
  let n := len.toNat
  firstErr [s.chkRead c 4 src n, s.chkMove c 6 dst n,
    errIf (n == 0 || decide (1099511627776 < n)) (Err.word St.badField 8)]

/-- MEM_COPY copies len bytes in ascending address order, with the poison marks of the lines (R208, R211). -/
def execMemCopy (h : Hdr) (src dst len : W64) (ecc : List EccHit) (s : State) : Out :=
  s.packet s.txnScopes h ⟨0x100, 0, .context, true⟩ fun id c s =>
    s.guarded id (s.memCopyErr c src dst len) fun s =>
      let n := len.toNat
      (s.names id c [(src.toNat, n)] [(dst.toNat, n)] []).withReads id c [(src.toNat, n)] (.memCopy h src dst len ecc)
        fun s => s.runMemCopy id c src dst len ecc

/-! ### TB_COPY (R209) -/

/-- Bytes of a tile block (R205). -/
def blockBytes : Nat := 65536

/-- The first word of a block header has the magic and the layout of R206. -/
def blockOk (w : W32) : Bool := bits (w.setWidth 64) 31 16 == 0xB701

/-- One block of a TB_COPY: with check, an invalid one ends the command (R209). -/
def State.copyBlock (s : State) (id c : Nat) (check : Bool) (src dst : Nat) : State :=
  if !s.running id then s
  else if check then
    let x := s.load id c src 4
    if !x.2.2.running id then x.2.2
    else if !blockOk (BitVec.ofNat 32 (ofLeBytes x.1)) then x.2.2.failFlight id St.badField 0xFFFFFFFF
    else x.2.2.copyBytes id c src dst blockBytes
  else s.copyBytes id c src dst blockBytes

/-- The blocks of a TB_COPY as (source, destination), in order. -/
def tbBlocks (p : TbCopyP) : List (Nat × Nat) :=
  (List.range p.count.toNat).map fun i => (p.src.toNat + i * p.srcStep.toNat, p.dst.toNat + i * p.dstStep.toNat)

def State.runTbCopy (s : State) (id c : Nat) (p : TbCopyP) : State :=
  ((tbBlocks p).foldl (fun s b => s.copyBlock id c p.check b.1 b.2) s).finishLater id

/-- The blocks whose addresses are judged: with count 0 the first, whose faults come before that of word 8 (R18). -/
def tbJudged (p : TbCopyP) : List (Nat × Nat) := if p.count == 0 then [(p.src.toNat, p.dst.toNat)] else tbBlocks p

/-- The checks of TB_COPY, in word order (R18, R209); `src`: those of the source blocks, `dst` those of the
destinations. -/
def tbChecks (p : TbCopyP) (src dst : List (Option Err)) : Option Err :=
  firstErr (chkAlign 4 p.src blockBytes :: src ++ chkAlign 6 p.dst 64 :: dst
    ++ [errIf (p.count == 0) (Err.word St.badField 8),
        errIf (p.srcStep.toNat % blockBytes != 0) (Err.word St.badField 9),
        errIf (p.dstStep.toNat % 64 != 0) (Err.word St.badField 10)])

/-- The checks of TB_COPY. -/
def State.tbCopyErr (s : State) (c : Nat) (p : TbCopyP) : Option Err :=
  tbChecks p ((tbJudged p).map fun b => s.chkRead c 4 (vaOf b.1) blockBytes)
    ((tbJudged p).map fun b => s.chkMove c 6 (vaOf b.2) blockBytes)

/-- TB_COPY copies a series of tile blocks (R209, R211). -/
def execTbCopy (h : Hdr) (p : TbCopyP) (s : State) : Out :=
  s.packet s.txnScopes h ⟨0x101, 0, .context, true⟩ fun id c s =>
    s.guarded id (s.tbCopyErr c p) fun s =>
      let rs := (tbBlocks p).map fun b => (b.1, blockBytes)
      (s.names id c rs ((tbBlocks p).map fun b => (b.2, blockBytes)) []).withReads id c rs (.tbCopy h p)
        fun s => s.runTbCopy id c p

/-! ### TB_BUILD (R210) -/

/-- Rows of the block: code 0 means 128 (R206). -/
def tbRows (n : BitVec 8) : Nat := if n == 0 then 128 else n.toNat

/-- Channels of the block (R206). -/
def tbChans (p : TbBuildP) : Nat := if csiAxis p.type.toNat then p.nCodes.toNat else tbRows p.nRows

/-- Bytes of a code row. -/
def tbRowBytes (p : TbBuildP) : Nat := p.nCodes.toNat * csiWidth p.type.toNat / 8

/-- The source rows as addresses, and the address of the block's first scale. -/
def tbRowAddr (p : TbBuildP) (r : Nat) : Nat :=
  p.src.toNat + (p.row0.toNat + r) * p.srcStride.toNat + p.col0.toNat * csiWidth p.type.toNat / 8
def tbScaleAddr (p : TbBuildP) : Nat :=
  p.scaleAddr.toNat + 4 * (if csiAxis p.type.toNat then p.col0.toNat else p.row0.toNat)

/-- The header line (R206). -/
def tbHeader (p : TbBuildP) : List Byte :=
  leBytes 4 (0xB7010000 + p.type.toNat) ++ leBytes 4 (p.strideLines.toNat * 65536 + p.nRows.toNat)
  ++ leBytes 4 p.nCodes.toNat ++ leBytes 4 0 ++ leBytes 8 p.row0.toNat ++ leBytes 8 p.col0.toNat ++ leBytes 32 0

/-- Write the block: header, scale vector (entries beyond the channels hold 1.0: R205) and code rows. The scales of the channels
and the entries beyond them are two stores, so that a line which holds both keeps an old mark (R228; DESIGN CHOICE, log
entry 106). -/
def State.runTbBuild (s : State) (id c : Nat) (p : TbBuildP) : State :=
  let d := p.dst.toNat
  let n := tbChans p
  let s := s.store id c d (tbHeader p) false
  let s := s.copyBytes id c (tbScaleAddr p) (d + 0x40) (4 * n)
  let s := s.store id c (d + 0x40 + 4 * n) ((List.replicate (128 - n) (leBytes 4 0x3F800000)).flatten) false
  ((List.range (tbRows p.nRows)).foldl (fun (s : State) r =>
    s.copyBytes id c (tbRowAddr p r) (d + 0x240 + 64 * r * p.strideLines.toNat) (tbRowBytes p)) s).finishLater id

/-- The ranges that a TB_BUILD reads: its scales, then its rows. -/
def tbSources (p : TbBuildP) : List (Nat × Nat) :=
  (tbScaleAddr p, 4 * tbChans p) :: (List.range (tbRows p.nRows)).map fun r => (tbRowAddr p r, tbRowBytes p)

/-- The checks of TB_BUILD, in word order (R18, R206, R207, R210). -/
def State.tbBuildErr (s : State) (c : Nat) (p : TbBuildP) : Option Err :=
  let n := tbRows p.nRows
  let k := p.nCodes.toNat
  let sl := p.strideLines.toNat
  firstErr ([chkCsi 4 p.type,
      errIf (sl == 0 || decide (1015 < n * sl) || decide (sl * 512 < k * csiWidth p.type.toNat)) (Err.word St.badField 4)]
    ++ ((tbSources p).tail.map fun r => s.chkRead c 5 (vaOf r.1) r.2)
    ++ [s.chkRead c 8 (vaOf (tbScaleAddr p)) (4 * tbChans p),
        errIf (k % 64 != 0 || decide (128 < n) || decide (128 < tbChans p)) (Err.word St.badField 11),
        errIf (p.col0.toNat % 64 != 0) (Err.word St.badField 12), chkAlign 13 p.dst blockBytes,
        s.chkMove c 13 p.dst blockBytes])

/-- TB_BUILD cuts one tile block from a stored CSI tensor (R210, R211). -/
def execTbBuild (h : Hdr) (p : TbBuildP) (s : State) : Out :=
  s.packet s.txnScopes h ⟨0x102, 0, .context, true⟩ fun id c s =>
    s.guarded id (s.tbBuildErr c p) fun s =>
      (s.names id c (tbSources p) [(p.dst.toNat, blockBytes)] []).withReads id c (tbSources p) (.tbBuild h p)
        fun s => s.runTbBuild id c p

/-! ### HBM_PATROL (R227) -/

/-- The patrol reads one HBM line: corrected and counted, or poisoned (R227, R228). -/
def execHbmPatrol (ctx : BitVec 6) (addr : W64) (found : PatrolFind) (s : State) : Out :=
  let c := ctx.toNat
  match s.readPhys c addr.toNat with
  | none => .next s
  | some p =>
    if p < memStride || 2 * memStride ≤ p then .next s
    else match found with
    | .clean => .next s
    | .corrected => .next (s.eccAt c ⟨addr, .corrected⟩)
    | .uncorrectable => .next (s.eccAt c ⟨addr, .uncorrectable⟩)

end Sys2Proof.Machine
end

