-- ==== Sys2Proof/Machine/Tier.lean ====
section
/-! DEFINITION. The tier commands (R213 to R217), page moves (R216), step copies (R244 to R247), the flash translation
layer (R221 to R226) and the failure of an image's drain (R251). -/

namespace Sys2Proof.Machine

open Sys2Proof

def pageBytes : Nat := 2097152

/-! ### Frames and flash pages -/

/-- A frame is released: its lines lose their marks, unless an image still holds it (R215, R228). -/
def State.freeFrame (s : State) (c frame : Nat) : State :=
  if s.frameHeld c frame then s else s.zero (physFrame frame 0) pageBytes

/-- Take a fresh frame. -/
def State.takeFrame (s : State) : Nat × State := (s.nextFrame, { s with nextFrame := s.nextFrame + 1 })

/-- Channel k works (FTL_CHANNELS). -/
def State.chanWorks (s : State) (k : Nat) : Bool := (s.reg .ftlChannels 0).toNat / 2 ^ k % 2 == 1

/-- Take a flash page on the next working channel in round robin (R221): page, channel; none while no channel works. -/
def State.takeFpage (s : State) : Option (Nat × Nat × State) :=
  (((List.range 32).map fun i => (s.ftl.nextChan + i) % 32).find? fun k => s.chanWorks k).map fun k =>
    (s.nextFpage, k, { s with nextFpage := s.nextFpage + 1, ftl := { s.ftl with nextChan := (k + 1) % 32 } })

/-- Take n flash pages in round robin: (page, channel) each. -/
def State.takeFpages (s : State) : Nat → Option (List (Nat × Nat) × State)
  | 0 => some ([], s)
  | n + 1 => (s.takeFpage).bind fun t => (t.2.2.takeFpages n).map fun r => ((t.1, t.2.1) :: r.1, r.2)

/-- Bytes programmed to flash, `host` of them written by the part, and the wear events (R224). -/
def State.nandWrite (s : State) (host bytes : Nat) : State :=
  let old := (s.reg .ftlNandWritten 0).toNat
  let rated := (s.reg .ftlRated 0).toNat
  let s := (s.bump .ftlHostWritten 0 host).bump .ftlNandWritten 0 bytes
  let s := { s with hist := { s.hist with
    hostWritten := s.reg .ftlHostWritten 0, nandWritten := s.reg .ftlNandWritten 0 } }
  let crossed := fun (pct : Nat) => rated != 0 && decide (old * 100 < rated * pct)
    && decide (rated * pct ≤ (old + bytes) * 100)
  let s := if crossed 80 then s.raise 0x0302 1 none anchorDie [] else s
  if crossed 100 then s.raise 0x0303 1 none anchorDie [] else s

/-! ### Step copies and image credits (R244, R245, R247) -/

/-- The stores that wait for a page end with a fault. -/
def State.failWaits (s : State) (c p st : Nat) : State :=
  let ws := (s.page c p).waits
  let s := s.updPage c p fun x => { x with waits := [], creditWait := false }
  let fail := fun (l : List (Nat × Pkt)) (id : Nat) =>
    l.map fun e => if e.1 == id then (e.1, { e.2 with status := BitVec.ofNat 8 st }) else e
  ws.foldl (fun (s : State) w => match w.flight with
    | some id => { s.failFlight id st 0 with fab := { s.fab with late := fail s.fab.late id } }
    | none => s) s

/-- A page that waits for an image credit goes on once it can (R247): a credit is taken only by a copy that finds its
frame. -/
def State.retryCredit (s : State) (c p : Nat) : State :=
  let x := s.page c p
  let held := s.frameHeld c x.frame
  if !x.creditWait || (held && decide ((s.reg .eqxCredits c).toNat ≤ (s.ctx c).creditsHeld.length)) then s
  else if (s.reg .tierQuotaHbm c).toNat ≤ s.hbmUse c then (s.failWaits c p St.quota).copyQuotaFail c
  else
    let s := if held then s.updCtx c fun y => { y with
      creditPages := NatSet.ins p y.creditPages, creditsHeld := NatSet.ins x.frame y.creditsHeld } else s
    s.beginCopy c p

/-- Every waiting page of the context tries again. -/
def State.retryCredits (s : State) (c : Nat) : State :=
  ((s.pagesOf c).filter fun e => e.2.creditWait).foldl (fun s e => s.retryCredit c e.1) s

/-- A frame that an image held is released by it: its credit returns (R247), and it is freed when no live page maps it
(R250). -/
def State.imageLets (s : State) (c frame : Nat) : State :=
  let s := s.updCtx c fun x => { x with creditsHeld := NatSet.del x.creditsHeld frame }
  if (s.liveFrames c).contains frame then s else s.freeFrame c frame

/-- The waiting stores of a page land, in order, those of a command that has ended excepted (R203, R244). -/
def State.landWaits (s : State) (c p : Nat) : State :=
  let x := s.page c p
  let s := s.updPage c p fun x => { x with waits := [] }
  x.waits.foldl (fun (s : State) w =>
    let live := match w.flight with
      | some id => (match s.flightOf id with | some f => f.status == St.ok | none => true)
      | none => true
    if !live then s
    else
      let s := s.wr (physFrame x.frame (w.addr % pageBytes)) w.bytes w.poison
      match w.flight with
      | some id => s.updFlight id fun f => { f with made := true }
      | none => s) s

/-- A step copy finishes: the page is mapped to the new frame, the old one is its step-start frame, and the waiting
writes land (R244). -/
def State.stepCopyDone (s : State) (c p : Nat) : State :=
  let x := s.page c p
  match x.copying with
  | none => s
  | some f =>
    let s := s.copyMem (physFrame x.frame 0) (physFrame f 0) pageBytes
    (s.setPage c p { x with frame := f, stepStart := some x.frame, copying := none }).landWaits c p

/-! ### Images that fail (R251) -/

/-- A drain fails: its key and flash pages go, its frames are released, its record stays (R249, R251). -/
def State.failImage (s : State) (id : Nat) : State :=
  match s.image id with
  | none => s
  | some m =>
    if m.st != .draining then s
    else
      let frames := (m.pages.filter fun p => !p.drained).map fun p => p.frame
      let s := s.updImage id fun x => { x with st := .failed, key := false }
      let s : State := frames.foldl (fun s f => s.imageLets m.ctx f) s
      let s := s.retryCredits m.ctx
      (s.orReg .eqxFlags m.ctx 8).raise 0x0407 2 (some m.ctx) anchorDie []

/-- Every drain fails (R251). -/
def State.failDrains (s : State) : State :=
  ((s.images.filter fun m => m.st == .draining).map fun m => m.id).foldl State.failImage s

/-! ### The tier commands -/

def TierP.first (p : TierP) : Nat := p.va.toNat / pageBytes

/-- The pages of the range as numbers. -/
def TierP.pages (p : TierP) : List Nat := (List.range p.count.toNat).map (· + p.va.toNat / pageBytes)

/-- Field checks of the shared layout (R199, R213); a tier 0 address names no page (log 18). -/
def State.tierFields (s : State) (c : Nat) (p : TierP) : List (Option Err) :=
  [s.chkPages c 5 p.va p.count.toNat, errIf (p.count == 0) (Err.word St.badField 7)]

/-- Any page of the range is protected (R214, R243). -/
def State.chkUnprotected (s : State) (c : Nat) (ps : List Nat) : Option Err :=
  errIf (ps.any fun p => (s.page c p).st != .unmapped && s.protPage c p) (Err.state St.badField)

/-- Any page of the range is unmapped (R203). -/
def State.chkMapped (s : State) (c : Nat) (ps : List Nat) : Option Err :=
  errIf (ps.any fun p => (s.page c p).st == .unmapped) (Err.word St.unmapped 5)

/-- The HBM quota lacks frames for `n` more (R214, R219). -/
def State.chkHbmQuota (s : State) (c n : Nat) : Option Err :=
  errIf (decide ((s.reg .tierQuotaHbm c).toNat < s.hbmUse c + n)) (Err.state St.quota)

def State.countSt (s : State) (c : Nat) (ps : List Nat) (f : PageSt → Bool) : Nat :=
  (ps.filter fun p => f (s.page c p).st).length

/-- Map a page to a zeroed frame (R215). -/
def State.mapPage (s : State) (c p : Nat) : State :=
  let f := s.takeFrame
  f.2.setPage c p { PageS.none with st := .hbm, frame := f.1 }

/-- The checks of TIER_MAP. -/
def State.tierMapErr (s : State) (c : Nat) (p : TierP) : Option Err :=
  let ps := TierP.pages p
  firstErr (s.tierFields c p ++ [errIf (ps.any fun n => (s.page c n).st != .unmapped) (Err.state St.badField),
    s.chkHbmQuota c ps.length])

/-- A tier command goes on: its pages must still reach the target before COMMAND_COMPLETE (R215). It names no page in the sense
of R432, and a later TIER_UNMAP or TIER_SEAL of its range does not wait for it (DESIGN CHOICE, log entry 102). -/
def State.tierWork (s : State) (id : Nat) (op : TierOp) (p : TierP) : State :=
  (s.updFlight id fun f => { f with work := .tier op (TierP.first p) p.count.toNat }).finishLater id

/-- TIER_MAP gives each page a zeroed HBM frame within the quota (R214, R215). -/
def execTierMap (h : Hdr) (p : TierP) (s : State) : Out :=
  s.packet s.txnScopes h ⟨0x500, 0, .context, true⟩ fun id c s =>
    s.guarded id (s.tierMapErr c p) fun s =>
      ((TierP.pages p).foldl (fun (s : State) n => s.mapPage c n) s).tierWork id .map p

/-- The checks of TIER_UNMAP and TIER_SEAL. -/
def State.tierRangeErr (s : State) (c : Nat) (p : TierP) : Option Err :=
  firstErr (s.tierFields c p ++ [s.chkUnprotected c (TierP.pages p)])

/-- TIER_UNMAP releases frames and flash pages once no earlier command names the range (R214, R215); COMMAND_COMPLETE
changes the map. -/
def execTierUnmap (h : Hdr) (p : TierP) (s : State) : Out :=
  s.packet s.txnScopes h ⟨0x501, 0, .context, true⟩ fun id c s =>
    s.guarded id (s.tierRangeErr c p) fun s => s.tierWork id .unmap p

/-- TIER_SEAL seals each page once every earlier command that writes the range has completed (R214, R215). -/
def execTierSeal (h : Hdr) (p : TierP) (s : State) : Out :=
  s.packet s.txnScopes h ⟨0x502, 0, .context, true⟩ fun id c s =>
    s.guarded id (s.tierRangeErr c p) fun s => s.tierWork id .seal p

/-- A page begins to move to HBM, into a frame taken now (R202, R219). -/
def State.moveUp (s : State) (c p : Nat) : State :=
  let f := s.takeFrame
  let x := s.page c p
  let s := f.2.updPage c p fun x => { x with st := .up, frame := f.1 }
  { s with ftl := { s.ftl with reads := s.ftl.reads ++ [⟨none, x.chan, x.fpage, 0, pageBytes⟩] } }

/-- The reads that bring a flash page to HBM are over, or are given up with the move. -/
def State.endMoveReads (s : State) (fpage : Nat) : State :=
  { s with ftl := { s.ftl with reads := s.ftl.reads.filter fun r => !(r.flight.isNone && r.fpage == fpage) } }

/-- A page of a TIER_UNSEAL (R215). -/
def State.unsealPage (s : State) (c p : Nat) : State :=
  match (s.page c p).st with
  | .unmapped | .up => s
  | .hbm => s.updPage c p fun x => { x with sealed := false }
  | .down => s.updPage c p fun x => { x with st := .hbm, sealed := false }
  | .flash => s.moveUp c p

/-- The checks of TIER_UNSEAL. -/
def State.tierUnsealErr (s : State) (c : Nat) (p : TierP) : Option Err :=
  let ps := TierP.pages p
  firstErr (s.tierFields c p ++ [s.chkMapped c ps, s.chkUnprotected c ps,
    s.chkHbmQuota c (s.countSt c ps fun t => t == .flash || t == .down)])

/-- TIER_UNSEAL brings the pages to HBM, cancelling moves to flash, and unseals them (R214, R215). -/
def execTierUnseal (h : Hdr) (p : TierP) (s : State) : Out :=
  s.packet s.txnScopes h ⟨0x503, 0, .context, true⟩ fun id c s =>
    s.guarded id (s.tierUnsealErr c p) fun s =>
      ((TierP.pages p).foldl (fun (s : State) n => s.unsealPage c n) s).tierWork id .unseal p

/-- A page of a TIER_MIGRATE (R215): a move the other way is cancelled. -/
def State.migratePage (s : State) (c : Nat) (toFlash : Bool) (p : Nat) : State :=
  match (s.page c p).st, toFlash with
  | .hbm, true => s.updPage c p fun x => { x with st := .down }
  | .up, true =>
    let x := s.page c p
    ((s.updPage c p fun x => { x with st := .flash }).endMoveReads x.fpage).freeFrame c x.frame
  | .down, false => s.updPage c p fun x => { x with st := .hbm }
  | .flash, false => s.moveUp c p
  | _, _ => s

/-- The checks of TIER_MIGRATE; `target`: to flash. -/
def State.tierMigrateErr (s : State) (c : Nat) (p : TierP) : Option Err :=
  let ps := TierP.pages p
  let other :=
    if p.target then
      [errIf (ps.any fun n => !(s.page c n).sealed) (Err.state St.notSealed),
       errIf (decide ((s.reg .tierQuotaFlash c).toNat < s.flashUse c + s.countSt c ps fun t => t == .hbm))
         (Err.state St.quota),
       errIf s.ftl.readOnly (Err.state St.flashRo)]
    else [s.chkHbmQuota c (s.countSt c ps fun t => t == .flash || t == .down)]
  firstErr (s.tierFields c p ++ [s.chkMapped c ps, s.chkUnprotected c ps] ++ other)

/-- TIER_MIGRATE moves each page to the target tier (R214, R215). -/
def execTierMigrate (h : Hdr) (p : TierP) (s : State) : Out :=
  s.packet s.txnScopes h ⟨0x504, 0, .context, true⟩ fun id c s =>
    s.guarded id (s.tierMigrateErr c p) fun s =>
      ((TierP.pages p).foldl (fun (s : State) n => s.migratePage c p.target n) s).tierWork id
        (if p.target then .toFlash else .toHbm) p

def PageSt.code : PageSt → Nat
  | .unmapped => 0 | .hbm => 1 | .flash => 2 | .down => 3 | .up => 4

/-- Poisoned lines of a page. -/
def State.poisonLines (s : State) (x : PageS) : Nat :=
  match x.readPhys 0 with
  | some a => (s.poisonIn a pageBytes).length
  | none => 0

/-- The page belongs to a checkpoint image of its context. -/
def State.imageHas (s : State) (c p : Nat) : Bool :=
  s.images.any fun m => m.ctx == c && m.st != .failed && m.pages.any fun x => x.page == p

/-- The 16-byte record of a page (R217). -/
def State.pageRecord (s : State) (c p : Nat) : List Byte :=
  let x := s.page c p
  leBytes 4 (x.st.code * 536870912 + (if x.sealed then 268435456 else 0) + p)
  ++ leBytes 4 (min 65535 (s.poisonLines x) * 65536)
  ++ leBytes 4 ((if s.imageHas c p then 2 else 0) + (if x.stepStart.isSome then 1 else 0)) ++ leBytes 4 0

/-- The checks of TIER_QUERY. -/
def State.tierQueryErr (s : State) (c : Nat) (p : TierP) : Option Err :=
  firstErr (s.tierFields c p ++ [chkAlign 8 p.dstAddr 64, s.chkWrite c 8 p.dstAddr (16 * p.count.toNat)])

/-- TIER_QUERY writes one page record per page (R215, R217). -/
def execTierQuery (h : Hdr) (p : TierP) (s : State) : Out :=
  s.packet s.txnScopes h ⟨0x505, 0, .context, true⟩ fun id c s =>
    s.guarded id (s.tierQueryErr c p) fun s =>
      ((s.names id c [] [(p.dstAddr.toNat, 16 * p.count.toNat)] []).store id c p.dstAddr.toNat
        ((TierP.pages p).flatMap fun n => s.pageRecord c n) false).finishLater id

/-! ### What a tier command waits for (R215, R432) -/

/-- A range of a command touches `n` pages from `first`. -/
def touchesPages (r : Nat × Nat) (first n : Nat) : Bool := overlaps r.1 r.2 (first * pageBytes) (n * pageBytes)

/-- A flight names the range (`writes`: writes it); a kernel names and writes every page of its context (R432). -/
def Flight.namesPages (f : Flight) (writes : Bool) (first n : Nat) : Bool :=
  f.kernel || f.writes.any (fun r => touchesPages r first n)
    || (!writes && f.reads.any fun r => touchesPages r first n)

/-- An earlier command of the context still names (or writes) the range. -/
def State.earlierNames (s : State) (f : Flight) (writes : Bool) (first n : Nat) : Bool :=
  s.flight.any fun g => g.ctx == f.ctx && decide (g.id < f.id) && g.namesPages writes first n

/-- Unmap one page: its frames, unless an image holds them, and its flash page are released (R215). -/
def State.unmapPage (s : State) (c p : Nat) : State :=
  let x := s.page c p
  let frames := (match x.st with | .hbm | .down | .up => [x.frame] | _ => []) ++ x.stepStart.toList
    ++ x.prevStart.toList ++ x.copying.toList
  let s := s.failWaits c p St.unmapped
  let s := s.setPage c p PageS.none
  let s : State := frames.foldl (fun s f => s.freeFrame c f) s
  if x.st == .flash || x.st == .up then (s.endMoveReads x.fpage).zero (physFlash x.fpage 0) pageBytes else s

/-- A tier command may complete: none while it must wait, else the state with its last changes made (R215). One whose page a
later command turns back or seals again goes on waiting for its own target (DESIGN CHOICE, log entry 106). -/
def State.tierReady (s : State) (f : Flight) (op : TierOp) (first n : Nat) : Option State :=
  let ps := (List.range n).map (· + first)
  let all := fun (t : PageSt → Bool) => ps.all fun p => t (s.page f.ctx p).st
  match op with
  | .map => some s
  | .unmap => if s.earlierNames f false first n then none else some (ps.foldl (fun s p => s.unmapPage f.ctx p) s)
  | .seal =>
    if s.earlierNames f true first n then none
    else some (ps.foldl (fun (s : State) p =>
      if (s.page f.ctx p).st == .unmapped then s else s.updPage f.ctx p fun x => { x with sealed := true }) s)
  | .unseal => if ps.all fun p => (s.page f.ctx p).st == .unmapped || ((s.page f.ctx p).st == .hbm && !(s.page f.ctx p).sealed)
    then some s else none
  | .toHbm => if all (fun t => t == .hbm || t == .unmapped) then some s else none
  | .toFlash => if all (fun t => t == .flash || t == .unmapped) then some s else none

/-! ### Page moves (R216) -/

/-- An unseal of the context that covers the page is in progress. -/
def State.unsealing (s : State) (c p : Nat) : Bool :=
  s.flight.any fun f => f.ctx == c && match f.work with
    | .tier .unseal first n => decide (first ≤ p) && decide (p < first + n)
    | _ => false

/-- The write class has a drain to serve, which goes before every migration to flash; an image that is written and waits
for a KEK has none (R222, R378, R416). -/
def State.draining (s : State) : Bool := s.images.any fun m => m.st == .draining && m.pages.any fun p => !p.drained

/-- A page reaches flash, on a working channel (R216, R221, R224). -/
def State.landDown (s : State) (c p : Nat) (x : PageS) : State :=
  match s.takeFpage with
  | none => s
  | some t =>
    let s := t.2.2.copyMem (physFrame x.frame 0) (physFlash t.1 0) pageBytes
    let s := s.setPage c p { x with st := .flash, fpage := t.1, chan := t.2.1 }
    (s.freeFrame c x.frame).nandWrite pageBytes pageBytes

/-- The move of a page completes and the map switches to the target, marks with the lines (R216). A page on its way to
flash is not written while an image drains (R222). -/
def execPageMoveDone (ctx : BitVec 6) (page : BitVec 24) (s : State) : Out :=
  let c := ctx.toNat
  let p := page.toNat
  let x := s.page c p
  match x.st with
  | .down => .next (if s.draining then s else s.landDown c p x)
  | .up =>
    let s := (s.endMoveReads x.fpage).copyMem (physFlash x.fpage 0) (physFrame x.frame 0) pageBytes
    let s := s.setPage c p { x with st := .hbm, sealed := !s.unsealing c p }
    .next (s.zero (physFlash x.fpage 0) pageBytes)
  | _ => .next s

/-! ### The flash translation layer (R225, R226) -/

/-- The channels with a scrub under way, and FTL_STATE.scrub_active with them. -/
def State.setScrubs (s : State) (l : NatSet) : State :=
  ({ s with ftl := { s.ftl with scrubs := l } }).setFld .ftlState 0 1 1 (if l.isEmpty then 0 else 1)

/-- A block of a channel is rewritten elsewhere: scrub_active while it lasts on any channel; its end counts a block and the
bytes programmed, whose number the manual leaves open (R224, R225). -/
def execReadDisturbScrub (channel : BitVec 5) (active : Bool) (s : State) : Out :=
  let k := channel.toNat
  if !inRange k s.nChan then .fault (.noSuchUnit "flash channel" k)
  else if active then .next (s.setScrubs (NatSet.ins k s.ftl.scrubs))
  else if !s.ftl.scrubs.contains k then .next s
  else
    let s := (s.setScrubs (NatSet.del s.ftl.scrubs k)).bump .ftlScrubBlocks 0 1
    let n := s.nextFree
    .next (n.2.nandWrite 0 (Config.freeNat n.1))

/-- The layer becomes read-only: drains fail, and migrations to flash end with ST_FLASH_RO, their pages still in HBM
(R226, R251), and with effect 1, whether or not a page has moved (DESIGN CHOICE, log entry 106). -/
def State.flashReadOnly (s : State) : State :=
  if s.ftl.readOnly then s
  else
    let s := { s with ftl := { s.ftl with readOnly := true } }.raise 0x0304 2 none anchorDie []
    let s := s.failDrains
    let ids := (s.flight.filter fun f => match f.work with | .tier .toFlash _ _ => true | _ => false).map fun f => f.id
    let s := { s with pages := s.pages.map fun (e : Nat × PageS) =>
      (e.1, if e.2.st == .down then { e.2 with st := .hbm } else e.2) }
    ids.foldl (fun (s : State) id => s.updFlight id fun f =>
      { f with status := St.flashRo, effect := 1, work := .plain }) s

/-- A bad block is replaced without visible effect, or ends the spare area (R226). -/
def execBadBlockDetect (channel : BitVec 5) (spareLeft : Bool) (s : State) : Out :=
  if !inRange channel.toNat s.nChan then .fault (.noSuchUnit "flash channel" channel.toNat)
  else if spareLeft then .next s
  else .next s.flashReadOnly

/-- Mark a run of lines in a rising list. -/
def markRun (lo n : Nat) (m : NatSet) : NatSet :=
  (m.filter fun l => decide (l < lo)) ++ (List.range n).map (· + lo) ++ m.filter fun l => decide (lo + n ≤ l)

/-- Poison every line of a flash page. -/
def State.poisonFpage (s : State) (fp : Nat) : State :=
  { s with poison := markRun (physFlash fp 0 / 64) 32768 s.poison }

/-- A channel is removed: the lines of every page placed on it are poisoned, and drains fail (R226, R251). -/
def State.dropChannel (s : State) (k : Nat) : State :=
  let s := s.setFld .ftlChannels 0 k k 0
  let live := (s.pages.filter fun e => e.2.chan == k && (e.2.st == .flash || e.2.st == .up)).map fun e => e.2.fpage
  let imgs := (s.images.filter fun m => m.st == .sealed).flatMap fun m =>
    ((m.pages.filter fun p => p.drained && p.chan == k).map fun p => p.fpage)
    ++ (m.extra.filter fun e => e.2 == k).map fun e => e.1
  let s : State := (live ++ imgs).foldl State.poisonFpage s
  (s.failDrains).raise 0x0305 2 none anchorDie []

/-- A channel stops responding (R226). -/
def execFlashChannelFailure (channel : BitVec 5) (s : State) : Out :=
  let k := channel.toNat
  if !inRange k s.nChan then .fault (.noSuchUnit "flash channel" k)
  else .next (if s.chanWorks k then s.dropChannel k else s)

end Sys2Proof.Machine
end

