-- ==== Sys2Proof/Machine/RegWrite.lean ====
section
/-! DEFINITION. What a write to a register does: the stored value and its effect, and when the owning chapter ignores
the write (R9, R142, R160, R218, R241, R352, R380, R392, R397, R400 and the register maps). Direct writes and the writes
that a transaction applies share `putReg`. -/

namespace Sys2Proof.Machine

open Sys2Proof

/-! ### Staging granules (R142) -/

def granuleBytes : Nat := 65536

/-- The offset of a granule of a cluster in the tier 0 window (R200). -/
def granuleOff (k g : Nat) : Nat := 33554432 * k + 25165824 + granuleBytes * g

/-- The partition of a granule under a quota value: 0 spill, 1 quantiser, 2 outlier, 3 general. -/
def granPart (q : W64) (g : Nat) : Nat :=
  let a := bits q 7 0
  let b := a + bits q 15 8
  let c := b + bits q 23 16
  if g < a then 0 else if g < b then 1 else if g < c then 2 else 3

/-- Granules of a cluster in use. -/
def ClusS.used (x : ClusS) : List Nat := x.spill ++ x.qnt ++ x.outl

/-- A staging-quota write that R142 ignores. -/
def State.stageRefused (s : State) (k : Nat) (v : W64) : Bool :=
  decide (128 < bits v 7 0 + bits v 15 8 + bits v 23 16)
  || (s.clusS k).used.any fun g => granPart v g != granPart (s.reg .splStageQuota k) g

/-- Bytes that the manual leaves undefined: free values, and the lines that they fill carry no mark (R142; DESIGN CHOICE,
log entry 54). -/
def State.freeRun (s : State) (a n : Nat) : State :=
  let k := s.freeCount
  { s with
    freeCount := k + n
    poison := s.poison.filter fun l => !(decide (a ≤ l * 64) && decide (l * 64 + 64 ≤ a + n))
    mem := (s.mem.filter fun e => decide (e.1 < a))
      ++ (((List.range n).map fun i => (a + i, Config.freeByte (k + i))).filter fun e => e.2 != memDefault e.1)
      ++ s.mem.filter fun e => decide (a + n ≤ e.1) }

/-- QNT_ERR.bad_cmd, and SPL_ERR.spill_quota for ST_SPILL_QUOTA. -/
def State.qntFlags (s : State) (u st : Nat) : State :=
  let s := if inRange u s.nQnt then s.orReg .qntErr u 1 else s
  if st == St.spillQuota then s.orReg .splErr u 1 else s

/-- A quantiser's command ends with a fault found after its acceptance; it has written nothing. -/
def State.qntFail (s : State) (u id : Nat) (e : Err) : State :=
  ((s.qntFlags u e.st).failFlight id e.st e.detail).finishLater id

/-- A quantiser's command ends with a fault of what it has read, and has no effect (R18, R170). -/
def State.qntRefuse (s : State) (u id : Nat) (e : Err) : State :=
  ((s.qntFlags u e.st).outcome id e.st e.detail 0).finishLater id

/-- The work of a quantiser's command is over; a fault that an access found shows in QNT_ERR. -/
def State.qntEnd (s : State) (u id : Nat) : State := (if s.faulted id then s.qntFlags u St.ok else s).finishLater id

/-- A conversion that has not begun and will hold an outlier granule (R146). -/
def Flight.wantsOutlier (f : Flight) : Bool :=
  !f.finished && match f.cmd with | some (.qntConvert _ p) => p.outMode != 0 | _ => false

/-- The outlier partition of a cluster is gone: the conversions that hold no granule of it and need one end with
ST_SPILL_QUOTA (R146). -/
def State.dropConverts (s : State) (u : Nat) : State :=
  (s.qntList u).foldl (fun (s : State) id =>
    if (s.flightOf id).any Flight.wantsOutlier then s.qntFail u id (Err.state St.spillQuota) else s) s

/-- Set a staging quota: granules that enter or leave general staging hold undefined contents (R142); with no outlier
partition left no conversion waits for a granule of it (R146). -/
def State.setStage (s : State) (k : Nat) (v : W64) : State :=
  if s.stageRefused k v then s.orReg .splErr k 2
  else
    let old := s.reg .splStageQuota k
    let s := ((List.range 128).filter fun g => (granPart old g == 3) != (granPart v g == 3)).foldl
      (fun (s : State) g => s.freeRun (physSram (granuleOff k g)) granuleBytes) s
    let s := s.setReg .splStageQuota k v
    if bits v 23 16 == 0 then s.dropConverts k else s

/-! ### Quotas (R218) -/

/-- A quota value that R218 ignores, judged against the other contexts' quotas as they stand. -/
def State.quotaRefused (s : State) (r : Reg) (c : Nat) (v : W64) : Bool :=
  let others := s.quotaSum r - (s.reg r c).toNat
  match r with
  | .tierQuotaHbm => decide (s.frames < others + v.toNat) || decide (v.toNat < s.hbmUse c)
  | .tierQuotaFlash => decide ((s.reg .ftlPages 0).toNat < others + v.toNat) || decide (v.toNat < s.flashUse c)
  | _ => false

def State.setQuota (s : State) (r : Reg) (c : Nat) (v : W64) : State :=
  if s.quotaRefused r c v then s.orReg .tierCtxErr c 1 else s.setReg r c v

/-! ### Rings (R392, R397) -/

/-- Once the event ring has space, EV_EVT_OVERFLOW may be sent again (R392). -/
def State.evtSpace (s : State) : State :=
  if s.evtRingFull then s else { s with evt := { s.evt with overflowSent := false } }

/-- Show every die's comparators and granularity (R400). -/
def State.regrainAll (s : State) : State := (List.range s.dies).foldl State.regrain s

/-! ### Storing a value -/

/-- CFG_RNG_STEP takes a value, under which each stream raises its events once (R190). -/
def State.setRngStep (s : State) (c : Nat) (v : W64) : State := s.setReg .cfgRngStep c v

/-- Store a register's new value with what the owning chapter says it does; a value that the chapter ignores leaves the
register as it was. -/
def State.putReg (s : State) (r : Reg) (i : Nat) (v : W64) : State :=
  match r with
  | .splStageQuota => s.setStage i v
  | .tierQuotaHbm | .tierQuotaFlash => s.setQuota r i v
  | .ngfPartId => if s.beyondAlign then s else s.setPartId v
  | .ngfFabDigest => s.setFabDigest v
  | .ngfPortCtrl => (s.setReg r i v).setEnable i (bits v 0 0 == 1)
  | .cfgRngStep => s.setRngStep i v
  | .eqxCredits => (s.setReg r i v).retryCredits i
  | .cfgStreamBase => (s.setReg r i v).updCtx i fun x => { x with streams := [] }
  | .vwmAlarmClass => s.setReg r i (s.alarmClasses v)
  | .vwmEvtCtrl | .vwmEvtBase | .vwmEvtCons => (s.setReg r i v).evtSpace
  | .lanCtrl | .lanBase | .lanCons => (s.setReg r i v).lanSpace
  | .vwmVigilCtrl => (s.setReg r i v).regrainAll
  | .vwmBootLen => if s.boot.phase == .awaitFw then s.setReg r i v else s
  | _ => s.setReg r i v

/-- A direct write of the RW fields of a register (R9), under the rules that govern direct writes only. -/
def State.directRw (s : State) (r : Reg) (i : Nat) (v : W64) : State :=
  if !s.regLive r then s
  else
    let x := s.merged r i v (BitVec.allOnes 64)
    match r with
    | .eqxCtrl | .eqxGroupBase | .eqxGroup | .eqxTimeout | .eqxCredits =>
      if (s.ctxFlights i).isEmpty then s.putReg r i x else s.orReg .eqxFlags i 128
    | .cfgRngSeed | .cfgRngStep | .cfgStreamBase =>
      if (s.ctxFlights i).isEmpty then s.putReg r i x else s.orReg .cfgRngFlags i 4
    | .almBase => if (s.ctxFlights i).isEmpty then s.putReg r i x else s
    | .eqxSyncCfg | .clkPpsCtrl => s.orReg .clkStatus 0 1024
    | .vwmAlarmClass | .vwmCheckCtrl => s.orReg .vwmAlarmStatus 0 8
    | _ => s.putReg r i x

/-! ### Clearing registers -/

/-- Zero registers, when the written value has bit b. -/
def State.clearRegs (s : State) (v : W64) (b : Nat) (rs : List (Reg × Nat)) : State :=
  if bits v b b == 1 then rs.foldl (fun (s : State) r => s.setReg r.1 r.2 0) s else s

/-- The light counters of a die. -/
def lightCounters (d : Nat) : List (Reg × Nat) :=
  [(.vwmLcEngBusy, d), (.vwmLcEltBusy, d), (.vwmLcEccCe, d), (.vwmLcEccUe, d), (.vwmLcLinkRetry, d), (.vwmLcSat, d)]

/-- What a write to the WO fields of a clear register does. -/
def State.clearBy (s : State) (r : Reg) (i : Nat) (v : W64) : State :=
  if !s.regLive r then s
  else match r with
  | .engCntClear => s.clearRegs v 0
      [(.engCntIssue, i), (.engCntBound, i), (.engCntStarve, i), (.engCntSlotwait, i), (.engCntActive, i)]
  | .accCtrl => s.clearRegs v 0 [(.accSatCount, i), (.accPromoCount, i)]
  | .splCtrl => (s.clearRegs v 1 [(.splChainWait, i)]).clearRegs v 0 [(.splExpMax, i)]
  | .qntCtrl => s.clearRegs v 0 [(.qntCntElems, i), (.qntCntReread, i)]
  | .ngfCtrl => s.clearRegs v 0 ([(.ngfEptMiss, 0), (.ngfE2eRetx, 0)] ++ (List.range s.nPorts).flatMap fun p =>
      [(Reg.ngfPortReplay, p), (.ngfPortUncorr, p), (.ngfPortDowns, p)])
  | .cfgCtrl => s.clearRegs v 0 [(.cfgLateClose, 0), (.cfgLateDrop, 0)]
  | .vwmLcCtrl => s.clearRegs v 0 (lightCounters i)
  | _ => s

/-! ### The rows of direct writes -/

/-- A direct write to instance i of a register of this part. -/
def State.directRow (s : State) (r : Reg) (i : Nat) (v : W64) : Out :=
  if !inRange i (s.winCount r.info.win) then .fault (.noSuchUnit "register" i) else .next (s.directRw r i v)

def State.clearRow (s : State) (r : Reg) (i : Nat) (v : W64) : Out :=
  if !inRange i (s.winCount r.info.win) then .fault (.noSuchUnit "register" i) else .next (s.clearBy r i v)

/-- ENG_CNT_CLEAR: writing clear zeroes the engine's five stall counters. -/
def execEngCntClear (engine : BitVec 11) (value : W32) (s : State) : Out :=
  s.clearRow .engCntClear engine.toNat (value.setWidth 64)

/-- ENG_RUNAHEAD stores a depth of 1 to 8, else 8; an engine takes it when its window is next empty (R94). -/
def execEngRunaheadWrite (engine : BitVec 11) (value : W32) (s : State) : Out :=
  s.directRow .engRunahead engine.toNat (value.setWidth 64)

/-- ACC_CTRL.clear zeroes ACC_SAT_COUNT and ACC_PROMO_COUNT. -/
def execAccCtrlClear (engine : BitVec 11) (value : W32) (s : State) : Out :=
  s.clearRow .accCtrl engine.toNat (value.setWidth 64)

/-- SPL_STAGE_QUOTA repartitions staging, or the write is ignored with quota_invalid (R142). -/
def execSplStageQuotaWrite (cluster : BitVec 7) (value : W32) (s : State) : Out :=
  s.directRow .splStageQuota cluster.toNat (value.setWidth 64)

/-- SPL_CTRL.clear_wait zeroes SPL_CHAIN_WAIT. -/
def execSplCtrlClearWait (cluster : BitVec 7) (value : W32) (s : State) : Out :=
  s.clearRow .splCtrl cluster.toNat (value.setWidth 64 &&& 2)

/-- SPL_CTRL.clear_exp zeroes SPL_EXP_MAX. -/
def execSplCtrlClearExp (cluster : BitVec 7) (value : W32) (s : State) : Out :=
  s.clearRow .splCtrl cluster.toNat (value.setWidth 64 &&& 1)

/-- QNT_CTRL.clear zeroes the quantiser's counters. -/
def execQntCtrlClear (quantiser : BitVec 7) (value : W32) (s : State) : Out :=
  s.clearRow .qntCtrl quantiser.toNat (value.setWidth 64)

/-- ALM_BASE, ignored while the context has commands in flight (R160). -/
def execAlmBaseWrite (ctx : BitVec 6) (value : W64) (s : State) : Out := s.directRow .almBase ctx.toNat value

/-- CFG_RNG_SEED, ignored with write_ignored while commands are in flight. -/
def execCfgRngSeedWrite (ctx : BitVec 6) (value : W64) (s : State) : Out := s.directRow .cfgRngSeed ctx.toNat value

/-- CFG_RNG_STEP, ignored with write_ignored while commands are in flight. -/
def execCfgRngStepWrite (ctx : BitVec 6) (value : W64) (s : State) : Out := s.directRow .cfgRngStep ctx.toNat value

/-- CFG_STREAM_BASE, ignored with write_ignored while commands are in flight. -/
def execCfgStreamBaseWrite (ctx : BitVec 6) (value : W64) (s : State) : Out :=
  s.directRow .cfgStreamBase ctx.toNat value

/-- TIER_QUOTA_HBM, or the write is ignored with quota_invalid (R218). -/
def execTierQuotaHbmWrite (ctx : BitVec 6) (value : W32) (s : State) : Out :=
  s.directRow .tierQuotaHbm ctx.toNat (value.setWidth 64)

/-- TIER_QUOTA_FLASH, or the write is ignored with quota_invalid (R218). -/
def execTierQuotaFlashWrite (ctx : BitVec 6) (value : W32) (s : State) : Out :=
  s.directRow .tierQuotaFlash ctx.toNat (value.setWidth 64)

/-- EQX_CTRL with its stored limits, ignored while commands are in flight. -/
def execEqxCtrlWrite (ctx : BitVec 6) (value : W32) (s : State) : Out :=
  s.directRow .eqxCtrl ctx.toNat (value.setWidth 64)

/-- EQX_GROUP_BASE, ignored while commands are in flight. -/
def execEqxGroupBaseWrite (ctx : BitVec 6) (value : W64) (s : State) : Out :=
  s.directRow .eqxGroupBase ctx.toNat value

/-- EQX_GROUP with its stored limits, ignored while commands are in flight. -/
def execEqxGroupWrite (ctx : BitVec 6) (value : W32) (s : State) : Out :=
  s.directRow .eqxGroup ctx.toNat (value.setWidth 64)

/-- EQX_TIMEOUT, ignored while commands are in flight. -/
def execEqxTimeoutWrite (ctx : BitVec 6) (value : W32) (s : State) : Out :=
  s.directRow .eqxTimeout ctx.toNat (value.setWidth 64)

/-- EQX_CREDITS, ignored while commands are in flight. -/
def execEqxCreditsWrite (ctx : BitVec 6) (value : W32) (s : State) : Out :=
  s.directRow .eqxCredits ctx.toNat (value.setWidth 64)

/-- A direct write to EQX_SYNC_CFG is ignored whole and sets CLK_STATUS.write_ignored (R241). -/
def execEqxSyncCfgWrite (value : W32) (s : State) : Out := s.directRow .eqxSyncCfg 0 (value.setWidth 64)

/-- A direct write to CLK_PPS_CTRL is ignored and sets CLK_STATUS.write_ignored (R352). -/
def execClkPpsCtrlWrite (value : W32) (s : State) : Out := s.directRow .clkPpsCtrl 0 (value.setWidth 64)

/-- NGF_PART_ID, ignored once a port is beyond ALIGN (R270). -/
def execNgfPartIdWrite (value : W32) (s : State) : Out := s.directRow .ngfPartId 0 (value.setWidth 64)

/-- NGF_FAB_DIGEST, sent in a control flit on every port in UP or QUARANTINE (R271). -/
def execNgfFabDigestWrite (value : W64) (s : State) : Out := s.directRow .ngfFabDigest 0 value

/-- NGF_CTX_CTRL stores 1 for the reserved code (R277). -/
def execNgfCtxCtrlWrite (ctx : BitVec 6) (value : W32) (s : State) : Out :=
  s.directRow .ngfCtxCtrl ctx.toNat (value.setWidth 64)

/-- NGF_CTRL.clear zeroes NGF_EPT_MISS, NGF_E2E_RETX and every port's counters. -/
def execNgfCtrlClear (value : W32) (s : State) : Out := s.clearRow .ngfCtrl 0 (value.setWidth 64)

/-- CFG_CTRL.clear zeroes CFG_LATE_CLOSE and CFG_LATE_DROP. -/
def execCfgCtrlClear (value : W32) (s : State) : Out := s.clearRow .cfgCtrl 0 (value.setWidth 64)

/-- GOV_CTRL stores the nearer limits of ramp_limit and throttle_pct (R357). -/
def execGovCtrlWrite (die : BitVec 3) (value : W32) (s : State) : Out :=
  s.directRow .govCtrl die.toNat (value.setWidth 64)

/-- VWM_EVT_CTRL stores the nearer limit of ring_log2 (R392). -/
def execVwmEvtCtrlWrite (value : W32) (s : State) : Out := s.directRow .vwmEvtCtrl 0 (value.setWidth 64)

/-- VWM_EVT_CONS frees the records up to an index (R392). -/
def execVwmEvtConsWrite (value : W32) (s : State) : Out := s.directRow .vwmEvtCons 0 (value.setWidth 64)

/-- VWM_VIGIL_CTRL stores nearer limits and changes the granularity of every die (R400). -/
def execVwmVigilCtrlWrite (value : W32) (s : State) : Out := s.directRow .vwmVigilCtrl 0 (value.setWidth 64)

/-- VWM_LC_CTRL.clear zeroes the die's light counters (R394). -/
def execVwmLcCtrlClear (die : BitVec 3) (value : W32) (s : State) : Out :=
  s.clearRow .vwmLcCtrl die.toNat (value.setWidth 64)

/-- LAN_CTRL stores the nearer limits of sample_log2 and ring_log2 (R396, R397). -/
def execLanCtrlWrite (value : W32) (s : State) : Out := s.directRow .lanCtrl 0 (value.setWidth 64)

/-- LAN_CONS frees the records up to an index (R397). -/
def execLanConsWrite (value : W32) (s : State) : Out := s.directRow .lanCons 0 (value.setWidth 64)

/-- A direct write to VWM_ALARM_CLASS is ignored with write_ignored (R380). -/
def execVwmAlarmClassWrite (value : W32) (s : State) : Out := s.directRow .vwmAlarmClass 0 (value.setWidth 64)

/-- A direct write to VWM_CHECK_CTRL is ignored with write_ignored (R380). -/
def execVwmCheckCtrlWrite (value : W32) (s : State) : Out := s.directRow .vwmCheckCtrl 0 (value.setWidth 64)

end Sys2Proof.Machine
end

