-- ==== Sys2Proof/Machine/Alarm.lean ====
section
/-! DEFINITION. The security alarm (R376, R377, R422, R425), the key-encryption key (R378, R379) and signed maintenance
requests (R374). -/

namespace Sys2Proof.Machine

open Sys2Proof

/-! ### Erasing keys (R377) -/

/-- A port holds a link key, or in NEGOTIATE the ephemeral from which one is agreed (R269, R377). -/
def State.holdsKey (s : State) (n : Nat) : Bool :=
  (s.port n).encrypt || ((s.port n).st == .negotiate && s.fld .ngfPortCtrl n 2 2 == 1)

/-- Link keys and ephemerals go: their ports return to TRAIN and agree a new key (R269, R377). -/
def State.eraseLinkKeys (s : State) : State :=
  (List.range s.nPorts).foldl (fun (s : State) n => if s.holdsKey n then s.toTrain n else s) s

/-- A HARVEST in progress completes with ST_NO_KEY and effect 1 (R377). -/
def State.stopHarvests (s : State) : State :=
  (s.flight.filter fun f => match f.work with | .harvest _ => !f.finished | _ => false).foldl (fun (s : State) f =>
    (s.updFlight f.id fun f => { f with status := St.noKey, detail := 0, result := 0, effect := 1 }).complete f.id) s

/-- The session and transient keys go. -/
def State.eraseSession (s : State) : State := (s.eraseLinkKeys.failDrains).stopHarvests

/-- The KEK goes (R377). -/
def State.eraseKek (s : State) : State :=
  { s with sec := { s.sec with kek := none, kekId := 0, kekState := 4, kekLoad := none } }

/-! ### Alarms (R376) -/

def sensors : Nat := 6

/-- The class of a sensor: 1 A, 2 B, 3 C. -/
def State.alarmClass (s : State) (k : Nat) : Nat := s.fld .vwmAlarmClass 0 (2 * k + 1) (2 * k)

/-- An alarm erases the result of a load in progress; a KEK that was loaded before stays, unless the class erases it (R377,
R379). -/
def State.dropKekLoad (s : State) : State :=
  if s.sec.kekLoad.isNone then s
  else { s with sec := { s.sec with kekLoad := none, kekState := if s.sec.kek.isSome then 1 else 4 } }

/-- The sensor's condition can be seen: the always-on domain runs, and the voltage sensor is armed only while PORST_N is
high (R424, R425). -/
def State.sensorWatched (s : State) (k : Nat) : Bool := inRange k sensors && s.boot.aon && (k != 0 || s.boot.porst)

/-- A sensor's alarm is logged (R376). -/
def State.logAlarm (s : State) (k : Nat) : State :=
  { s with
    hist := { s.hist with alarms := s.hist.alarms ++ [(k, s.alarmClass k, s.now)] }
    sec := { s.sec with active := NatSet.ins k s.sec.active, lastSensor := k
                        debugLocked := s.sec.debugLocked || (k == 5 && s.alarmClass k == 3) } }

/-- The action of an alarm class (R377, R379, R422). -/
def State.alarmAction (s : State) (cl : Nat) : State :=
  let s := s.orReg .vwmAlarmStatus 0 (2 ^ (cl - 1))
  let s := s.dropKekLoad
  let s := if 2 ≤ cl then
      { s.eraseSession with sec := { s.eraseSession.sec with alarmNUntil := some (s.now + 10000000) } }
    else s
  let s := if cl == 3 then s.eraseKek else s
  s.raise (0x0800 + cl) (if cl == 1 then 1 else 3) none anchorDie []

/-- The lid tamper mesh (R376). -/
def meshSensor : Nat := 3

/-- The mesh is watched from the moment the step-1 rails are within tolerance: an alarm that begins before the always-on
domain leaves its reset waits for that (R424, R425). -/
def State.noteMesh (s : State) (ks : List Nat) : State :=
  if !s.boot.aon && ks.contains meshSensor then { s with sec := { s.sec with meshDue := true } } else s

/-- Conditions of sensors begin in one management cycle: every sensor is logged, and the highest class applies
(R376). -/
def State.alarm (s : State) (ks : List Nat) : State :=
  let s := s.noteMesh ks
  let new := ks.eraseDups.filter fun k => s.sensorWatched k && !s.sec.active.contains k
  if new.isEmpty then s
  else
    let cl := (new.map s.alarmClass).foldl max 0
    (new.foldl State.logAlarm s).alarmAction cl

/-- SECURITY_ALARM: sensor conditions begin (R376, R377). -/
def execSecurityAlarm (sensors : List Nat) (s : State) : Out := .next (s.alarm sensors)

/-- A sensor whose condition has been absent for 1 ms re-arms (R376). -/
def execAlarmRearm (sensor : BitVec 3) (s : State) : Out :=
  .next { s with sec := { s.sec with active := NatSet.del s.sec.active sensor.toNat } }

/-- ALARM_N is released 10 ms after the latest Class B or C alarm (R422). -/
def execAlarmNRelease (s : State) : Out :=
  match s.sec.alarmNUntil with
  | none => .next s
  | some t =>
    if s.boot.running && decide (s.now < t) then .next s else .next { s with sec := { s.sec with alarmNUntil := none } }

/-! ### The KEK (R378, R379) -/

/-- A sensor's Class C condition persists (R379). -/
def State.classC (s : State) : Bool := s.sec.active.any fun k => s.alarmClass k == 3

/-- The KEK that a key blob unwraps to: none when its magic, its point or the unwrap check fails (R379). -/
def unwrapBlob (b : List Byte) : Option (BitVec 256) :=
  let piece := fun at' n => (b.drop at').take n
  if fieldLe b 0 4 == 0x4B454B01 then
    ((wrappingKey Config.deviceSecret (piece 0x08 97) (piece 0 8)).bind fun k =>
      Aes.unwrap (natsOf k) (natsOf (piece 0x70 40))).map fun k => BitVec.ofNat 256 (Aes.ofBe k)
  else none

/-- A load fails with state 2. -/
def State.kekFail (s : State) : State :=
  { s with sec := { s.sec with kekState := 2, kekLoad := none } }.raise 0x0805 2 none anchorDie []

/-- Start loading the KEK from the blob at VWM_KEK_ADDR (R379). -/
def State.kekStart (s : State) : State :=
  let a := (s.reg .vwmKekAddr 0).toNat
  if s.classC then { s with sec := { s.sec with kekState := 4 } }
  else if a % 64 != 0 || decide (67108864 < a + 256) then s.kekFail
  else
    let b := s.rd (physAdmin a) 256
    { s with sec := { s.sec with
        kekState := 3, kekLoad := some (s.now, unwrapBlob b, BitVec.ofNat 32 (fieldLe b 4 4)) } }

/-- VWM_KEK_CTRL.load (R379). -/
def execVwmKekLoad (s : State) : Out := if s.regLive .vwmKekCtrl then .next s.kekStart else .next s

/-- A KEK load ends within 2 ms (R379). -/
def execKekLoadDone (s : State) : Out :=
  match s.sec.kekLoad with
  | none => .next s
  | some (_, none, _) => .next s.kekFail
  | some (_, some k, n) =>
    let s := { s with sec := { s.sec with kek := some k, kekId := n, kekState := 1, kekLoad := none } }
    .next (s.raise 0x0804 0 none anchorDie [])

/-- VWM_KEK_CTRL.erase: as a Class C alarm erases the KEK, without an alarm event. -/
def execVwmKekErase (s : State) : Out := if s.regLive .vwmKekCtrl then .next s.eraseKek else .next s

/-- A write to VWM_KEK_CTRL. -/
def State.kekCtrl (s : State) (v : W64) : State :=
  let s := if bits v 0 0 == 1 then s.kekStart else s
  if bits v 1 1 == 1 then s.eraseKek else s

/-! ### Maintenance (R374) -/

/-- A permanent record is erased by a signed maintenance request: key and signature verify as those of firmware do
(R374, R377). -/
def execSignedMaintenanceRequest (kind : BitVec 4) (index : BitVec 24) (key sig : List Byte) (s : State) : Out :=
  let msg := leBytes 4 (kind.toNat * 2 ^ 28 + index.toNat)
  if s.boot.aon && s.mgmt.running && sha384 key == Config.fusedKeyHash && ecdsaVerify key (sha384 msg) sig then
    .next { s with hist := { s.hist with
      faults := s.hist.faults.filter fun r => !(r.kind == kind.toNat && r.index == index.toNat && r.permanent) } }
  else .next s

end Sys2Proof.Machine
end

