-- ==== Sys2Proof/Machine/Cap.lean ====
section
/-! DEFINITION. The capability table (R20 to R24) and its entries: R66, R84, R117, R143, R174, R196, R231, R263, R301,
R341, R366, R381, R406. -/

namespace Sys2Proof.Machine

open Sys2Proof

/-- The local address of a block's base, by its place in the list of bases (R411). -/
def State.baseAt (s : State) (i : Nat) : Nat := s.boot.bases[i]?.getD 0

/-- A 64-bit item as two words, the low one first. -/
def two (v : Nat) : List Nat := [v % 2 ^ 32, v / 2 ^ 32 % 2 ^ 32]

/-- Four bytes of a word, the highest first. -/
def quad (a b c d : Nat) : Nat := a * 2 ^ 24 + b * 2 ^ 16 + c * 2 ^ 8 + d

/-- The array frequency of a bin in kHz (R366). -/
def binKhz (b : Nat) : Nat := if b == 0 then 1500000 else if b == 1 then 1406250 else 1312500

/-- The entries, as (cap_id, words). -/
def State.capEntries (s : State) : List (Nat × List Nat) :=
  let n := s.dies
  [(0x0010, [quad 1 1 0 0 + s.nQueues, (1536 * n) * 65536 + 1536, quad 64 64 32 0, 256 * 65536 + 4096,
      8192 * 65536 + 64] ++ two (s.baseAt 10) ++ two (s.baseAt 11) ++ two (s.baseAt 12)),
   (0x0020, [0x00070FFE, 0xFF * 2, 3]),
   (0x0030, [quad 4 8 4 2, quad 5 24 8 1]),
   (0x0040, [s.nEng * 65536 + (s.nEng - s.retEng.length)] ++ two (s.baseAt 0) ++ [quad 4 8 32 8]),
   (0x0050, [1024 * 65536 + 32 * 256 + 32, quad 8 255 64 255] ++ two (s.baseAt 1) ++ two (s.baseAt 2)
      ++ two (s.baseAt 18) ++ two (s.baseAt 19)),
   (0x0060, [4096 * 65536 + 1024, 32768 * 65536 + 4 * 256 + 64, 32 * 65536 + 64 * 256 + 64] ++ two (s.baseAt 3)
      ++ two (s.baseAt 4)),
   (0x0070, [s.nElt * 65536 + 64 * 256 + 8, 16384 * 65536 + 16 * 256 + 8] ++ two (s.baseAt 5)),
   (0x0080, [quad 21 16 s.nChan 0, s.frames, (s.reg .ftlPages 0).toNat, s.boot.channels.toNat] ++ two (s.baseAt 6)
      ++ two (s.baseAt 7)),
   (0x0090, [65536, 1024 * 65536 + 16 * 256 + 255] ++ two (s.baseAt 8)),
   (0x00A0, [quad s.nPorts 8 1 1, 8192 * 65536 + 128, 65536] ++ two (s.baseAt 9)),
   (0x00B0, [binKhz (s.fld .clkStatus 0 1 0), s.fld .clkStatus 0 1 0 * 2 ^ 24 + 100 * 65536 + 1600]
      ++ two (s.baseAt 13) ++ two (s.baseAt 14)),
   (0x00C0, [16384 * 65536 + 6 * 256 + 16] ++ two (s.baseAt 15)),
   (0x00D0, [4096 * 65536 + 64 * 256 + 96, 16384 * 65536 + 19] ++ two (s.baseAt 16) ++ two (s.baseAt 17))]

def Variant.code : Variant → Nat
  | .m8 => 8 | .m4 => 4 | .m2 => 2

/-- The entry that reports the fw_version of the runtime image (R412). No rule names its place, and the entries of the
chapters have no word for it: it is one word under a cap_id beyond theirs, which is a free value (DESIGN CHOICE, log entry
103). -/
def State.fwEntry (s : State) : Nat × List Nat := (0x00D1 + Config.fwCapId.toNat % 0xFF2F, [s.boot.fwVersion.toNat])

/-- The table's words: header, then the entries in ascending cap_id (R20, R21). -/
def State.capWords (s : State) : List W32 :=
  let es := s.capEntries ++ [s.fwEntry]
  let body := es.flatMap fun e => (e.1 * 65536 + 256 + e.2.length) :: e.2
  ([0x4C560100 + s.variant.code, es.length * 65536 + (body.length + 4), (s.reg .cfgGen 0).toNat, 0] ++ body).map
    (BitVec.ofNat 32)

/-- The table is rebuilt (R24). -/
def State.rebuildCap (s : State) : State := { s with capTable := s.capWords }

end Sys2Proof.Machine
end

