-- ==== Sys2Proof/Machine/Faults.lean ====
section
/-! DEFINITION. The fault history (R373 to R375), the entry into FAILED (R410) and the faults that firmware and
Vexward report (R367, R369, R370). -/

namespace Sys2Proof.Machine

open Sys2Proof

/-! ### Fault kinds (R373) -/

namespace Kind

def lanePair : Nat := 1
def engine : Nat := 2
def elt : Nat := 3
def qnt : Nat := 4
def portLane : Nat := 5
def dieLink : Nat := 6
def hbmStack : Nat := 7
def flashChannel : Nat := 8

end Kind

/-- Records of the history store (R373). -/
def historyRecords : Nat := 16384

/-- The record of a failure of a unit that has one: permanent once two power cycles failed (R374). -/
def FaultRec.again (r : FaultRec) (pc : Nat) : FaultRec :=
  { r with permanent := r.permanent || r.lastPc != pc, failCount := min 65535 (r.failCount + 1)
           lastPc := pc, prevPc := r.lastPc }

/-- The transient record with the oldest last_pc (R375). -/
def oldestTransient (rs : List FaultRec) : Option FaultRec :=
  rs.foldl (fun o r =>
    if r.permanent then o
    else match o with
      | none => some r
      | some x => if r.lastPc < x.lastPc then some r else o) none

/-- Record a failure of a unit (R374, R375). -/
def State.recordFailure (s : State) (kind index : Nat) : State :=
  let same := fun (r : FaultRec) => r.kind == kind && r.index == index
  let new : FaultRec := ⟨kind, false, index, 1, s.hist.pc, 0⟩
  if s.hist.faults.any same then
    { s with hist := { s.hist with faults := updFirst same (fun r => r.again s.hist.pc) s.hist.faults } }
  else if s.hist.faults.length < historyRecords then
    { s with hist := { s.hist with faults := s.hist.faults ++ [new] } }
  else match oldestTransient s.hist.faults with
    | some o =>
      { s with hist := { s.hist with faults := updFirst (fun r => r == o) (fun _ => new) s.hist.faults } }
    | none => s.raise 0x0806 1 none anchorDie []

/-- A unit has a permanent record (R374). -/
def State.permanent (s : State) (kind index : Nat) : Bool :=
  s.hist.faults.any fun r => r.kind == kind && r.index == index && r.permanent

/-- A phase begins: VWM_BOOT_STAMP holds its time. -/
def State.enterPhase (s : State) (p : BootPhase) : State :=
  { (s.setReg .vwmBootStamp 0 (BitVec.ofNat 64 s.now)) with boot := { s.boot with phase := p } }

/-- Enter FAILED (R410): cause and unit shown, EV_PART_FAULT raised, and the unit recorded in the history store, under its
cause, and as a fault record where R373 has a kind for it (log entry 93). -/
def State.enterFailed (s : State) (cause unit : Nat) : State :=
  let s := if cause == 2 then s.recordFailure Kind.dieLink unit
    else if cause == 3 then s.recordFailure Kind.hbmStack unit else s
  let s := { s with hist := { s.hist with partFails := s.hist.partFails ++ [(cause, unit, s.hist.pc)] } }
  let s := s.enterPhase .failed
  { s with boot := { s.boot with cause := cause, unit := unit } }.raise 0x0807 3 none anchorDie []

/-- Everything in flight is lost, with no record (R343). -/
def State.loseWork (s : State) : State :=
  { State.dropWaits s (s.flight.map fun f => f.id) with flight := [] }

/-- An uncorrectable error in a context's firmware structures terminates the context (R367, R369). -/
def execCtxStructUe (ctx : BitVec 6) (s : State) : Out :=
  if s.boot.phase != .ready || s.boot.partFault || (s.ctx ctx.toNat).terminated then .next s
  else .next (s.terminate ctx.toNat 2)

/-- An uncorrectable error in part-wide firmware structures is a part fault (R367, R370). -/
def execPartStructUe (s : State) : Out :=
  if s.boot.phase != .ready then .next s else .next s.partFaulted

/-- The die links: ring link d as d, anchor link of die d as 8 + d (R410). -/
def State.hasLink (s : State) (l : Nat) : Bool := decide (l < s.dies) || (decide (8 ≤ l) && decide (l < 8 + s.dies))

/-- A die link that loses training after readiness is a part fault (R367). -/
def execDieLinkLoss (link : BitVec 5) (s : State) : Out :=
  if !s.hasLink link.toNat then .fault (.noSuchUnit "die link" link.toNat)
  else if s.boot.phase != .ready then .next s
  else .next s.partFaulted

/-- A command processor whose heartbeat is absent for 10 ms is a part fault (R367). -/
def execCpHeartbeatTimeout (die : BitVec 3) (s : State) : Out :=
  if !inRange die.toNat s.dies then .fault (.noSuchUnit "die" die.toNat)
  else if s.boot.phase != .ready then .next s
  else .next s.partFaulted

end Sys2Proof.Machine
end

