-- ==== Sys2Proof/Machine/Clock.lean ====
section
/-! DEFINITION. Clocks and the timebase (R342 to R352), the ramp governor (R353 to R360), ageing (R362 to R364) and the
thermal limits (R365). Currents are in 0.1 A, voltages in mV, times in ns of the timebase. -/

namespace Sys2Proof.Machine

open Sys2Proof

/-! ### The timebase and the array clocks -/

/-- The edges of the /4 grid that a bin removes, by number within the groups of 16 (R344). -/
def binRemoves (bin n : Nat) : Bool :=
  (bin == 1 && n % 16 == 15) || (bin == 2 && (n % 16 == 7 || n % 16 == 15))

/-- One grid edge in a cluster that droops or is gated, and what it adds to CLK_LEAP and CLK_GATED (R348 to R350). -/
def ClusClk.edge (c : ClusClk) (removed : Bool) : ClusClk × Nat × Nat :=
  if removed then ({ c with skip := false }, 0, 0)
  else if c.gated then ({ c with skip := false, lost := c.lost + 1 }, 0, 1)
  else if c.skip then ({ c with skip := false, lost := c.lost + 1 }, 0, 0)
  else if c.droop then ({ c with skip := true }, 1, 0)
  else (c, 0, 0)

def State.clusClk (s : State) (k : Nat) : ClusClk := Map.get (fun _ => ClusClk.none) s.clk.clus k
def State.setClusClk (s : State) (k : Nat) (c : ClusClk) : State :=
  { s with clk := { s.clk with clus := Map.set (fun _ => ClusClk.none) s.clk.clus k c } }

/-- Grid edge number n, in every cluster (R344, R348, R350). -/
def State.gridEdge (s : State) (n : Nat) : State :=
  let removed := binRemoves (s.fld .clkStatus 0 1 0) n
  let s := s.clk.clus.foldl (fun (s : State) e =>
    let r := e.2.edge removed
    ((s.setClusClk e.1 r.1).bump .clkLeap e.1 r.2.1).bump .clkGated e.1 r.2.2) s
  if removed then s else { s with clk := { s.clk with delivered := s.clk.delivered + 1 } }

/-- The PLL locks in phase ROM, and the domains start from the root (R342, R424). -/
def execPllLock (s : State) : Out :=
  if s.boot.phase != .rom || s.boot.pllLocked then .next s
  else .next { s with boot := { s.boot with pllLocked := true, running := true } }

/-- No lock within 200 µs: FAILED with cause 0x4 (R410). -/
def execPllLockTimeout (s : State) : Out :=
  if s.boot.phase != .rom || s.boot.pllLocked then .next s else .next (s.enterFailed 4 0)

/-- The reference or the lock is lost: every domain but management stops, work in flight is lost, and the part enters
FAILED with cause 0x4 (R343, R410). The reference is watched from the release of PORST_N on, so one that stops before the
PLL has locked is lost too. -/
def execRefclkLoss (s : State) : Out :=
  if s.boot.phase == .off then .next s
  else
    let s := (s.orReg .clkStatus 0 768).raise 0x0701 3 none anchorDie []
    let s := { s.loseWork with boot := { s.boot with running := false, pllLocked := false } }
    .next (if s.boot.phase == .failed then s else s.enterFailed 4 0)

/-- A droop begins: cycles of the cluster stretch from the next one on (R348). -/
def execDroopStart (cluster : BitVec 7) (s : State) : Out :=
  let k := cluster.toNat
  if !inRange k s.nClus then .fault (.noSuchUnit "cluster" k)
  else .next (s.setClusClk k { s.clusClk k with droop := true })

/-- A droop ends: stretching ends with the next cycle (R348). -/
def execDroopEnd (cluster : BitVec 7) (s : State) : Out :=
  let k := cluster.toNat
  if !inRange k s.nClus then .fault (.noSuchUnit "cluster" k)
  else .next (s.setClusClk k { s.clusClk k with droop := false })

/-! ### Units and their work -/

/-- A unit of an engine holds a command, works on a tile that was abandoned, or drains. -/
def UnitS.busy (u : UnitS) : Bool :=
  !u.window.isEmpty || !u.issues.isEmpty || !u.promos.isEmpty || !u.spillAdds.isEmpty || !u.drains.isEmpty
  || u.tiles.any fun t => t.abandoned

/-- An engine holds a command or work of one. -/
def EngS.busy (e : EngS) : Bool := !e.inbox.isEmpty || e.units.any fun u => u.2.busy

/-- A tile of a unit still lacks outlier terms of its preload (R122). -/
def UnitS.termsDue (u : UnitS) : Bool :=
  u.tiles.any fun t =>
    let x := Map.get (fun _ => SlotS.none) u.slots t.slot
    t.placed && !t.isOver && x.tile == some t.id && x.st == .fill
    && t.pre.any fun d => d.outlier && (List.range t.m).any fun r => !x.outliers.any fun o => o.1 == r

/-- Outlier terms of a cluster's preloads are still to be computed (R122). -/
def State.termsDue (s : State) (k : Nat) : Bool := s.engs.any fun e => e.1 / 16 == k && e.2.units.any fun u => u.2.termsDue

/-- The element engine of a cluster that computes outlier terms: the first that works (DESIGN CHOICE, log entry 82). -/
def State.termElt (s : State) (k : Nat) : Nat := if s.retElt.contains (2 * k) then 2 * k + 1 else 2 * k

/-- A unit has work (R354, R355). -/
def State.unitBusy (s : State) (d : Nat) : GovUnit → Bool
  | .engine i => (s.eng (256 * d + i)).busy
  | .elt i => !(s.eltList (32 * d + i)).isEmpty || (s.termElt (16 * d + i / 2) == 32 * d + i && s.termsDue (16 * d + i / 2))
  | .qnt i => !(s.qntList (16 * d + i)).isEmpty
  | .coll => s.colls.any fun x => x.die == d && (!x.done || s.flight.any fun f => f.id == x.flight)

/-- The array cycles since a unit last had work. -/
def State.idleCycles (s : State) (d : Nat) (u : GovUnit) : Nat :=
  s.unitCycles d u - Map.get (fun _ => 0) (s.govOf d).busyAt (govRank u)

/-- The units of a cluster, by die. -/
def clusterUnits (k : Nat) : List GovUnit :=
  ((List.range 16).map fun i => GovUnit.engine (16 * (k % 16) + i))
  ++ [.elt (2 * (k % 16)), .elt (2 * (k % 16) + 1), .qnt (k % 16)]

/-- A cluster whose units are idle for 64 array cycles and hold no grant gates its clock (R350). -/
def execClockGate (cluster : BitVec 7) (s : State) : Out :=
  let k := cluster.toNat
  let d := dieOfClus k
  if !inRange k s.nClus then .fault (.noSuchUnit "cluster" k)
  else if !s.boot.running || (clusterUnits k).any (fun u => s.unitBusy d u || s.grantedTo d u)
      || decide (s.clusCycles k < (s.clusClk k).lastBusy + 64) then .next s
  else .next (s.setClusClk k { s.clusClk k with gated := true })

/-- A rising edge on EQX_SYNC with pps_en captures the timebase and counts (R352). -/
def execPpsEdge (s : State) : Out :=
  if s.fld .clkPpsCtrl 0 0 0 == 1 && s.boot.running then
    .next ((s.setReg .clkPpsCapture 0 (BitVec.ofNat 64 s.now)).bump .clkPpsCount 0 1)
  else .next s

/-! ### The ramp governor -/

/-- The weight of a unit (R353). -/
def govWeight : GovUnit → Nat
  | .engine _ => 16
  | .elt _ => 8
  | .qnt _ => 6
  | .coll => 40

def uncoreFull : Nat := 710

/-- The admitted current (R353). -/
def GovS.admitted (g : GovS) : Nat := 400 + g.uncore + (g.granted.map govWeight).sum

/-- Grant from the front of the queue while the step and the cap allow (R354). -/
def grantWave : Nat → Nat → Nat → List GovUnit → List GovUnit → Nat × List GovUnit × List GovUnit
  | 0, step, _, w, g => (step, w, g)
  | fuel + 1, step, room, w, g =>
    match w with
    | [] => (step, [], g)
    | u :: t =>
      if decide (govWeight u ≤ step) && decide (govWeight u ≤ room) then
        grantWave fuel (step - govWeight u) (room - govWeight u) t (g ++ [u])
      else (step, w, g)

/-- Release from the front of a list while the step allows and `need` is not yet met. -/
def releaseWave : List GovUnit → Nat → Nat → List GovUnit
  | [], _, _ => []
  | u :: t, step, need =>
    if need == 0 then [] else if govWeight u ≤ step then u :: releaseWave t (step - govWeight u) (need - govWeight u) else []

/-- Release units of a list, in its order, while `need` is not yet met, passing over those heavier than what is left of the
step: a throttle releases at the step rate until the current is within the cap (R354, R365; DEDUCED, log entry 29). -/
def releaseFit : List GovUnit → Nat → Nat → List GovUnit
  | [], _, _ => []
  | u :: t, step, need =>
    if need == 0 then []
    else if govWeight u ≤ step then u :: releaseFit t (step - govWeight u) (need - govWeight u)
    else releaseFit t step need

/-- Take grants away: a unit with work waits for a grant again, and asks no more (R355, R356, R358). -/
def State.ungrant (s : State) (d : Nat) (us : List GovUnit) : State :=
  let g := s.govOf d
  s.setGov d { g with
    granted := g.granted.filter fun u => !us.contains u
    asking := g.asking.filter fun u => !us.contains u
    fresh := (us.filter fun u => s.unitBusy d u && !g.asking.contains u).foldl (fun l u => insRank u l) g.fresh }

/-- The shutdown level holds on a die, until a reset (R365). -/
def State.shut (s : State) : Bool := s.therm.any fun e => e.2 == .shutdown

/-- What stops grants (R358, R359, R365, R422); during a warm reset's brake too (R408). -/
def State.grantsHeld (s : State) (d : Nat) : Bool :=
  s.brakeN || s.boot.warming || (s.govOf d).emergUntil.isSome || s.therm.any fun e => e.2 == .trip

/-- The throttle cap of a die (R365); none while it is not throttled. -/
def State.throttleCap (s : State) (d : Nat) : Option Nat :=
  if s.thermOf d == .throttle then some (5600 * s.fld .govCtrl d 15 8 / 100) else none

/-- The ticks that the release of a list takes under a step, `room` being left of the present one. -/
def releaseTicks (step : Nat) : List GovUnit → Nat → Nat
  | [], _ => 0
  | u :: t, room =>
    if govWeight u ≤ room then releaseTicks step t (room - govWeight u) else releaseTicks step t (step - govWeight u) + 1

/-- A tick of a soft brake: units leave in the reverse order of their grants, down to a line that falls from the current at the
start to the idle and uncore terms in 200 ticks (R358), and within the step of the ramp limit, which only an emergency release
exceeds (R354, R359). A tick goes ahead of the line where the rest could not else leave in time; where the step makes 200 ticks
too few the brake goes on to the floor, and a unit that alone exceeds the step leaves alone (DESIGN CHOICE, log entry 29). -/
def State.brakeTick (s : State) (d : Nat) (b : Brake) : State :=
  let g := s.govOf d
  let step := s.fld .govCtrl d 7 0
  let k := b.ticks + 1
  -- the current above which this tick still releases, times 200
  let line := 200 * b.a0 - min k 200 * (b.a0 - (400 + uncoreFull))
  let us := g.granted.reverse
  let cap := max step ((us.head?.map govWeight).getD 0)
  let wave := releaseWave us cap (ceilDiv (200 * g.admitted - line) 200)
  let wave := if releaseTicks step (us.drop wave.length) 0 ≤ 200 - k then wave
    else releaseWave us cap (us.map govWeight).sum
  let s := s.ungrant d wave
  let g := s.govOf d
  s.setGov d { g with brake := if decide (k < 200) || !g.granted.isEmpty then some { b with ticks := k } else none }

/-- A tick of grants and releases (R354, R355, R360, R365). A unit that takes its grant counts its idle cycles from here
(R355). -/
def State.rampTick (s : State) (d step : Nat) : State :=
  let g := s.govOf d
  let held := s.grantsHeld d
  let u := if held then 0 else min step (uncoreFull - g.uncore)
  let g := { g with uncore := g.uncore + u }
  let step := step - u
  let cap := s.throttleCap d
  let room := match cap with | some c => c - g.admitted | none => step
  let w := if held || decide (g.uncore < uncoreFull) then (step, g.waiting, g.granted)
    else grantWave g.waiting.length step room g.waiting g.granted
  let new := w.2.2.drop g.granted.length
  let s := s.setGov d { g with waiting := w.2.1, granted := w.2.2 }
  let s := new.foldl (fun (s : State) u => s.touchUnit d u) s
  let g := s.govOf d
  match cap with
  | some c =>
    if c < g.admitted then s.ungrant d (releaseFit g.granted.reverse w.1 (g.admitted - c))
    else s.ungrant d (releaseWave g.asking w.1 (g.asking.map govWeight).sum)
  | none => s.ungrant d (releaseWave g.asking w.1 (g.asking.map govWeight).sum)

/-- The requests that have arrived since the latest tick join the queue behind the earlier ones (R354). -/
def GovS.gather (g : GovS) (now : Nat) : GovS := { g with waiting := g.waiting ++ g.fresh, fresh := [], lastTick := now }

/-- A tick of a die's governor (R354): an emergency release first, then a soft brake, else grants and releases; the units
that wait and that coast are counted (R356). -/
def State.govTick (s : State) (d : Nat) : State :=
  let s := s.setGov d ((s.govOf d).gather s.now)
  let g := s.govOf d
  let step := s.fld .govCtrl d 7 0
  let s :=
    if g.emergDue then
      let s := s.ungrant d g.granted
      s.setGov d { s.govOf d with emergDue := false, brake := none, emergUntil := some (s.now + 10000) }
    else match g.brake with
      | some b => s.brakeTick d b
      | none => s.rampTick d step
  let g := s.govOf d
  (s.bump .govWait d (g.waiting.length + g.fresh.length)).bump .govCoast d g.asking.length

/-- A tick falls due: 100 timebase cycles after the one before (R354). -/
def State.tickDue (s : State) (d : Nat) : Bool := s.boot.running && !s.shut && decide ((s.govOf d).lastTick + 100 ≤ s.now)

/-- A granted unit that has been idle for 64 array cycles asks for release and coasts (R355). -/
def execUnitReleaseRequest (die : BitVec 3) (unit : GovUnit) (s : State) : Out :=
  let d := die.toNat
  let ok := match unit with
    | .engine i => decide (i < 256)
    | .elt i => decide (i < 32)
    | .qnt i => decide (i < 16)
    | .coll => true
  if !inRange d s.dies || !ok then .fault (.noSuchUnit "unit" d)
  else
    let g := s.govOf d
    if !s.grantedTo d unit || g.asking.contains unit || s.unitBusy d unit || decide (s.idleCycles d unit < 64) then .next s
    else .next (s.setGov d { g with asking := g.asking ++ [unit] })

/-- Core current above 720 A for 200 ns: every grant of the die goes in the next tick (R359). -/
def execOvercurrent (die : BitVec 3) (s : State) : Out :=
  let d := die.toNat
  if !inRange d s.dies then .fault (.noSuchUnit "die" d)
  else if !s.boot.running then .next s
  else
    let s := s.setGov d { s.govOf d with emergDue := true }
    .next (((s.bump .govEmerg d 1).orReg .govErr d 1).raise 0x0702 2 none d [])

/-- 10 µs after an emergency release the governor grants again (R359). -/
def execEmergencyRegrant (die : BitVec 3) (s : State) : Out :=
  let d := die.toNat
  if !inRange d s.dies then .fault (.noSuchUnit "die" d)
  else match (s.govOf d).emergUntil with
    | some t => if s.now < t then .next s else .next (s.setGov d { s.govOf d with emergUntil := none })
    | none => .next s

/-- A soft brake starts on a die; one in progress goes on (R358, R422). -/
def State.softBrake (s : State) (d : Nat) : State :=
  let g := s.govOf d
  if g.brake.isSome || s.shut then s
  else (s.setGov d { g with brake := some ⟨g.admitted, 0⟩ }).bump .govBrakes d 1

def State.softBrakeAll (s : State) : State := (List.range s.dies).foldl State.softBrake s

/-- BRAKE_N low for 1 µs requests a soft brake and holds off grants; to the soft brake of a warm reset it adds nothing
(R422). -/
def execBrakeNAssert (s : State) : Out :=
  let s := { s with brakeN := true }
  .next (if s.boot.running && !s.boot.warming then s.softBrakeAll else s)

/-- BRAKE_N returns high: the governor resumes granting (R422). -/
def execBrakeNRelease (s : State) : Out := .next { s with brakeN := false }

/-! ### Ageing -/

def nominalMv : Nat := 650
def maxSetpointMv : Nat := 700
def minSlackPs : Nat := 15

/-- The guard band of a die: its fused value until raised (R363). -/
def State.guardMv (s : State) (d : Nat) : Nat := (s.ageOf d).guardMv.getD (Config.fusedGuardMv d)

/-- The setpoint of a die's regulator, which starts at 650 mV (R420). -/
def State.setpoint (s : State) (d : Nat) : Nat := (s.ageOf d).setMv.getD nominalMv

/-- GOV_VSET shows the guard band, the setpoint and exhaustion (R363, R364). -/
def State.showVset (s : State) (d : Nat) : State :=
  let g := s.guardMv d
  s.setReg .govVset d (BitVec.ofNat 64
    ((if (s.ageOf d).exhausted then 2147483648 else 0) + g % 256 * 65536 + s.setpoint d % 65536))

/-- The regulator bus addresses of VDD_CORE_Dd and VDD_CORE_A (R420). -/
def regulatorAddr (d : Nat) : Nat := 0x40 + d
def anchorRegulator : Nat := 0x48

/-- VOUT_COMMAND of PMBus 1.4 (PRESUMED, log entry 83: R420 names the command, PMBus numbers it). -/
def voutCommand : Nat := 0x21

/-- A setpoint write to a die's regulator (R420). -/
def State.writeSetpoint (s : State) (d mv : Nat) : State :=
  { s with out := { s.out with setpoints := s.out.setpoints ++ [(regulatorAddr d, voutCommand, mv)] } }

/-- Keep a die's ageing record, in the history store too (R363, R384). -/
def State.keepAge (s : State) (d : Nat) (a : AgeS) : State :=
  let s := s.setAge d a
  { s with hist := { s.hist with
      ages := Map.set (fun _ => AgeS.none) s.hist.ages d { a with measuring := none, due := 0, setMv := none } } }

/-- The guard band of a die is exhausted (R364). -/
def State.exhaust (s : State) (d : Nat) : State :=
  if (s.ageOf d).exhausted then s
  else
    let s := (s.keepAge d { s.ageOf d with exhausted := true }).showVset d
    (s.orReg .govErr d 8).raise 0x0703 1 none d []

def sixHours : Nat := 21600000000000
def tenMinutes : Nat := 600000000000

/-- A measurement that is due starts, once no throttle holds or after 10 minutes; that of start-up is BRINGUP_DONE's (R362;
log entry 34). -/
def execAgeingMeasure (die : BitVec 3) (s : State) : Out :=
  let d := die.toNat
  if !inRange d s.dies then .fault (.noSuchUnit "die" d)
  else
    let a := s.ageOf d
    if !s.boot.running || s.boot.phase != .ready || a.measuring.isSome
        || decide (s.now < a.due)
        || (s.thermOf d == .throttle && decide (s.now < a.due + tenMinutes)) then .next s
    else .next (s.setAge d { a with measuring := some s.now })

/-- A measurement's figures: GOV_AGE and GOV_AGE_TIME. -/
def State.noteSlack (s : State) (d slack : Nat) : State :=
  let n := min 65535 (Map.get (fun _ => 0) s.hist.measurements d + 1)
  let s := { s with hist := { s.hist with measurements := Map.set (fun _ => 0) s.hist.measurements d n } }
  (s.setReg .govAge d (BitVec.ofNat 64 (n * 65536 + slack))).setReg .govAgeTime d (BitVec.ofNat 64 s.now)

/-- The measurements of a die are over for 6 hours (R362). -/
def State.ageDone (s : State) (d : Nat) : State := s.setAge d { s.ageOf d with measuring := none, due := s.now + sixHours }

/-- A measurement found `slack`: at 15 ps or more the die is done; else its guard band rises by 5 mV and the die is
measured again; at 700 mV, or when its regulator does not acknowledge the setpoint, it is exhausted (R363, R364, R420), and an
exhausted die is raised no more. -/
def State.judgeSlack (s : State) (d slack : Nat) (vrAck : Bool) : State :=
  let s := s.noteSlack d slack
  if minSlackPs ≤ slack then s.ageDone d
  else if (s.ageOf d).exhausted || decide (maxSetpointMv ≤ nominalMv + s.guardMv d) then (s.exhaust d).ageDone d
  else
    let g := min (maxSetpointMv - nominalMv) (s.guardMv d + 5)
    let s := s.writeSetpoint d (nominalMv + g)
    if !vrAck then (s.exhaust d).ageDone d
    else
      let s := s.keepAge d { s.ageOf d with guardMv := some g, setMv := some (nominalMv + g) }
      (s.setAge d { s.ageOf d with measuring := some s.now }).showVset d

/-- A measurement of 2 ms ends (R362 to R364). -/
def execAgeingMeasureDone (die : BitVec 3) (slackPs : BitVec 16) (vrAck : Bool) (s : State) : Out :=
  let d := die.toNat
  if !inRange d s.dies then .fault (.noSuchUnit "die" d)
  else match (s.ageOf d).measuring with
  | none => .next s
  | some t => if s.now < t + 2000000 then .next s else .next (s.judgeSlack d slackPs.toNat vrAck)

/-- The ageing step of start-up (R362 to R364, R420): firmware writes the setpoint of the die's guard band to its regulator
and measures; `slack` is what the first measurement finds, and further ones follow while the guard band rises. A die that
was measured in this start-up already is not measured again. `vrAck`, `raiseAck`: the regulator acknowledges this write, and the
one that raises the setpoint. -/
def State.startAge (s : State) (d slack : Nat) (vrAck raiseAck : Bool) : State :=
  let a := s.ageOf d
  if a.due != 0 || a.measuring.isSome then s
  else
    let v := nominalMv + s.guardMv d
    let s := s.writeSetpoint d v
    let s := if vrAck then (s.setAge d { a with setMv := some v }).judgeSlack d slack raiseAck
      else ((s.exhaust d).noteSlack d slack).ageDone d
    s.showVset d

/-- Ageing measurements of start-up are still going on. -/
def State.ageing (s : State) : Bool := (List.range s.dies).any fun d => (s.ageOf d).measuring.isSome

/-- The bin of the next run, chosen at a reset: one lower after an exhausted guard band, whose part starts over with
fused guard bands; a part at bin 2 stays there (R364). A regulator holds the setpoint that it had (R420). -/
def State.chooseBin (s : State) : State :=
  let exhausted := (List.range s.dies).any fun d => (Map.get (fun _ => AgeS.none) s.hist.ages d).exhausted
  let s :=
    if exhausted && decide (s.hist.bin < 2) then
      { s with hist := { s.hist with bin := s.hist.bin + 1, ages := [] } }.raise 0x0704 1 none anchorDie []
    else if exhausted then s.raise 0x0705 2 none anchorDie []
    else s
  let s := { s with ages := (List.range s.dies).foldl (fun (m : Map AgeS) d =>
    Map.set (fun _ => AgeS.none) m d { Map.get (fun _ => AgeS.none) s.hist.ages d with setMv := (s.ageOf d).setMv }) [] }
  s.setFld .clkStatus 0 1 0 s.hist.bin

/-! ### Thermal limits

Temperatures are in 0.25 °C (R385). -/

/-- The level after a sample (R365). -/
def Therm.next (l : Therm) (t : Nat) : Therm :=
  if l == .shutdown || decide (4 * 115 ≤ t) then .shutdown
  else if 4 * 105 ≤ t then .trip
  else if l == .trip then (if t < 4 * 90 then .normal else .trip)
  else if 4 * 95 ≤ t then .throttle
  else if t < 4 * 90 then .normal
  else l

/-- Shutdown (R365, R422): THERMTRIP_N is driven low, every grant goes at once and every domain but management stops. -/
def State.thermShutdown (s : State) : State :=
  { s with
    thermtrip := true
    gov := s.gov.map fun (e : Nat × GovS) => (e.1, { e.2 with granted := [], asking := [], brake := none })
    boot := { s.boot with running := false } }

/-- The anchor die's number among the thermal levels: its 8 sensors drive a level too, without a governor of its own
(R353, R365). -/
def anchorTherm : Nat := 8

/-- What a new level does (R365): `d` is a Trinaosh die, or the anchor die, which has no GOV window. -/
def State.enterLevel (s : State) (d : Nat) (l : Therm) : State :=
  let flag := fun (s : State) (b : Nat) => if d == anchorTherm then s else s.orReg .govErr d b
  let origin := if d == anchorTherm then anchorDie else d
  match l with
  | .normal => s
  | .throttle => (flag s 2).raise 0x0706 1 none origin []
  | .trip => ((flag s 4).softBrakeAll).raise 0x0707 2 none origin []
  | .shutdown => s.thermShutdown.raise 0x0708 3 none origin []

/-- The hottest sensor of a die moves its level (R365). -/
def State.dieTemp (s : State) (d t : Nat) : State :=
  let l := (s.thermOf d).next t
  let s := if d == anchorTherm then s else s.setFld .govStatus d 23 16 (min 255 (t / 4))
  if s.thermOf d == l then s
  else { s with therm := Map.set (fun _ => .normal) s.therm d l }.enterLevel d l

/-- The dies with sensors, each with the first of them and their number (R365). -/
def State.sensorDies (s : State) : List (Nat × Nat × Nat) :=
  ((List.range s.dies).map fun d => (d, 11 * d, 11)) ++ [(anchorTherm, 88, 8)]

/-- A sample of the 96 sensors (R365, R385). The always-on domain reads them with PORST_N low too, when no level moves, for
the dies are in reset (R424). -/
def execThermalSample (temps : List Nat) (s : State) : Out :=
  if !s.boot.aon then .next s
  else
    let s := { s with temps := temps }
    if s.boot.phase == .off then .next s
    else .next (s.sensorDies.foldl (fun s x => s.dieTemp x.1 (((temps.drop x.2.1).take x.2.2).foldl max 0)) s)

end Sys2Proof.Machine
end

