-- ==== Sys2Proof/Machine/Boot.lean ====
section
/-! DEFINITION. Resets, start-up and the boot page (R407 to R415, R422 to R426). -/

namespace Sys2Proof.Machine

open Sys2Proof

/-! ### Resets (R407, R408, R422) -/

/-- Memory that a reset keeps: flash (R407). -/
def inFlash (a : Nat) : Bool := decide (2 * memStride ≤ a) && decide (a < 3 * memStride)

/-- Registers that a reset keeps: the event sequence number and the flags of the alarm logic, which is always on, and in a
warm reset the alarm classes, which stay locked until power-on (R380, R391, R424). -/
def State.keptRegs (s : State) (powerOn : Bool) : Map W64 :=
  s.regs.filter fun e => e.1 == Reg.vwmEvtSeq.key 0 || e.1 == Reg.vwmAlarmStatus.key 0
    || (!powerOn && e.1 == Reg.vwmAlarmClass.key 0)

/-- What a reset keeps of start-up: the pins and the always-on domain; in a warm reset the failed verifications of this
power cycle (R413) and the units that failed its self-tests (R374). -/
def BootS.afterReset (b : BootS) (powerOn : Bool) : BootS :=
  { State.reset.boot with
    porst := b.porst, perst := b.perst, aon := b.aon
    fwFails := if powerOn then 0 else b.fwFails
    sigAlarm := !powerOn && b.sigAlarm
    failed := if powerOn then [] else b.failed }

/-- What a reset keeps of the alarm logic, which is always on, an alarm of the mesh that waits for it among it; the KEK goes
(R407, R422, R424, R425). -/
def SecS.afterReset (x : SecS) (powerOn : Bool) (now : Nat) : SecS :=
  { State.reset.sec with
    active := x.active
    alarmNUntil := if powerOn then x.alarmNUntil.map (fun t => t - now) else x.alarmNUntil
    debugLocked := !powerOn && x.debugLocked
    lastSensor := x.lastSensor, meshDue := x.meshDue }

/-- What a warm reset keeps of ageing: the setpoints that the regulators hold (R420). -/
def AgeS.afterReset (a : AgeS) : AgeS := { AgeS.none with setMv := a.setMv }

/-- A reset: drains lose their keys and fail (R251, R377); everything but flash, images, the history store and the
always-on domain starts over (R407, R408, R422). Work in flight is lost, with no record. -/
def State.resetCore (s : State) (powerOn : Bool) : State :=
  let s := s.failDrains
  let last := if powerOn then none else s.vigil.lastAuto
  let vigil := { State.reset.vigil with graphs := s.vigil.graphs, ids := s.vigil.ids, lastAuto := last, record := s.vigil.record }
  let mgmt := { s.mgmt with restart := if powerOn then s.mgmt.restart.map (fun _ => 0) else s.mgmt.restart }
  { State.reset with
    pending := s.pending
    variant := s.variant
    freeCount := s.freeCount
    regs := s.keptRegs powerOn
    mem := s.mem.filter fun e => inFlash e.1
    poison := s.poison.filter fun l => inFlash (l * 64)
    boot := s.boot.afterReset powerOn
    clk := { State.reset.clk with timebase := if powerOn then 0 else s.clk.timebase }
    temps := s.temps
    ages := if powerOn then [] else
      (s.ages.map fun (e : Nat × AgeS) => (e.1, e.2.afterReset)).filter fun (e : Nat × AgeS) => e.2 != AgeS.none
    thermtrip := !powerOn && s.thermtrip
    brakeN := s.brakeN
    smbAddr := s.smbAddr
    sec := s.sec.afterReset powerOn s.now
    hist := s.hist
    evt := { s.evt with overflowSent := false, msixLast := none, msixDue := false }
    mgmt := mgmt
    out := s.out
    nextId := s.nextId
    nextFrame := s.nextFrame
    nextFpage := s.nextFpage
    images := s.images
    vigil := vigil }

/-- PORST_N low: every domain but the always-on one is held in power-on reset (R422). -/
def execPorstNAssert (s : State) : Out :=
  if !s.boot.porst then .next s
  else
    let t := s.resetCore true
    .next { t with boot := { t.boot with porst := false, phase := .off } }

/-- PORST_N released: the power-cycle count advances, and phase ROM begins (R384, R407, R409). -/
def execPorstNDeassert (s : State) : Out :=
  if s.boot.porst then .next s
  else
    let t := { s with
      boot := { s.boot with porst := true }
      hist := { s.hist with pc := (s.hist.pc + 1) % 4294967296 } }
    .next (t.enterPhase .rom)

/-- The domains restart at phase ROM (R408). -/
def State.restart (s : State) : State := (s.resetCore false).enterPhase .rom

/-- A die holds a grant, or a soft brake goes on. -/
def State.anyGrant (s : State) : Bool := s.gov.any fun e => !e.2.granted.isEmpty || e.2.brake.isSome

/-- A warm reset (R407, R408): the soft brake first, whose ticks run before the domains stop; with no grant to release there
is none to wait for. Nothing restarts while PORST_N is low. -/
def State.warm (s : State) : State :=
  if !s.boot.porst || s.boot.phase == .off then s
  else if s.boot.running && s.anyGrant then
    { s.softBrakeAll with boot := { s.softBrakeAll.boot with warming := true } }
  else s.restart

/-- WARM_RESET: PERST_N asserted, held or not, or a PCIe hot reset (R407). -/
def execWarmReset (source : WarmSource) (s : State) : Out :=
  match source with
  | .perst held => .next ({ s with boot := { s.boot with perst := !held } }.warm)
  | .hotReset => .next s.warm

/-- PERST_N released: a boot ROM that waits for it trains the PCIe link, whose end ROM_COMPLETE is (R426). -/
def execPerstNRelease (s : State) : Out := .next { s with boot := { s.boot with perst := true } }

/-- VWM_BOOT_CTRL.warm_reset (R408). -/
def execVwmBootWarmReset (s : State) : Out := .next s.warm

/-! ### Units that are bypassed (R374) -/

/-- The units with a permanent record of a kind. -/
def State.permanents (s : State) (kind : Nat) : List Nat :=
  (s.hist.faults.filter fun r => r.kind == kind && r.permanent).map fun r => r.index

/-- The units of a kind that are bypassed: permanent ones, and those that failed a self-test in this power cycle. -/
def State.bypassed (s : State) (kind : Nat) : List Nat :=
  ((s.boot.failed.filter fun f => f.1 == kind).map fun f => f.2) ++ s.permanents kind

/-! ### Phases ROM to VERIFY (R409 to R413) -/

/-- The bad die link that the part enters FAILED for: the one that fails to train, else the lowest that the history store holds
as permanently bad, the ring's before the anchor's. Where more than one is bad, VWM_BOOT_STATUS.unit shows this one and the
history store records it alone (R34, R410; DESIGN CHOICE, log entry 94). -/
def State.badLink (s : State) (l : Option Nat) : Option Nat :=
  match l with
  | some l => some l
  | none => (List.range 16).find? fun l => s.hasLink l && s.permanent Kind.dieLink l

/-- The boot ROM ends its work once the PLL has locked: the bin is chosen; a bad die link enters FAILED with cause 0x2, else
the PCIe link trains and the part awaits its firmware (R364, R409, R410). With PERST_N low the PCIe link alone waits, and the
row that ends its training comes after the release (R426). -/
def execRomComplete (badLink : Option (BitVec 5)) (s : State) : Out :=
  let l := badLink.map fun l => l.toNat
  if l.any fun l => !s.hasLink l then .fault (.noSuchUnit "die link" (l.getD 0))
  else if s.boot.phase != .rom || !s.boot.pllLocked || (s.boot.romDone && !s.boot.perst) then .next s
  else
    let s := if s.boot.romDone then s else s.chooseBin
    match s.badLink l with
    | some l => .next (s.enterFailed 2 l)
    | none => .next (if s.boot.perst then s.enterPhase .awaitFw else { s with boot := { s.boot with romDone := true } })

def bufferBytes : Nat := 16777216

/-- A host write into BAR4, ignored outside AWAIT_FW (R411). -/
def execImageBufferWrite (offset : BitVec 24) (bytes : List Byte) (s : State) : Out :=
  if s.boot.phase != .awaitFw || decide (bufferBytes < offset.toNat + bytes.length) then .next s
  else .next (s.wr (physImage offset.toNat) bytes false)

/-- VWM_BOOT_LEN, ignored outside AWAIT_FW. -/
def execVwmBootLenWrite (value : W32) (s : State) : Out := s.directRow .vwmBootLen 0 (value.setWidth 64)

/-- An image length within R412. -/
def lenOk (n : Nat) : Bool := n % 64 == 0 && decide (4096 ≤ n) && decide (n ≤ bufferBytes)

/-- VWM_BOOT_CTRL.go: VERIFY, or len_bad; ignored in other phases (R413). -/
def State.bootGo (s : State) : State :=
  if s.boot.phase != .awaitFw then s
  else if !lenOk (s.reg .vwmBootLen 0).toNat then s.orReg .vwmBootStatus 0 4
  else s.enterPhase .verify

/-- VWM_BOOT_GO: a write of go. -/
def execVwmBootGo (s : State) : Out := .next s.bootGo

/-- The bit of the header's variants field (R412). -/
def Variant.bit : Variant → Nat
  | .m2 => 0 | .m4 => 1 | .m8 => 2

/-- The digest that the signature covers: header and body (R413). -/
def imageDigest (img : List Byte) : List Byte := sha384 (img.take (img.length - 256))

/-- The checks of R413 on an image. -/
def imageOk (v : Variant) (img : List Byte) : Bool :=
  let sig := img.drop (img.length - 256)
  let key := sig.take 97
  fieldLe img 0 4 == 0x4C564657 && fieldLe img 4 4 == 0x00010040 && fieldLe img 8 4 == img.length
  && fieldLe img 23 1 == 1 && fieldLe img 20 1 / 2 ^ v.bit % 2 == 1
  && decide (Config.minSecurityVersion ≤ fieldLe img 16 2)
  && sha384 key == Config.fusedKeyHash
  && ecdsaVerify key (imageDigest img) ((sig.drop 0x68).take 96)

/-- A rejected image: back to AWAIT_FW, or after the third in a power cycle the alarm of sensor 4 and FAILED with
cause 0x1 (R413). -/
def State.imageRejected (s : State) : State :=
  let n := min 3 (s.boot.fwFails + 1)
  let s := { s with boot := { s.boot with fwFails := n } }
  if n < 3 then s.enterPhase .awaitFw
  else
    let s := if s.boot.sigAlarm then s else { s with boot := { s.boot with sigAlarm := true } }.alarm [4]
    s.enterFailed 1 0

/-- Verification ends (R413): an accepted image enters BRINGUP. -/
def execVerifyDone (s : State) : Out :=
  if s.boot.phase != .verify then .next s
  else
    let img := s.rd (physImage 0) (s.reg .vwmBootLen 0).toNat
    if imageOk s.variant img then
      let s := { s with boot := { s.boot with
        fwDigest := imageDigest img, fwVersion := BitVec.ofNat 32 (fieldLe img 12 4) } }
      let chans := (List.range s.nChan).filter fun k => !(s.bypassed Kind.flashChannel).contains k
      let s := s.setReg .ftlChannels 0 (BitVec.ofNat 64 (chans.map fun k => 2 ^ k).sum)
      .next (s.enterPhase .bringup)
    else .next s.imageRejected

/-! ### BRINGUP (R414, R415) -/

/-- BRINGUP beyond 5 s (R410). -/
def execBringupTimeout (die : BitVec 8) (s : State) : Out :=
  let begun := (s.reg .vwmBootStamp 0).toNat
  if s.boot.phase != .bringup || (s.boot.running && decide (s.now < begun + 5000000000)) then .next s
  else .next (s.enterFailed 5 die.toNat)

/-- The bytes of a register window on this part, from its block's base on: of a window with one instance its registers, of
the doorbells their pages. -/
def State.winBytes (s : State) (w : Win) : Nat :=
  if w == .eqxPart then 0x1008 else if w.stride == 0 then 0x40 else w.start + w.stride * s.winCount w

/-- The windows with a base in the list of bases. -/
def placedWins : List Win :=
  [.eng, .acc, .spl, .qnt, .alm, .rng, .tier, .tierCtx, .ftl, .eqx, .eqxPart, .ngf, .ngfPort, .ngfCtx, .cfg, .cfgCal, .db,
   .cfgCtx, .clk, .clkCl, .gov, .fault, .vwm, .vwmDie, .lc, .dcnt, .lan]

/-- n bytes from b on lie in what BAR0 maps beyond the boot page. -/
def inBar0 (b n : Nat) : Bool := decide (bootPage + 4096 ≤ b) && decide (b + n ≤ bootPage + 268435456)

/-- Runtime firmware has placed every window, every doorbell page and the two tables within what BAR0 maps (R411). -/
def State.basesOk (s : State) (bs : List Nat) : Bool :=
  bs.length == 20 && (placedWins.all fun w => inBar0 (nth 0 bs w.baseIdx) (s.winBytes w))
  && inBar0 (nth 0 bs 18) actTableBytes && inBar0 (nth 0 bs 19) actTableBytes

/-- A stack of HBM that failed, now or permanently (R410): two on each die (R27). -/
def State.badStack (s : State) (now : Option Nat) : Option Nat :=
  match now with
  | some k => some k
  | none => (List.range (2 * s.dies)).find? fun k => s.permanent Kind.hbmStack k

/-- The flash channels that fail training: bonded and not bypassed, and not among those that trained (R414). -/
def State.lostChannels (s : State) (r : BringUp) : List Nat :=
  (List.range s.nChan).filter fun k => s.chanWorks k && !r.channels.getLsbD k

/-- The failures of a self-test: kind and index (R373). A unit with a permanent record was not tested (R374). -/
def State.failures (s : State) (r : BringUp) : List (Nat × Nat) :=
  (r.badPairs.map fun p => (Kind.lanePair, 64 * p.1 + p.2))
  ++ (r.badEngines.map fun e => (Kind.engine, e))
  ++ (r.badElts.map fun e => (Kind.elt, e))
  ++ (r.badQnts.map fun q => (Kind.qnt, q))
  ++ (r.badPortLanes.map fun p => (Kind.portLane, 8 * p.1 + p.2))
  ++ (s.lostChannels r).map fun k => (Kind.flashChannel, k)

/-- Record the failures, whose units are bypassed for the rest of the power cycle, and erase the transient records that R374
lets go: their unit passed this self-test and last failed 8 or more power cycles ago. -/
def State.recordSelfTest (s : State) (fs : List (Nat × Nat)) : State :=
  let s := { s with boot := { s.boot with failed := (s.boot.failed ++ fs).eraseDups } }
  let s := fs.foldl (fun (s : State) f => if s.permanent f.1 f.2 then s else s.recordFailure f.1 f.2) s
  let kept := s.hist.faults.filter fun (r : FaultRec) => r.permanent || decide (s.hist.pc < r.lastPc + 8)
  { s with hist := { s.hist with faults := kept } }

/-- A rising set of the elements of a list. -/
def toSet (l : List Nat) : NatSet := l.foldl (fun m k => NatSet.ins k m) []

/-- The engine map and the other units that are bypassed, once the failures of this self-test are recorded (R106 to R108,
R374, R414). -/
def State.fixMap (s : State) (r : BringUp) : State :=
  let pairs := toSet (s.bypassed Kind.lanePair)
  let few := (List.range s.nEng).filter fun e => decide (32 < (pairs.filter fun k => k / 64 == e).length)
  let ofClus := fun (n : Nat) => r.badClusters.flatMap fun k => (List.range n).map (· + n * k)
  { s with
    badPairs := pairs
    permPairs := toSet (s.permanents Kind.lanePair)
    retEng := toSet (s.bypassed Kind.engine ++ ofClus 16 ++ few)
    retElt := toSet (s.bypassed Kind.elt ++ ofClus 2)
    retQnt := toSet (s.bypassed Kind.qnt ++ r.badClusters)
    badLanes := toSet (s.bypassed Kind.portLane)
    selftestGen := s.hist.pc }

/-- The most flash that a variant uses, in bytes (R1, R220). -/
def State.maxFlash (s : State) : Nat := match s.variant with
  | .m8 => 32000000000000 | .m4 => 16000000000000 | .m2 => 8000000000000

/-- FTL_RATED of the history store: computed from the attached dies by the first start-up that finds flash (R224). -/
def State.rated (s : State) (f : Nat) : W64 :=
  if s.hist.rated == 0 then BitVec.ofNat 64 (Config.ratedProgram f) else s.hist.rated

/-- The flash at readiness (R220, R224, R226, R231, R414): channels that failed training are removed, and flash attached beyond
`State.maxFlash`, 32 TB on the M8, is not used. -/
def State.flashReady (s : State) (r : BringUp) : State :=
  let s : State := (s.lostChannels r).foldl State.dropChannel s
  let ch := (s.reg .ftlChannels 0).setWidth 32 &&& r.channels
  let f := if ch == 0 then 0 else min r.flashBytes.toNat s.maxFlash
  let s := { s with boot := { s.boot with channels := ch }, ftl := { s.ftl with readOnly := r.readOnly } }
  let s := (s.setReg .ftlChannels 0 (ch.setWidth 64)).setReg .ftlPages 0 (BitVec.ofNat 64 (93 * f / 100 / 2097152))
  let s := { s with hist := { s.hist with rated := s.rated f } }
  ((s.setReg .ftlHostWritten 0 s.hist.hostWritten).setReg .ftlNandWritten 0 s.hist.nandWritten).setReg .ftlRated 0
    s.hist.rated

/-- The admin queue as it exists at readiness (R302, R304): rings of 4,096 entries at the start of the admin region. -/
def adminQueue : QueueS :=
  { QueueS.none with
    present := true, ctx := adminCtx, priv := true, pver := 1, ringLog2 := 12, cplLog2 := 12, ringBase := 0
    cplBase := 0x40000, maxInflight := 64, msix := 0 }

/-- The counters of every window start over (R415), CLK_CYCLES among them. -/
def State.clearCounters (s : State) : State :=
  { s with
    regs := s.regs.filter fun e => !counterKey e.1
    clk := { s.clk with
      delivered := 0, clus := s.clk.clus.map fun (e : Nat × ClusClk) => (e.1, { e.2 with lost := 0, lastBusy := 0 }) } }

/-- Readiness (R415): counters at zero, the admin queue, generation 1, the capability table, Vigil's comparators, MSI-X
vector 0. -/
def State.readiness (s : State) : State :=
  let s := s.clearCounters
  let s := (s.setReg .cfgGen 0 1).setQueue 0 adminQueue
  let s := (List.range s.dies).foldl (fun (s : State) d =>
    let g := s.vigilGrain d
    s.setReg .vwmVigilDie d (BitVec.ofNat 64 (g.1 * 16777216 + g.2))) s
  (s.rebuildCap.enterPhase .ready).msix 0

/-- The part comes up with what runtime firmware reports (R414, R415). -/
def State.bringUp (s : State) (r : BringUp) : State :=
  let s := { s with boot := { s.boot with bases := r.bases } }
  let s := (s.recordSelfTest (s.failures r)).fixMap r
  ((List.range s.dies).foldl State.showVset (s.flashReady r)).readiness

/-- BRINGUP ends with what runtime firmware reports (R414, R415); while a die whose guard band rose is measured again, it
goes on (R363). -/
def execBringupDone (report : BringUp) (s : State) : Out :=
  if s.boot.phase != .bringup || !s.basesOk report.bases then .next s
  else match s.badStack (report.hbmFail.map fun k => k.toNat) with
  | some k => .next (s.enterFailed 3 k)
  | none =>
    let s := (List.range s.dies).foldl (fun (s : State) d =>
      s.startAge d (nth 0 report.slackPs d) (!report.vrNack.contains d) (!report.vrRaiseNack.contains d)) s
    .next (if s.ageing then s else s.bringUp report)

/-! ### The always-on domain (R424) -/

/-- The registers of the always-on domain, at their reset values: the event sequence, the alarm classes and their flags. -/
def State.aonRegs (s : State) : Map W64 :=
  [Reg.vwmEvtSeq, .vwmAlarmClass, .vwmAlarmStatus].foldl (fun m r => Map.set regDefault m (r.key 0) (regDefault (r.key 0)))
    s.regs

/-- A step-1 rail falls: the always-on domain is reset, and only the history store keeps its contents. -/
def execAonRailFall (s : State) : Out :=
  if !s.boot.aon then .next s
  else
    let s := s.failDrains
    .next { s with
      boot := { s.boot with aon := false }
      evt := State.reset.evt
      vigil := { s.vigil with record := [] }
      regs := s.aonRegs
      sec := State.reset.sec
      mgmt := { s.mgmt with
        eid := 0, receiver := none, ip := none, verified := false, restart := none, running := false } }

/-- The always-on domain leaves reset 2 ms after its rails are good (R424); a mesh alarm that began before is raised now
(R425). -/
def execAonResetRelease (s : State) : Out :=
  if s.boot.aon then .next s
  else
    let due := if s.sec.meshDue then [meshSensor] else []
    let s := { s with
      boot := { s.boot with aon := true }, mgmt := { s.mgmt with running := true }
      sec := { s.sec with meshDue := false } }
    .next (s.alarm due)

end Sys2Proof.Machine
end

