-- ==== Sys2Proof/Machine/Group.lean ====
section
/-! DEFINITION. The step group of a context: its table (R232), the fence set (R299), the configuration digest (R337) and
the random-stream bookkeeping of a step (R188 to R190). -/

namespace Sys2Proof.Machine

open Sys2Proof

/-! ### The group table (R232) -/

def State.members (s : State) (c : Nat) : Nat := s.fld .eqxGroup c 16 0

def State.groupBytes (s : State) (c : Nat) : List Byte :=
  s.rdVa c (s.reg .eqxGroupBase c).toNat (8 * s.members c)

/-- A record of the table by rank: replica set and part identifier. -/
def State.member (s : State) (c rank : Nat) : Nat × Nat :=
  let w := (s.rd32 c ((s.reg .eqxGroupBase c).toNat + 8 * rank)).toNat
  (w / 65536, w % 65536)

/-- The part's own rank (R232); none: the table does not list it. -/
def State.ownRank (s : State) (c : Nat) : Option Nat :=
  (List.range (s.members c)).find? fun r => (s.member c r).2 == s.fld .ngfPartId 0 15 0

/-- The ranks that are not fenced, ascending (R299). -/
def State.unfenced (s : State) (c : Nat) : List Nat :=
  (List.range (s.members c)).filter fun r => !(s.ctx c).fence.contains r

/-- The coordinator of a group transaction (R338). -/
def State.coordinator (s : State) (c : Nat) : Option Nat := (s.unfenced c).head?

/-- The own rank is fenced. -/
def State.ownFenced (s : State) (c : Nat) : Bool :=
  match s.ownRank c with
  | some r => (s.ctx c).fence.contains r
  | none => false

/-- Ranks enter the fence set, and the event names them (R299). -/
def State.fenceRanks (s : State) (c : Nat) (rs : List Nat) : State :=
  let new := rs.filter fun r => !(s.ctx c).fence.contains r
  match new with
  | [] => s
  | r :: _ =>
    (s.updCtx c fun x => { x with fence := new.foldl (fun m r => NatSet.ins r m) x.fence }).raise 0x0508 2 (some c)
      anchorDie [BitVec.ofNat 32 new.length, BitVec.ofNat 32 (new.foldl min r)]

/-! ### The configuration digest (R337) -/

/-- The fence set as bytes: rank r is bit r mod 8 of byte r / 8 (R299). -/
def fenceBytes (m : NatSet) : List Byte :=
  (List.range 8192).map fun i =>
    BitVec.ofNat 8 (((m.filter fun r => r / 8 == i).map fun r => 2 ^ (r % 8)).sum)

/-- Words 0 to 3 of every slot; zeros without an Almanac. -/
def State.slotConfigs (s : State) (c : Nat) : List Byte :=
  if s.reg .almBase c == 0 then List.replicate 65536 0
  else (List.range almSlots).flatMap fun n => (s.almSlot c n).take 16

/-- One item: id, length, content. -/
def digestItem (id : Nat) (bs : List Byte) : List Byte := leBytes 4 id ++ leBytes 4 bs.length ++ bs

/-- The items of the digest, in ascending id. -/
def State.digestItems (s : State) (c : Nat) : List Byte :=
  digestItem 1 ((s.boot.fwDigest ++ List.replicate 48 0).take 48)
  ++ digestItem 2 (leBytes 4 (s.reg .almCtrl c).toNat)
  ++ digestItem 3 (s.slotConfigs c)
  ++ digestItem 4 (leBytes 8 (s.reg .cfgRngSeed c).toNat)
  ++ digestItem 5 (leBytes 8 (s.reg .cfgRngStep c).toNat)
  ++ digestItem 6 (leBytes 4 (s.reg .eqxCtrl c).toNat)
  ++ digestItem 7 (leBytes 4 (s.reg .eqxGroup c).toNat)
  ++ digestItem 8 (s.groupBytes c)
  ++ digestItem 9 (fenceBytes (s.ctx c).fence)

/-- The 32 bytes of the hash. -/
def State.cfgDigest (s : State) (c : Nat) : List Byte := sha256 (s.digestItems c)

/-- Compute the digest and show it in CFG_DIGEST (R337). -/
def State.showDigest (s : State) (c : Nat) : State :=
  let d := s.cfgDigest c
  let w := fun i => BitVec.ofNat 64 (ofLeBytes ((d.drop (8 * i)).take 8))
  (((s.setReg .cfgDigest0 c (w 0)).setReg .cfgDigest1 c (w 1)).setReg .cfgDigest2 c (w 2)).setReg .cfgDigest3 c (w 3)

/-- The digest as CFG_DIGEST shows it. -/
def State.digestValue (s : State) (c : Nat) : BitVec 256 :=
  (s.reg .cfgDigest3 c) ++ (s.reg .cfgDigest2 c) ++ (s.reg .cfgDigest1 c) ++ (s.reg .cfgDigest0 c)

/-! ### Random streams (R188 to R190) -/

/-- A stream's event of R190, at most once per value of CFG_RNG_STEP, a value that returns included. -/
def State.streamDup (s : State) (c : Nat) (st : W32) : State :=
  let n := flagKey (s.reg .cfgRngStep c) st
  let s := s.orReg .cfgRngFlags c 1
  if (s.ctx c).dupFlagged.contains n then s
  else (s.updCtx c fun x => { x with dupFlagged := NatSet.ins n x.dupFlagged }).raise 0x0208 1 (some c) anchorDie [st]

def State.streamUnreg (s : State) (c : Nat) (st : W32) : State :=
  let n := flagKey (s.reg .cfgRngStep c) st
  let s := s.orReg .cfgRngFlags c 2
  if (s.ctx c).unregFlagged.contains n then s
  else (s.updCtx c fun x => { x with unregFlagged := NatSet.ins n x.unregFlagged }).raise 0x0209 1 (some c) anchorDie [st]

/-- The check of a stream against the ranges (address, bytes) that a command writes under it (R190); without a stream
table every stream counts as unregistered. An empty range must lie in the extent too (DESIGN CHOICE, log entry 97). -/
def State.checkStream (s : State) (c : Nat) (st : W32) (ranges : List (Nat × Nat)) : State :=
  match (s.ctx c).streams.find? fun x => x.stream == st with
  | none => s.streamUnreg c st
  | some x =>
    if s.reg .cfgStreamBase c == 0 then s.streamUnreg c st
    else if ranges.all fun r => decide (x.base ≤ r.1) && decide (r.1 + r.2 ≤ x.base + x.len) then s else s.streamDup c st

/-- The streams once the staged changes are in force (R189). -/
def CtxS.nextStreams (x : CtxS) : List StreamReg :=
  x.stagedStreams.foldl (fun (l : List StreamReg) p =>
    let l := l.filter fun y => y.stream != p.1
    match p.2 with
    | some r => l ++ [r]
    | .none => l) x.streams

/-- The checks of RNG_STREAM_REG, in word order (R18, R189, R199). -/
def State.streamRegErr (s : State) (c : Nat) (p : StreamRegP) : Option Err :=
  let new := (s.ctx c).nextStreams
  let full := !(new.any fun y => y.stream == p.stream) && decide (16384 ≤ new.length)
  firstErr [s.chkAddrField c 6 p.base, errIf (!p.unregister && p.len == 0) (Err.word St.badField 8),
    errIf (!p.unregister && full) (Err.state St.streamFull)]

/-- The change that RNG_STREAM_REG stages. -/
def StreamRegP.change (p : StreamRegP) : W32 × Option StreamReg :=
  (p.stream, if p.unregister then none else some ⟨p.stream, p.base.toNat, p.len.toNat⟩)

/-- RNG_STREAM_REG stages a registration or an unregistration (R189). -/
def execRngStreamReg (h : Hdr) (p : StreamRegP) (s : State) : Out :=
  s.packet s.txnScopes h ⟨0x330, 0, .context, false⟩ fun id c s =>
    s.guarded id (s.streamRegErr c p) fun s =>
      (s.updCtx c fun x => { x with stagedStreams := x.stagedStreams ++ [StreamRegP.change p] }).finishNow id

end Sys2Proof.Machine
end

