-- ==== Sys2Proof/Machine/Send.lean ====
section
/-! DEFINITION. End-to-end delivery: addresses and routes (R272, R273), endpoint contexts and their cache (R274), sequence
numbers, retransmission and the window of numbers seen (R275), and the tie rule of the timers (R340). -/

namespace Sys2Proof.Machine

open Sys2Proof

/-! ### Addresses and routes (R272, R273) -/

def fabPart (a : Nat) : Nat := a / 2 ^ 48 % 65536
def fabLocal (a : Nat) : Nat := a % 2 ^ 48

def State.ownPart (s : State) : Nat := s.fld .ngfPartId 0 15 0

/-- The route entry of a part: the table lies in the admin region, at NGF_ROUTE_BASE. -/
def State.routeEntry (s : State) (part : Nat) : Nat :=
  let a := (s.reg .ngfRouteBase 0).toNat + 4 * part
  if a + 4 ≤ 67108864 then ofLeBytes (s.rd (physAdmin a) 4) % 2 ^ 24 else 0

/-- The ports in a state that the entry names. -/
def State.routePorts (s : State) (part : Nat) (st : PortSt) : List Nat :=
  let e := s.routeEntry part
  (List.range s.nPorts).filter fun n => e / 2 ^ n % 2 == 1 && (s.port n).st == st

/-- The port that a packet takes: a fixed hash over the ports in UP (R273); where none is, a management packet takes one in
QUARANTINE (R270, R338). -/
def State.choosePort (s : State) (k : Pkt) : Option Nat :=
  let up := s.routePorts k.dstPart.toNat .up
  let ps := if up.isEmpty && k.cls == 3 then s.routePorts k.dstPart.toNat .quarantine else up
  let h := if k.cls == 2 then Config.routeHashColl (k.w5.toNat % 2 ^ 20) k.w6.toNat
    else Config.routeHash k.dstPart.toNat k.dstCtx.toNat ((k.w5.toNat * 2 ^ 32 + k.w4.toNat) / 4096)
  ps[h % ps.length]?

/-- A packet with its ecrc. -/
def Pkt.seal (k : Pkt) : Pkt := { k with ecrc := Pkt.crc k }

/-! ### Timers and arrivals of one cycle (R340) -/

/-- Time passes only while no row waits: the rows of the queue are of this same cycle. -/
def State.comes (s : State) (f : Instr → Bool) : Bool := s.pending.any f

/-- A timer that expires in this very cycle stands back while the queue still holds an arrival that it awaits; else, and
after its cycle, it runs. -/
def State.expire (s : State) (row : Instr) (expiry : Nat) (f : Instr → Bool) (body : State → State) : State :=
  if s.now == expiry && s.comes f then { s with tied := s.tied ++ [row] } else body s

/-- After an arrival: a timer that stood back runs once no further arrival of its cycle waits. -/
def State.untie (s : State) (row : Instr) (f : Instr → Bool) (body : State → State) : State :=
  if s.tied.contains row && !s.comes f then body { s with tied := s.tied.filter fun r => r != row } else s

/-- What follows a step that goes on. -/
def Out.andThen (o : Out) (f : State → State) : Out :=
  match o with
  | .next s => .next (f s)
  | .fault e => .fault e
  | .refused r => .refused r

/-- An arrival after its timer's expiry is discarded and counted, and so is a timer that a tie suppresses (R340). -/
def State.lateDrop (s : State) : State := s.bump .cfgLateDrop 0 1
def State.lateClose (s : State) : State := s.bump .cfgLateClose 0 1

/-! ### Endpoint contexts (R274) -/

def State.updFab (s : State) (f : FabS → FabS) : State := { s with fab := f s.fab }

/-- The endpoint context of a partner is cached: it becomes the most recently used. -/
def State.touchEpt (s : State) (n : Nat) : State :=
  s.updFab fun f => { f with cache := n :: f.cache.filter fun x => x != n }

/-- A packet to a partner goes on when its endpoint context is cached; a miss is counted, and it waits for one HBM read. -/
def State.throughEpt (s : State) (n : Nat) (miss : FabS → FabS) (go : State → State) : State :=
  if s.fab.cache.contains n then go (s.touchEpt n) else (s.updFab miss).bump .ngfEptMiss 0 1

/-! ### Sending (R275, R397) -/

/-- A packet takes the next sequence number and its retransmission timer, and leaves by a port where there is one. -/
def State.sendNew (s : State) (w : FabWait) (port : Option Nat) : State :=
  let e := s.ept w.partner
  let k := Pkt.seal { w.pkt with seq := BitVec.ofNat 32 e.nextSeq }
  let tag := match s.flightOf w.flight with | some f => f.hdr.tag.toNat | none => 0
  let u : Unacked := { seq := e.nextSeq, pkt := k, sentAt := s.now, retx := 0, flight := w.flight, lantern := w.lantern
                       port := port.getD 0, sent := 0, tag := tag }
  let s := s.setEpt w.partner { e with
    nextSeq := (e.nextSeq + 1) % 2 ^ 32, unacked := e.unacked ++ [u], gone := NatSet.del e.gone e.nextSeq }
  match port with
  | some n => s.sendOn n ⟨k, if w.lantern then some tag else none, false⟩
  | none => s

/-- A management packet goes out; without a port its retransmissions try again (R338). -/
def State.sendManagement (s : State) (w : FabWait) : State := s.sendNew w (s.choosePort w.pkt)

/-- A packet that waits at a port for credits waits there no more. -/
def State.dropQueued (s : State) (k : Pkt) : State :=
  { s with ports := s.ports.map fun e => (e.1, { e.2 with queued := e.2.queued.filter fun o => o.pkt != k }) }

/-- An unacknowledged packet leaves again, by a port of its route, and a copy of it that still waits for credits does not;
a retransmission counts, on a die once it leaves by a port of it (R275, R433), the resend after a busy answer (`counted` false)
does not (R291). -/
def State.retransmit (s : State) (n seq : Nat) (counted : Bool) : State :=
  match s.unacked n seq with
  | none => s
  | some u => match s.choosePort u.pkt with
    | none => s
    | some p =>
      let s := if counted then s.bump .ngfE2eRetx 0 1 else s
      (s.dropQueued u.pkt).sendOn p ⟨u.pkt, if u.lantern then some u.tag else none, counted⟩

/-- Send a packet again with its sequence number, through the endpoint cache. -/
def State.resend (s : State) (n seq : Nat) (counted : Bool) : State :=
  (s.updUnacked n seq fun u => { u with sentAt := s.now, retx := u.retx + if counted then 1 else 0 }).throughEpt n
    (fun f => { f with missRetx := f.missRetx ++ [(n, seq, counted)] }) fun s => s.retransmit n seq counted

/-- A response leaves by a port that the route names. -/
def State.respondNow (s : State) (k : Pkt) : State :=
  match s.choosePort k with
  | some n => s.sendOn n ⟨Pkt.seal k, none, false⟩
  | none => s

/-- Send a response, through the endpoint cache; none after a part fault (R370). -/
def State.respond (s : State) (k : Pkt) : State :=
  if s.boot.partFault then s
  else s.throughEpt k.dstPart.toNat (fun f => { f with missResp := f.missResp ++ [k] }) fun s => s.respondNow k

/-! ### Receiving (R275, R278) -/

/-- An end-to-end acknowledgement goes back; `busy` for the busy answer of R291. -/
def State.ackE2e (s : State) (k : Pkt) (busy : Bool) : State :=
  { s with out := { s.out with e2e := s.out.e2e ++ [(k.srcPart.toNat, k.seq, busy)] } }

/-- A packet that the part takes from a port: the port carries it, the ecrc holds, it is addressed to this part, and the
part answers fabric traffic (R270, R278, R370). -/
def State.takes (s : State) (port : Nat) (k : Pkt) (cls fop : Nat) : Bool :=
  (s.port port).carries (Pkt.vc k) && k.ecrc == Pkt.crc k && k.dstPart.toNat == s.ownPart && k.cls.toNat == cls
  && k.fop.toNat == fop && s.boot.phase == .ready && !s.boot.partFault

/-- A packet of a sequence number seen before is acknowledged again and discarded (R275). -/
def State.seen (s : State) (k : Pkt) : Bool := (s.ept k.srcPart.toNat).window.contains k.seq.toNat

/-- A sequence number `m` is recent beside `n`: not 2^30 or more before it, in the order of 32-bit numbers. -/
def recentSeq (n m : Nat) : Bool :=
  let d := (n + 2 ^ 32 - m) % 2 ^ 32
  decide (d < 2 ^ 30) || decide (2 ^ 31 ≤ d)

/-- A sequence number enters the window of recent numbers. -/
def State.markSeen (s : State) (k : Pkt) : State :=
  let e := s.ept k.srcPart.toNat
  let n := k.seq.toNat
  s.setEpt k.srcPart.toNat { e with window := NatSet.ins n (e.window.filter (recentSeq n)) }

/-- The partner's endpoint context is not cached: the packet waits for it (R274). -/
def State.missArrival (s : State) (port : Nat) (k : Pkt) : State :=
  (s.updFab fun f => { f with missIn := f.missIn ++ [⟨k.srcPart.toNat, port, s.now, k⟩] }).bump .ngfEptMiss 0 1

/-- A packet row: a packet that the part takes is handled once its partner's endpoint context is cached (R274, R278). -/
def State.packetRow (s : State) (port : Nat) (k : Pkt) (cls fop : Nat) (body : State → State) : Out :=
  if !inRange port s.nPorts then portFault port
  else if !s.takes port k cls fop then .next s
  else if !s.fab.cache.contains k.srcPart.toNat then .next (s.missArrival port k)
  else .next (body (s.touchEpt k.srcPart.toNat))

end Sys2Proof.Machine
end

