-- ==== Sys2Proof/Machine/Txn.lean ====
section
/-! DEFINITION. The admin commands (R322 to R324), calendars (R325), configuration transactions (R328 to R336) and the
group protocol (R338 to R340). -/

namespace Sys2Proof.Machine

open Sys2Proof

/-! ### QUEUE_CREATE, QUEUE_DESTROY, CTX_ASSIGN -/

/-- The members of a calendar, as queue numbers. -/
def State.calMembers (s : State) (n : Nat) : List Nat :=
  (s.queues.filter fun e => e.2.present && e.2.calMember && e.2.cal == n).map fun e => e.1

/-- The context of a calendar: that of its members (R322). -/
def State.calCtx (s : State) (n : Nat) : Option Nat := (s.calMembers n).head?.map fun q => (s.queue q).ctx

/-- The calendar belongs to another context than c (R325). -/
def State.calOther (s : State) (n c : Nat) : Bool := match s.calCtx n with | some x => x != c | none => false

/-- The faults of a member of a calendar (R322). -/
def State.calMemberBad (s : State) (p : QueueCreateP) : Bool :=
  p.calMember && (s.calMembers p.cal.toNat).any fun q =>
    (s.queue q).member == p.member.toNat || (s.queue q).ctx != p.context.toNat
      || q / 4096 != p.queue.toNat / 4096

/-- A size code of a ring (R303). -/
def ringSizeOk (k : Nat) : Bool := decide (6 ≤ k) && decide (k ≤ 16)

/-- A ring page that is unmapped or sealed (R322). -/
def State.chkRing (s : State) (c w : Nat) (a : W64) (n : Nat) : Option Err :=
  match s.place c a.toNat, s.place c (a.toNat + n - 1) with
  | .page _ _, .page _ _ =>
    let ps := pagesTouched a.toNat n
    if ps.any fun p => (s.page c p).st == .unmapped then some (Err.word St.unmapped w)
    else if ps.any fun p => (s.page c p).sealed then some (Err.word St.sealed w)
    else none
  | _, _ => some (Err.word St.unmapped w)

/-- A terminated context whose queues are not all destroyed (R369). -/
def State.termBusy (s : State) (c : Nat) : Bool :=
  (s.ctx c).terminated && s.queues.any fun e => e.2.present && e.2.ctx == c

/-- A terminated context becomes usable again, in HELD (R369). -/
def State.revive (s : State) (c : Nat) : State :=
  if (s.ctx c).terminated then s.updCtx c fun x => { x with terminated := false, phase := .held } else s

/-- The queue that QUEUE_CREATE makes. -/
def QueueCreateP.made (p : QueueCreateP) : QueueS :=
  { QueueS.none with
    present := true, ctx := p.context.toNat, priv := p.priv, calMember := p.calMember, member := p.member.toNat
    cal := p.cal.toNat, pver := p.pver.toNat, ringLog2 := p.ringLog2.toNat, cplLog2 := p.cplLog2.toNat
    ringBase := p.ringBase, cplBase := p.cplBase, maxInflight := p.maxInflight.toNat, msix := p.msix.toNat }

/-- The checks of QUEUE_CREATE (R322). -/
def State.queueCreateErr (s : State) (p : QueueCreateP) : Option Err :=
  let q := p.queue.toNat
  let c := p.context.toNat
  firstErr [
    errIf (q == 0 || !inRange q s.nQueues || (s.queue q).present || s.calMemberBad p) (Err.word St.badField 4),
    errIf (s.termBusy c) (Err.word St.ctxBusy 4),
    errIf (p.pver != 1) (Err.word St.badVersion 5),
    errIf (!ringSizeOk p.ringLog2.toNat || !ringSizeOk p.cplLog2.toNat) (Err.word St.badField 5),
    chkAlign 6 p.ringBase 4096, s.chkRing c 6 p.ringBase (64 * 2 ^ p.ringLog2.toNat),
    chkAlign 8 p.cplBase 4096, s.chkRing c 8 p.cplBase (32 * 2 ^ p.cplLog2.toNat),
    errIf (p.maxInflight == 0 || decide (1536 < p.maxInflight.toNat)) (Err.word St.badField 10)]

/-- QUEUE_CREATE creates a queue with its rings, context, version and calendar membership (R322). -/
def execQueueCreate (h : Hdr) (p : QueueCreateP) (s : State) : Out :=
  s.packet s.txnScopes h ⟨0x620, 0, .admin, false⟩ fun id _ s =>
    s.guarded id (s.queueCreateErr p) fun s =>
      ((s.revive p.context.toNat).setQueue p.queue.toNat (QueueCreateP.made p)).finishNow id

/-- The checks of QUEUE_DESTROY (R323). -/
def State.queueDestroyErr (s : State) (q : Nat) : Option Err :=
  let x := s.queue q
  let again := s.flight.any fun f => match f.work with | .destroy n => n == q | _ => false
  firstErr [errIf (q == 0 || !x.present || again) (Err.word St.badField 4),
    errIf (x.calMember && (s.cal x.cal).part != 0) (Err.word St.ctxBusy 4)]

/-- QUEUE_DESTROY stops fetching; COMMAND_COMPLETE removes the queue once nothing of it is in flight (R323). -/
def execQueueDestroy (h : Hdr) (queue : BitVec 15) (s : State) : Out :=
  s.packet s.txnScopes h ⟨0x621, 0, .admin, false⟩ fun id _ s =>
    s.guarded id (s.queueDestroyErr queue.toNat) fun s =>
      (s.updFlight id fun f => { f with work := .destroy queue.toNat }).finishLater id

/-- Remove a queue: its open transaction goes with it, and a terminated context without queues is usable again
(R323, R369). -/
def State.removeQueue (s : State) (q : Nat) : State :=
  let c := (s.queue q).ctx
  let s := s.setQueue q QueueS.none
  let s := { s with txns := s.txns.filter fun t => !(t.queue == q && t.st == .opened) }
  if s.termBusy c then s else s.revive c

/-- The clusters of a mask, ascending. -/
def maskClusters (m : BitVec 128) : List Nat := (List.range 128).filter fun k => m.getLsbD k

/-- The checks of CTX_ASSIGN (R324): the first cluster of the mask that is absent, or that has the wrong owner. -/
def State.ctxAssignErr (s : State) (p : CtxAssignP) : Option Err :=
  let ks := maskClusters p.mask
  let word := fun (k : Nat) => 5 + k / 32
  firstErr [(ks.find? fun k => !inRange k s.nClus).map fun k => Err.word St.badField (word k),
    if p.release then (ks.find? fun k => s.ownerOf k != some p.context.toNat).map fun k => Err.word St.notOwner (word k)
    else (ks.find? fun k => (s.ownerOf k).isSome).map fun k => Err.word St.ctxBusy (word k)]

/-- Assign clusters to a context. -/
def State.assign (s : State) (c : Nat) (ks : List Nat) : State :=
  ks.foldl (fun (s : State) k => s.setOwner k (some c)) s

/-- CTX_ASSIGN assigns clusters, or begins their release (R310, R324). -/
def execCtxAssign (h : Hdr) (p : CtxAssignP) (s : State) : Out :=
  s.packet s.txnScopes h ⟨0x622, 0, .admin, false⟩ fun id _ s =>
    s.guarded id (s.ctxAssignErr p) fun s =>
      if p.release then
        (s.updFlight id fun f => { f with work := .release p.context.toNat (maskClusters p.mask) }).finishLater id
      else (s.assign p.context.toNat (maskClusters p.mask)).finishNow id

/-- No other command of the context that names one of the clusters is in flight; a kernel names all (R310, R432). -/
def State.releaseReady (s : State) (id c : Nat) (ks : List Nat) : Bool :=
  !(s.flight.any fun f => f.id != id && f.ctx == c && (f.kernel || f.clusters.any fun k => ks.contains k))

/-- Release clusters: every engine to full mode, the memories zeroed (R310). -/
def State.releaseClusters (s : State) (ks : List Nat) : State :=
  ks.foldl (fun (s : State) k => (s.clearCluster k).setOwner k none) s

/-! ### Staging (R328 to R331) -/

/-- The open transaction of a queue. -/
def State.openTxn (s : State) (q : Nat) : Option Txn := s.txns.find? fun t => t.queue == q && t.st == .opened

def State.updTxn (s : State) (n : Nat) (f : Txn → Txn) : State :=
  { s with txns := updFirst (fun t => t.id == n) f s.txns }

def State.dropTxn (s : State) (n : Nat) : State := { s with txns := s.txns.filter fun t => t.id != n }

/-- A staging command: outside a transaction, a fault of its fields, the limit of R334, else staged. -/
def State.stage (s : State) (h : Hdr) (id : Nat) (checks : List (Option Err)) (ch : Change) : State :=
  match s.openTxn h.ring.toNat with
  | none => s.reject id (Err.word St.notInTxn 0)
  | some t =>
    match firstErr (checks ++ [errIf (decide (8192 ≤ t.changes.length)) (Err.state St.txnFull)]) with
    | some e => s.reject id e
    | none => (s.updTxn t.id fun t => { t with changes := t.changes ++ [ch] }).finishNow id

/-- A transaction opens on a queue: it holds no change (R328). -/
def State.beginTxn (s : State) (q c : Nat) : State :=
  let t : Txn := { id := s.nextId, queue := q, ctx := c, changes := [], st := .opened, idle := false, group := false
                   txnId := 0, voteUs := 0, flight := 0, own := 0, votedAt := 0 }
  { s with txns := s.txns ++ [t], nextId := s.nextId + 1 }

/-- CFG_BEGIN opens a transaction on its queue (R328, R334). A group transaction between its CFG_COMMIT and its decision counts
among the 64, and CFG_TXN_STATE shows it as open (DESIGN CHOICE, log entry 107). -/
def execCfgBegin (h : Hdr) (s : State) : Out :=
  s.packet s.txnScopes h ⟨0x600, 0, .any, true⟩ fun id c s =>
    if (s.openTxn h.ring.toNat).isSome then s.reject id (Err.state St.txnOpen)
    else if 64 ≤ s.txns.length then s.reject id (Err.state St.txnFull)
    else (s.beginTxn h.ring.toNat c).finishNow id

/-- CFG_ABORT discards the queue's transaction (R328). -/
def execCfgAbort (h : Hdr) (s : State) : Out :=
  s.packet s.txnScopes h ⟨0x602, 0, .any, true⟩ fun id _ s =>
    match s.openTxn h.ring.toNat with
    | none => s.reject id (Err.state St.notInTxn)
    | some t => (s.dropTxn t.id).finishNow id

/-- The doorbell fields, which no transaction writes, whichever queue stages it (R330). -/
def Reg.doorbell (r : Reg) : Bool := r == .cfgDbProd || r == .cfgDbCons

/-- The checks of CFG_WRITE (R329 to R331): an address with bits [63:48] set is ST_UNMAPPED (R199), any other that is no
register's ST_BAD_FIELD, and a doorbell ST_BAD_FIELD, whosever it is (R330). -/
def State.cfgWriteChecks (s : State) (q c : Nat) (p : CfgWriteP) : List (Option Err) :=
  match s.decodeReg p.addr.toNat with
  | none => [some (Err.word (if 2 ^ 48 ≤ p.addr.toNat then St.unmapped else St.badField) 4)]
  | some (r, i, hi) =>
    let x := s.queue q
    let own := x.priv || c == adminCtx || s.regScope r i == some c
    [errIf hi (Err.word St.badField 4), errIf (!own && !r.doorbell) (Err.word St.notOwner 4),
     errIf (r.info.wide != p.wide) (Err.word St.badField 6), errIf r.doorbell (Err.word St.badField 9),
     errIf (p.mask &&& ~~~ r.info.rw != 0) (Err.word St.badField 9)]

/-- CFG_WRITE stages a masked write to a register (R329). -/
def execCfgWrite (h : Hdr) (p : CfgWriteP) (s : State) : Out :=
  s.packet s.txnScopes h ⟨0x601, 0, .any, true⟩ fun id c s =>
    s.stage h id (s.cfgWriteChecks h.ring.toNat c p) (.reg p.addr p.value p.mask)

/-- ALM_SLOT_WRITE stages a change of an Almanac slot; its width and band are judged on the slot as it is stored, whatever the
transaction has staged for it before (R173; DESIGN CHOICE, log entry 95). While ALM_BASE is zero it is judged on a slot of
zeros, and has no effect where it applies (DESIGN CHOICE, log entry 101). -/
def execAlmSlotWrite (h : Hdr) (p : AlmWriteP) (s : State) : Out :=
  s.packet s.txnScopes h ⟨0x310, 0, .context, true⟩ fun id c s =>
    s.stage h id (s.slotWriteChecks c p) (.alm p)

/-- FENCE_CLEAR stages the removal of a rank from the fence set (R300). -/
def execFenceClear (h : Hdr) (rank : BitVec 16) (s : State) : Out :=
  s.packet s.txnScopes h ⟨0x430, 0, .context, true⟩ fun id _ s => s.stage h id [] (.fenceClear rank.toNat)

/-- PART_REJOIN is accepted only in HELD, with the own rank fenced (R300). -/
def State.canRejoin (s : State) (c : Nat) : Bool := (s.ctx c).phase == .held && s.ownFenced c

/-- PART_REJOIN stages EQX_EPOCH, CFG_RNG_STEP and the removal of the own rank from the fence set (R300). -/
def execPartRejoin (h : Hdr) (epoch rngStep : W64) (s : State) : Out :=
  s.packet s.txnScopes h ⟨0x431, 0, .context, true⟩ fun id c s =>
    s.stage h id [errIf (!s.canRejoin c) (Err.state St.badField)] (.rejoin epoch rngStep)

/-- The entries of a CAL_LOAD in memory, as member indices. -/
def State.calEntries (s : State) (c : Nat) (p : CalLoadP) : List Nat :=
  (List.range p.length.toNat).map fun i => (s.rd32 c (p.addr.toNat + 4 * i)).toNat % 32

/-- Every entry names a member that exists. -/
def State.entriesOk (s : State) (n : Nat) (es : List Nat) : Bool :=
  let ms := (s.calMembers n).map fun q => (s.queue q).member
  es.all fun e => ms.contains e

/-- The checks of CAL_LOAD (R325); the last looks at the entries that it read. -/
def State.calLoadChecks (s : State) (c : Nat) (p : CalLoadP) : List (Option Err) :=
  let n := p.cal.toNat
  let len := p.length.toNat
  [errIf (s.calOther n c) (Err.word St.notOwner 4),
    errIf (len == 0 || decide (256 < len) || decide (len < p.loopEnd.toNat)) (Err.word St.badField 5),
    errIf (decide (p.loopEnd.toNat < p.loopStart.toNat)) (Err.word St.badField 6),
    s.chkRead c 8 p.addr (4 * len), errIf (!s.entriesOk n (s.calEntries c p)) (Err.state St.badField)]

/-- The change that CAL_LOAD stages. -/
def State.calChange (s : State) (c : Nat) (p : CalLoadP) : Change :=
  .cal p.cal.toNat (s.calEntries c p) p.loopStart.toNat p.loopEnd.toNat p.loopCount.toNat

/-- CAL_LOAD reads its entries, with any poison among them. -/
def State.calRead (s : State) (id c : Nat) (p : CalLoadP) : State :=
  (s.names id c [(p.addr.toNat, 4 * p.length.toNat)] [] []).consumeRange id c p.addr.toNat (4 * p.length.toNat)

/-- CAL_LOAD stages a stage calendar (R325). -/
def execCalLoad (h : Hdr) (p : CalLoadP) (s : State) : Out :=
  s.packet s.txnScopes h ⟨0x610, 0, .context, true⟩ fun id c s =>
    let reads := (s.openTxn h.ring.toNat).isSome && (firstErr ((s.calLoadChecks c p).take 4)).isNone
    (if reads then s.calRead id c p else s).stage h id (s.calLoadChecks c p) (s.calChange c p)

/-! ### Preparing (R333) -/

/-- The registers that changes write, each once, as (register, instance). -/
def State.changedRegs (s : State) (chs : List Change) : List (Reg × Nat) :=
  (chs.filterMap fun ch => match ch with
    | .reg a _ _ => (s.decodeReg a.toNat).map fun p => (p.1, p.2.1)
    | _ => none).eraseDups

/-- The register values that the changes leave, with no other effect: later changes win. -/
def State.rawRegs (s : State) (chs : List Change) : State :=
  chs.foldl (fun (s : State) ch => match ch with
    | .reg a v m => (match s.decodeReg a.toNat with
      | some (r, i, _) => s.setReg r i (s.merged r i v m)
      | none => s)
    | _ => s) s

/-- The owning chapter would ignore or refuse the value that the changes leave in a register. -/
def State.regFails (s after : State) (r : Reg) (i : Nat) : Bool :=
  match r with
  | .splStageQuota => s.stageRefused i (after.reg r i)
  | .tierQuotaHbm => after.quotaRefused r i (after.reg r i)
  | .tierQuotaFlash => after.quotaRefused r i (after.reg r i)
  | .ngfPartId => s.beyondAlign
  | .vwmAlarmClass => s.fld r 0 31 31 == 1
  | .vwmBootLen => s.boot.phase != .awaitFw
  | .eqxSyncCfg | .clkPpsCtrl => after.fld .eqxSyncCfg 0 0 0 == 1 && after.fld .clkPpsCtrl 0 0 0 == 1
  | _ => false

/-- The configuration that the slot writes among the changes leave in slot n. -/
def slotAfter (chs : List Change) (n : Nat) (x : AlmCfg) : AlmCfg :=
  chs.foldl (fun x ch => match ch with
    | .alm p => if p.slot.toNat == n then AlmWriteP.result p x else x
    | _ => x) x

/-- A change other than a register write fails; a calendar as CAL_LOAD would (R325, R333). -/
def State.changeFails (s after : State) (c : Nat) (chs : List Change) : Change → Bool
  | .reg a _ _ => (s.decodeReg a.toNat).isNone
  | .alm p =>
    let y := slotAfter chs p.slot.toNat (after.almCfg c p.slot.toNat)
    decide (y.width < y.widthMin) || decide (y.widthMax < y.width)
  | .cal n es _ _ _ => !s.entriesOk n es || s.calOther n c
  | .fenceClear _ => false
  | .rejoin _ _ => !s.canRejoin c

/-- The transaction fails to prepare (R333). -/
def State.prepFails (s : State) (t : Txn) : Bool :=
  let after := s.rawRegs t.changes
  (s.changedRegs t.changes).any (fun r => s.regFails after r.1 r.2)
    || t.changes.any fun ch => s.changeFails after t.ctx t.changes ch

/-! ### Applying (R335) -/

/-- A register takes the value that a transaction leaves in it. -/
def State.applyReg (s : State) (r : Reg) (i : Nat) (v : W64) : State :=
  match r with
  | .tierQuotaHbm | .tierQuotaFlash => s.setReg r i v
  | _ => s.putReg r i v

/-- Load a calendar and start it (R325, R326). -/
def State.loadCal (s : State) (n : Nat) (es : List Nat) (ls le lc : Nat) : State :=
  s.setCal n (CalS.start { loaded := true, entries := es, loopStart := ls, loopEnd := le, loopCount := lc
                           part := 0, entry := 0, iter := 0 })

/-- A change other than a register write takes effect. -/
def State.applyChange (s : State) (c : Nat) : Change → State
  | .reg _ _ _ => s
  | .alm p => s.applySlotWrite c p
  | .cal n es ls le lc => s.loadCal n es ls le lc
  | .fenceClear r => s.updCtx c fun x => { x with fence := NatSet.del x.fence r }
  | .rejoin e step =>
    let s := (s.setReg .eqxEpoch c e).setRngStep c step
    match s.ownRank c with
    | some r => s.updCtx c fun x => { x with fence := NatSet.del x.fence r }
    | none => s

/-- Recheck a pending transaction and apply it whole; true when it applied (R335). -/
def State.applyTxn (s : State) (t : Txn) : Bool × State :=
  let s := s.dropTxn t.id
  if s.prepFails t then
    (false, (s.orReg .cfgTxnErr 0 2).raise 0x0602 2 (if t.ctx == adminCtx then none else some t.ctx) anchorDie [])
  else
    let after := s.rawRegs t.changes
    let s := (s.changedRegs t.changes).foldl (fun (s : State) r => s.applyReg r.1 r.2 (after.reg r.1 r.2)) s
    (true, t.changes.foldl (fun (s : State) ch => s.applyChange t.ctx ch) s)

/-- The contexts that a transaction affects (R335); the admin queue counts as a context. -/
def State.affected (s : State) (t : Txn) : List Nat :=
  let sc := s.txnScopes t
  if sc.contains 65 then List.range 65
  else (List.range 64).filter fun c => sc.contains c || t.ctx == c

/-- Apply due transactions in order; when at least one applies, CFG_GEN advances by 1 and the capability table is
rebuilt (R335). The digests of the affected contexts are computed again (R337). -/
def State.applyAll (s : State) (ts : List Txn) : State :=
  let cs := (ts.flatMap fun t => s.affected t).eraseDups
  let r := ts.foldl (fun (p : Bool × State) t => let q := p.2.applyTxn t; (p.1 || q.1, q.2)) (false, s)
  if r.1 then
    let s := (r.2.bump .cfgGen 0 1).rebuildCap
    (cs.filter fun c => c != adminCtx).foldl State.showDigest s
  else r.2

/-- The idle point of a transaction: no affected context has a command in flight, HELD excepted (R335). -/
def State.idlePoint (s : State) (t : Txn) : Bool :=
  t.st == .pending && t.idle
    && (s.affected t).all fun c => (s.ctxFlights c).isEmpty || (c != adminCtx && (s.ctx c).phase == .held)

/-- At an idle point the transactions due there are rechecked and applied, and dispatch resumes (R335). -/
def execCfgApplyIdle (txn : Nat) (s : State) : Out :=
  if s.boot.phase != .ready then .next s
  else if s.txns.any fun t => t.id == txn && s.idlePoint t then .next (s.applyAll (s.txns.filter s.idlePoint))
  else .next s

/-! ### CFG_COMMIT (R332, R333) and the group protocol (R338) -/

/-- The transaction becomes pending, behind those that became pending earlier (R335). -/
def State.makePending (s : State) (n : Nat) : State :=
  match s.txns.find? fun t => t.id == n with
  | some t => { s.dropTxn n with txns := (s.dropTxn n).txns ++ [{ t with st := .pending }] }
  | none => s

/-- A group transaction ends by decision: its CFG_COMMIT completes with ST_OK or ST_TXN_ABORTED (R338). -/
def State.decideTxn (s : State) (t : Txn) (commit : Bool) : State :=
  if commit then (s.makePending t.id).complete t.flight
  else ((s.dropTxn t.id).outcome t.flight St.txnAborted 0 0).complete t.flight

/-- The operations of class 3 (R338). -/
def fopVote : Nat := 1
def fopDecision : Nat := 2

/-- A class 3 packet of a context to a part, with payload words 0 and 1 (R338). -/
def State.mgmtPkt (s : State) (c part fop : Nat) (w0 : W32) (w1 : Nat) : Pkt where
  cls := 3
  pver := 1
  fop := BitVec.ofNat 8 fop
  dstPart := BitVec.ofNat 16 part
  srcPart := BitVec.ofNat 16 s.ownPart
  dstCtx := BitVec.ofNat 6 c
  srcCtx := BitVec.ofNat 6 c
  seq := 0
  tagSlot := 0
  status := 0
  poison := 0
  w4 := 0
  w5 := 0
  w6 := 0
  payload := leBytes 4 w0.toNat ++ leBytes 4 w1 ++ List.replicate 56 0
  ecrc := 0

/-- Send a class 3 packet to a member of the step group, with end-to-end retransmission (R275, R338). -/
def State.sendMember (s : State) (flight c rank fop : Nat) (w0 : W32) (w1 : Nat) : State :=
  let part := (s.member c rank).2
  let w : FabWait := ⟨flight, part, s.mgmtPkt c part fop w0 w1, .mgmt, false⟩
  s.throughEpt part (fun f => { f with missOut := f.missOut ++ [w] }) fun s => s.sendManagement w

/-- Payload words 0 and 1 of a class 3 packet. -/
def Pkt.word (k : Pkt) (i : Nat) : W32 := BitVec.ofNat 32 (ofLeBytes ((k.payload.drop (4 * i)).take 4))

/-- The coordinator's decision goes to every other member. -/
def State.sendDecision (s : State) (t : Txn) (commit : Bool) : State :=
  ((List.range (s.members t.ctx)).filter fun r => some r != s.ownRank t.ctx).foldl (fun (s : State) r =>
    s.sendMember t.flight t.ctx r fopDecision t.txnId (if commit then 1 else 0)) s

/-- The votes of a transaction that the coordinator holds. -/
def State.votesOf (s : State) (c : Nat) (txnId : W32) : List (Nat × Nat) :=
  ((s.ctx c).votes.filter fun v => v.1 == txnId).map fun v => v.2

/-- A transaction is decided: what is kept of its votes goes. -/
def State.dropVotes (s : State) (c : Nat) (txnId : W32) : State :=
  s.updCtx c fun x => { x with
    votes := x.votes.filter fun v => v.1 != txnId, tardyVotes := x.tardyVotes.filter fun v => v.1 != txnId }

/-- The coordinator aborts before every vote is there: those still to come, of which none came late already, belong to no later
transaction, and are discarded (R338; log entry 69). `timer`: its timer has expired. -/
def State.expectLate (s : State) (t : Txn) (timer : Bool) : State :=
  let due := (s.unfenced t.ctx).filter fun r =>
    s.ownRank t.ctx != some r && !((s.votesOf t.ctx t.txnId).any fun v => v.1 == r)
      && !(s.ctx t.ctx).tardyVotes.contains (t.txnId, r)
  s.updCtx t.ctx fun x => { x with overdue := x.overdue ++ due.map fun r => (t.txnId, r, timer) }

/-- The coordinator decides when it can: abort on an unfenced member's vote that is not prepared, commit once every
unfenced member voted prepared (R338). Answers whether it decided. -/
def State.tryDecide (s : State) (t : Txn) (own : Nat) : Bool × State :=
  let vs := s.votesOf t.ctx t.txnId
  let mine := match s.ownRank t.ctx with | some r => r | none => 0
  let bad := own != St.ok || vs.any fun v => v.2 != St.ok && (s.unfenced t.ctx).contains v.1
  let all := (s.unfenced t.ctx).all fun r => r == mine || vs.any fun v => v.1 == r
  if bad || all then
    let s := ((if bad then s.expectLate t false else s).sendDecision t (!bad)).dropVotes t.ctx t.txnId
    (true, if own == St.ok then s.decideTxn t (!bad) else s)
  else (false, s)

/-- The part is the coordinator of the context's step group. -/
def State.coordinates (s : State) (c : Nat) : Bool :=
  match s.ownRank c, s.coordinator c with
  | some r, some k => r == k
  | _, _ => false

/-- The own vote is cast: sent to the coordinator, or counted there (R338). -/
def State.castVote (s : State) (t : Txn) (own : Nat) : State :=
  let c := t.ctx
  let s := s.updCtx c fun x => { x with
    closedVotes := x.closedVotes.filter fun v => v != t.txnId, closedWaits := x.closedWaits.filter fun v => v != t.txnId
    tardyVotes := x.tardyVotes.filter fun v => v.1 != t.txnId }
  if s.coordinates c then (s.tryDecide t own).2
  else match s.ownRank c with
  | some r => match s.coordinator c with
    | some k => s.sendMember t.flight c k fopVote t.txnId (r * 65536 + own * 256)
    | none => s
  | none => s

/-- The faults of CFG_COMMIT (R332). -/
def State.commitBad (s : State) (c : Nat) (t : Txn) (p : CommitP) : Bool :=
  let sc := s.txnScopes t
  (!p.idle && (c == adminCtx || sc.contains 65 || sc.any fun x => x != c))
  || (p.group && (c == adminCtx || (p.idle && (s.ctx c).phase != .held)))

/-- The transaction as CFG_COMMIT leaves it: it carries the options, and the own vote (R332, R333). -/
def Txn.committed (t : Txn) (p : CommitP) (id own now : Nat) : Txn :=
  { t with st := .voting, idle := p.idle, group := p.group, txnId := p.txnId, voteUs := p.voteUs.toNat, flight := id
           own := own, votedAt := now }

/-- CFG_COMMIT prepares a transaction and makes it pending, or casts the group vote (R332, R333, R338). -/
def State.commit (s : State) (id : Nat) (t : Txn) (p : CommitP) : State :=
  let own := if s.prepFails t then St.cfgConflict else St.ok
  let t := t.committed p id own s.now
  let s := s.updTxn t.id fun _ => t
  if !p.group then
    if own == St.ok then (s.makePending t.id).finishNow id
    else (s.dropTxn t.id).reject id (Err.state St.cfgConflict)
  else if own == St.ok then
    (s.updFlight id fun f => { f with work := .commit t.id }).castVote t own
  else ((s.castVote t own).dropTxn t.id).reject id (Err.state St.cfgConflict)

/-- CFG_COMMIT commits the queue's transaction (R332, R333, R338). -/
def execCfgCommit (h : Hdr) (p : CommitP) (s : State) : Out :=
  s.packet s.txnScopes h ⟨0x603, 0, .any, true⟩ fun id c s =>
    match s.openTxn h.ring.toNat with
    | none => s.reject id (Err.state St.notInTxn)
    | some t => if s.commitBad c t p then s.reject id (Err.word St.badField 4) else s.commit id t p

/-- The voting group transaction of a context with an identifier. -/
def State.voting (s : State) (c : Nat) (txnId : W32) : Option Txn :=
  s.txns.find? fun t => t.ctx == c && t.st == .voting && t.group && t.txnId == txnId

/-- Fabric traffic of management kind reaches the context: the part answers and the context is not terminated. -/
def State.answers (s : State) (c : Nat) : Bool :=
  s.boot.phase == .ready && !s.boot.partFault && !(s.ctx c).terminated

/-- When the vote timer of a coordinator's transaction expires, and when a member's decision wait does (R338). -/
def Txn.voteExpiry (t : Txn) : Nat := t.votedAt + t.voteUs * 1000
def Txn.waitExpiry (t : Txn) : Nat := t.votedAt + (t.voteUs + 1000) * 1000

/-- The coordinator's timer has expired with votes missing: it decides abort (R338). -/
def State.voteExpired (s : State) (c : Nat) (txnId : W32) : State :=
  match s.voting c txnId with
  | none => s
  | some t =>
    let s := ((s.expectLate t true).sendDecision t false).dropVotes c txnId
    (s.updCtx c fun x => { x with closedVotes := x.closedVotes ++ [txnId] }).decideTxn t false

/-- A member's decision wait has expired: it aborts locally (R338). -/
def State.waitExpired (s : State) (c : Nat) (txnId : W32) : State :=
  match s.voting c txnId with
  | none => s
  | some t => (s.updCtx c fun x => { x with closedWaits := x.closedWaits ++ [txnId] }).decideTxn t false

/-- A vote, a decision that a row brings for a transaction of a context. -/
def isVoteOf (c : BitVec 6) (txnId : W32) : Instr → Bool
  | .txnVote _ i _ k => k.dstCtx == c && i == txnId
  | _ => false
def isDecisionOf (c : BitVec 6) (txnId : W32) : Instr → Bool
  | .txnDecision _ i k => k.dstCtx == c && i == txnId
  | _ => false

/-- A vote that a transaction was aborted without is awaited no more. -/
def State.forgetOverdue (s : State) (c : Nat) (o : W32 × Nat × Bool) : State :=
  s.updCtx c fun x => { x with overdue := dropFirst (fun y => y == o) x.overdue }

/-- A vote that the coordinator expects: held before its own vote, counted until the timer expires, the arrival winning a
tie (R338, R340); one after the expiry is late, and no other is to come from its rank. A fenced member's, of a transaction whose
timer has decided, is late. -/
def State.countVote (s : State) (c : Nat) (txnId : W32) (rank status : Nat) : State :=
  let keep := fun (s : State) => s.updCtx c fun x =>
    { x with votes := (x.votes.filter fun v => !(v.1 == txnId && v.2.1 == rank)) ++ [(txnId, rank, status)] }
  match s.voting c txnId with
  | none => if (s.ctx c).closedVotes.contains txnId && (s.ctx c).fence.contains rank then s.lateDrop else keep s
  | some t =>
    if t.voteExpiry < s.now then (s.updCtx c fun x => { x with tardyVotes := x.tardyVotes ++ [(txnId, rank)] }).lateDrop
    else
      let r := (keep s).tryDecide t t.own
      if r.1 && s.now == t.voteExpiry then r.2.lateClose else r.2

/-- A vote reaches the coordinator (R338). Of a rank whose vote an earlier transaction of the same txn_id was aborted without,
it is that vote, or one of the transaction that comes next: a free choice (log entry 69). -/
def State.takeVote (s : State) (c : Nat) (txnId : W32) (rank status : Nat) : State :=
  if !s.answers c || !s.coordinates c then s
  else match (s.ctx c).overdue.find? fun o => o.1 == txnId && o.2.1 == rank with
  | some o =>
    let f := s.nextFree
    let s := f.2.forgetOverdue c o
    if Config.isLate f.1 then (if o.2.2 then s.lateDrop else s) else s.countVote c txnId rank status
  | none => s.countVote c txnId rank status

/-- The coordinator's decision reaches a member and completes its CFG_COMMIT (R338); one after the wait's expiry is
discarded and counted (R340). DESIGN CHOICE (log entry 69): no field tells the decision of an earlier transaction of the same
txn_id, which this member aborted locally, from that of the one that waits now, and it is taken as the latter's. -/
def State.takeDecision (s : State) (c : Nat) (txnId : W32) (commit : Bool) : State :=
  if !s.answers c then s
  else match s.voting c txnId with
  | none => if (s.ctx c).closedWaits.contains txnId then s.lateDrop else s
  | some t =>
    if t.waitExpiry < s.now then s.lateDrop
    else (if s.now == t.waitExpiry then s.lateClose else s).decideTxn t commit

/-- A class 3 packet is acknowledged and, when it is new, taken (R275, R338). -/
def State.takeMgmt (s : State) (k : Pkt) : State :=
  let c := k.dstCtx.toNat
  if s.seen k then s.ackE2e k false
  else
    let s := (s.markSeen k).ackE2e k false
    let w := (Pkt.word k 1).toNat
    if k.fop.toNat == fopVote then s.takeVote c (Pkt.word k 0) (w / 65536) (w / 256 % 256)
    else s.takeDecision c (Pkt.word k 0) (w % 2 == 1)

/-- A vote arrives (R338, R340). -/
def execTxnVote (port : BitVec 5) (txnId ballot : W32) (pkt : Pkt) (s : State) : Out :=
  let k := Pkt.leading [txnId, ballot] pkt
  (s.packetRow port.toNat k 3 fopVote fun t => t.takeMgmt k).andThen fun t =>
    t.untie (.voteTimeout k.dstCtx txnId) (isVoteOf k.dstCtx txnId) fun t => t.voteExpired k.dstCtx.toNat txnId

/-- The coordinator's timer expires with votes missing (R338); a vote of the same cycle is counted first (R340). -/
def execVoteTimeout (ctx : BitVec 6) (txnId : W32) (s : State) : Out :=
  let c := ctx.toNat
  if !s.answers c || !s.coordinates c then .next s
  else match s.voting c txnId with
  | none => .next s
  | some t =>
    if s.now < t.voteExpiry then .next s
    else .next (s.expire (.voteTimeout ctx txnId) t.voteExpiry (isVoteOf ctx txnId) fun s => s.voteExpired c txnId)

/-- The coordinator's decision arrives (R338, R340). -/
def execTxnDecision (port : BitVec 5) (txnId : W32) (pkt : Pkt) (s : State) : Out :=
  let k := Pkt.leading [txnId] pkt
  (s.packetRow port.toNat k 3 fopDecision fun t => t.takeMgmt k).andThen fun t =>
    t.untie (.decisionWaitTimeout k.dstCtx txnId) (isDecisionOf k.dstCtx txnId) fun t =>
      t.waitExpired k.dstCtx.toNat txnId

/-- A member with no decision vote_us + 1,000 µs after its own vote aborts locally (R338); a decision of the same cycle
wins (R340). -/
def execDecisionWaitTimeout (ctx : BitVec 6) (txnId : W32) (s : State) : Out :=
  match s.voting ctx.toNat txnId with
  | none => .next s
  | some t =>
    if s.now < t.waitExpiry then .next s
    else .next (s.expire (.decisionWaitTimeout ctx txnId) t.waitExpiry (isDecisionOf ctx txnId) fun s =>
      s.waitExpired ctx.toNat txnId)

end Sys2Proof.Machine
end

