-- ==== Sys2Proof/Machine/Fabric.lean ====
section
/-! DEFINITION. The fabric: transactions (R276), admission and the target side of requests (R277 to R282), the fabric
commands (R280, R281), and what an acknowledgement or its absence does (R275). -/

namespace Sys2Proof.Machine

open Sys2Proof

/-! ### The end of a transaction -/

/-- A slow read belongs to a command. -/
def FabSlow.isOf (x : FabSlow) (id : Nat) : Bool := match x with | .own w => w.flight == id | .remote _ => false

/-- A fabric command still has packets to send or answers to come. -/
def State.fabBusy (s : State) (id : Nat) : Bool :=
  (s.fab.txns.any fun t => t.flight == id) || (s.fab.waiting.any fun w => w.flight == id)
  || (s.fab.missOut.any fun w => w.flight == id) || s.fab.slow.any fun x => x.2.isOf id

/-- The work of a fabric command is over once all its packets are answered; after a fault nothing more is sent. -/
def State.fabCheck (s : State) (id : Nat) : State :=
  let s := if s.running id then s
    else s.updFab fun f => { f with
      waiting := f.waiting.filter fun w => w.flight != id, missOut := f.missOut.filter fun w => w.flight != id
      slow := f.slow.filter fun x => !x.2.isOf id }
  match s.flightOf id with
  | some f => (match f.work with
    | .fabric rest => if !s.fabBusy id && (rest.isEmpty || f.status != St.ok) then s.finishLater id else s
    | _ => s)
  | none => s

/-- A transaction of a command ends with a fault. -/
def State.fabFail (s : State) (id st : Nat) (detail : W32) : State := (s.failFlight id st detail).fabCheck id

/-- Free a transaction. -/
def State.freeTag (s : State) (tag : Nat) : State :=
  s.updFab fun f => { f with txns := f.txns.filter fun t => t.tag != tag }

/-! ### Sending (R274 to R276) -/

/-- The first tag at or after t that no transaction uses. -/
def freeTagFrom (used : List Nat) : Nat → Nat → Nat
  | 0, t => t % 65536
  | fuel + 1, t => if used.contains (t % 65536) then freeTagFrom used fuel (t + 1) else t % 65536

/-- Free the transaction of a collective packet. -/
def State.freeColl (s : State) (flight partner : Nat) : State :=
  s.updFab fun f => { f with
    txns := dropFirst (fun t => t.kind == .coll && t.flight == flight && t.partner == partner) f.txns }

/-- A collective command ends with a fault of the fabric: its status is the fault's, and it plays no further part. -/
def State.collFault (s : State) (id st : Nat) : State :=
  let s := (s.failFlight id st 0).finishLater id
  match s.colls.find? fun x => x.flight == id with
  | some y => (s.updColl y.ctx y.key fun x => { x with done := true }).armDie y.die
  | none => s

/-- Put a packet with a transaction on the wire; no port in UP ends it with ST_NO_ROUTE (R273, R275). -/
def State.transmit (s : State) (w : FabWait) : State :=
  match s.choosePort w.pkt with
  | some n => s.sendNew w (some n)
  | none =>
    let s := s.orReg .ngfCtxErr w.pkt.srcCtx.toNat 1
    if w.kind == .coll then (s.freeColl w.flight w.partner).collFault w.flight St.noRoute
    else (s.freeTag w.pkt.tagSlot.toNat).fabFail w.flight St.noRoute 0

/-- A packet of a transaction goes out through the endpoint cache (R274). -/
def State.viaEpt (s : State) (w : FabWait) : State :=
  s.throughEpt w.partner (fun f => { f with missOut := f.missOut ++ [w] }) fun s => s.transmit w

/-- A FAB_FENCE accepted earlier on the flight's queue has not completed (R281). -/
def State.fenced (s : State) (id : Nat) : Bool :=
  match s.flightOf id with
  | none => false
  | some f => f.opcode / 16 == 0x40
      && s.flight.any fun g => g.queue == f.queue && decide (g.id < id) && g.opcode == 0x403

/-- A transaction is free (R276). -/
def State.txnFree (s : State) : Bool := decide (s.fab.txns.length < 65536)

/-- The address of a request. -/
def Pkt.addr (k : Pkt) : Nat := (k.w5.toNat * 2 ^ 32 + k.w4.toNat) % 2 ^ 48

/-- Take a transaction for a packet and send it. -/
def State.launch (s : State) (w : FabWait) : State :=
  let tag := freeTagFrom (s.fab.txns.map fun t => t.tag) (s.fab.txns.length + 1) s.fab.nextTag
  let c := match s.flightOf w.flight with | some f => f.ctx | none => w.pkt.srcCtx.toNat
  let k := if w.kind == .coll then w.pkt else { w.pkt with tagSlot := BitVec.ofNat 16 tag }
  let s := s.updFab fun f => { f with
    nextTag := (tag + 1) % 65536
    txns := f.txns ++ [⟨tag, w.partner, w.flight, c, w.kind, w.pkt.w6.toNat, w.partner * 2 ^ 48 + Pkt.addr w.pkt⟩] }
  s.viaEpt { w with pkt := k }

/-- A packet needs a transaction: it waits while none is free, or behind a FAB_FENCE. -/
def State.request (s : State) (w : FabWait) : State :=
  if s.fenced w.flight || !s.txnFree || s.fab.waiting.any (fun x => x.flight == w.flight) then
    s.updFab fun f => { f with waiting := f.waiting ++ [w] }
  else s.launch w

/-! ### Accesses at a target (R272, R277, R282) -/

/-- A remote access lies in the unified range (R272). -/
def inUnified (a n : Nat) : Bool := decide (a + n ≤ 35184372088832)

/-- The poison bits of n bytes at `a`, one per 64 bytes of payload (R278). -/
def State.poisonBits (s : State) (c a n : Nat) : Nat :=
  ((List.range (ceilDiv n 64)).map fun i =>
    if (s.firstPoison c (a + 64 * i) (min 64 (n - 64 * i))).isSome then 2 ^ i else 0).sum

/-- Every page of a range is mapped. -/
def State.allMapped (s : State) (c a n : Nat) : Bool := (pagesTouched a n).all fun p => (s.page c p).st != .unmapped

/-- A poison bit of the payload lines that bytes [off, off + n) touch. -/
def poisonAt (bits off n : Nat) : Bool :=
  (List.range 8).any fun i => bits / 2 ^ i % 2 == 1 && overlaps off n (64 * i) 64

/-- A remote write under the target's rules, in pieces within lines: the status, and the state; `id` numbers the
waiting stores. -/
def State.remoteWrite (s : State) (id c a : Nat) (bs : List Byte) (pois : Nat) : Nat × State :=
  if !inUnified a bs.length then (St.unmapped, s)
  else if s.dmForbidden c a bs.length then (St.badField, s)
  else (storePieces a bs).foldl (fun (r : Nat × State) p =>
    if r.1 != St.ok then r
    else match r.2.storePage (some id) c p.1 p.2 (poisonAt pois (p.1 - a) p.2.length) with
    | (some st, s) => (st, s)
    | (none, s) => (St.ok, s)) (St.ok, s)

/-- A read for the fabric: status, bytes, poison bits. -/
def State.remoteRead (s : State) (c a n : Nat) : Nat × List Byte × Nat :=
  if !inUnified a n || !s.allMapped c a n then (St.unmapped, [], 0) else (St.ok, s.rdVa c a n, s.poisonBits c a n)

/-- What an atomic writes (R279); none: a compare that fails. -/
def atomicNew (op old operand compare : Nat) : Option Nat :=
  if op == 0 then some ((old + operand) % 2 ^ 64)
  else if op == 1 then some (max old operand)
  else if op == 2 then some operand
  else if old == compare then some operand else none

/-- An atomic at the target: status, old value, poison bits, state. -/
def State.remoteAtomic (s : State) (id c a op operand compare : Nat) : Nat × Nat × Nat × State :=
  let a := a / 8 * 8
  if !inUnified a 8 || !s.allMapped c a 8 then (St.unmapped, 0, 0, s)
  else if s.dmForbidden c a 8 then (St.badField, 0, 0, s)
  else if (s.page c (a / pageBytes)).sealed then (St.sealed, 0, 0, s)
  else
    let old := ofLeBytes (s.rdPending c a 8)
    let pb := s.poisonBits c a 8
    match atomicNew op old operand compare with
    | none => (St.ok, old, pb, s)
    | some v => match s.storePage (some id) c a (leBytes 8 v) (pb != 0) with
      | (some st, s) => (st, 0, 0, s)
      | (none, s) => (St.ok, old, pb, s)

/-! ### What an answer does to its command -/

/-- The address of the first poisoned line of a read at `src`, from its poison bits, each of which stands for 64 bytes of
payload: where they lie in two lines, the first of those that no clear bit frees (log entry 66). -/
def poisonedLine (src pois : Nat) : Option Nat :=
  ((List.range 8).find? fun i => pois / 2 ^ i % 2 == 1).map fun i =>
    (src + 64 * i + (if i == 0 then 0 else 63)) / 64 * 64

/-- Read data of a fabric address reaches a command: a block header is checked (R209), the lines are stored with their
marks, and the reader consumes poison, of which the first poisoned line is named (R230, R282). -/
def State.getData (s : State) (f : Flight) (line : Option Nat) (dst : Nat) (head : Bool) (bs : List Byte) (pois : Nat) :
    State :=
  let s := match line with
    | some a => s.consume f.id f.ctx a
    | none => s
  if head && !blockOk (BitVec.ofNat 32 (ofLeBytes (bs.take 4))) then s.failFlight f.id St.badField 0xFFFFFFFF
  else (storePieces dst bs).foldl (fun (s : State) p =>
    s.storePiece f.id f.ctx p.1 p.2 (poisonAt pois (p.1 - dst) p.2.length)) s

/-- The old value of an atomic at a fabric address is written locally; poison of the word is consumed there (R230). -/
def State.oldValue (s : State) (f : Flight) (src dst : Nat) (v pois : Nat) : State :=
  let s := if pois != 0 then s.consume f.id f.ctx src else s
  s.storePiece f.id f.ctx dst (leBytes 8 v) (pois != 0)

/-- A request header from the own context to the same context of a part. -/
def State.reqPkt (s : State) (c fop addr len : Nat) (payload : List Byte) (pois status : Nat) : Pkt where
  cls := 0
  pver := 1
  fop := BitVec.ofNat 8 fop
  dstPart := BitVec.ofNat 16 (fabPart addr)
  srcPart := BitVec.ofNat 16 s.ownPart
  dstCtx := BitVec.ofNat 6 c
  srcCtx := BitVec.ofNat 6 c
  seq := 0
  tagSlot := 0
  status := BitVec.ofNat 8 status
  poison := BitVec.ofNat 8 pois
  w4 := BitVec.ofNat 32 (fabLocal addr)
  w5 := BitVec.ofNat 32 (fabLocal addr / 2 ^ 32)
  w6 := BitVec.ofNat 32 len
  payload := payload
  ecrc := 0

/-- A read of the fabric side whose bytes lie on flash waits for its flash reads; any other is made at once (R202, R223). -/
def State.slowRead (s : State) (c a n : Nat) (x : FabSlow) (body : State → State) : State :=
  let id := s.nextId
  if (s.flashPieces id c [(a, n)]).isEmpty then body s
  else ({ s with nextId := id + 1 }.queueReads id c [(a, n)]).updFab fun f => { f with slow := f.slow ++ [(id, x)] }

/-- A read of a command at a fabric address of the own part is made. -/
def State.ownRead (s : State) (w : FabWait) : State :=
  match s.flightOf w.flight, w.kind with
  | some f, .get dst head =>
    let n := w.pkt.w6.toNat
    let a := Pkt.addr w.pkt
    let r := s.remoteRead f.ctx a n
    if r.1 != St.ok then s.failFlight f.id r.1 0
    else s.getData f ((s.firstPoison f.ctx a n).map fun x => w.partner * 2 ^ 48 + x) dst head r.2.1 r.2.2
  | _, _ => s

/-- An access of a command on the own part, served locally without a port (R272). -/
def State.serveOwn (s : State) (w : FabWait) : State :=
  match s.flightOf w.flight with
  | none => s
  | some f =>
    let k := w.pkt
    let a := Pkt.addr k
    let src := w.partner * 2 ^ 48 + a
    match w.kind with
    | .get _ _ => s.slowRead f.ctx a k.w6.toNat (.own w) fun s => s.ownRead w
    | .put =>
      let r := s.remoteWrite f.id f.ctx a (k.payload.take k.w6.toNat) k.poison.toNat
      if r.1 != St.ok then r.2.failFlight f.id r.1 0 else r.2.updFlight f.id fun f => { f with made := true }
    | .atomic old =>
      let r := s.remoteAtomic f.id f.ctx a (k.status.toNat % 4) (ofLeBytes (k.payload.take 8))
        (ofLeBytes ((k.payload.drop 8).take 8))
      if r.1 != St.ok then r.2.2.2.failFlight f.id r.1 0 else r.2.2.2.oldValue f src old r.2.1 r.2.2.1
    | .coll | .mgmt => s

/-- Send a packet of a fabric command, or serve it locally. -/
def State.fabSend (s : State) (w : FabWait) : State :=
  if !s.running w.flight then s
  else if w.partner == s.ownPart && !s.fenced w.flight then s.serveOwn w else s.request w

/-- The packets of a copy of n bytes, cut at 512 bytes from its start: (offset, bytes). -/
def fabPieces (n : Nat) : List (Nat × Nat) :=
  (List.range (ceilDiv n 512)).map fun i => (512 * i, min 512 (n - 512 * i))

/-- One read packet. -/
def State.sendGet (s : State) (h : Hdr) (id c src dst n : Nat) (head : Bool) : State :=
  s.fabSend ⟨id, fabPart src, s.reqPkt c 0x01 src n [] 0 0, .get dst head, h.lantern⟩

/-- One write packet: local bytes with their marks, consumed where poisoned (R230). -/
def State.sendPut (s : State) (h : Hdr) (id c src dst n : Nat) : State :=
  let pb := s.poisonBits c src n
  let r := s.load id c src n
  r.2.2.fabSend ⟨id, fabPart dst, s.reqPkt c 0x02 dst n r.1 pb 0, .put, h.lantern⟩

/-! ### The fabric commands (R280, R281) -/

/-- The length of a fabric copy (R280). -/
def chkFabLen (n : W64) : Option Err := errIf (n == 0 || decide (1099511627776 < n.toNat)) (Err.word St.badField 8)

/-- The part of a fabric range that lies on the own part, which the command names too (R272, R432). -/
def State.ownRange (s : State) (a n : Nat) : List (Nat × Nat) :=
  if fabPart a == s.ownPart then [(fabLocal a, n)] else []

/-- A fabric command begins: what it names, and the packets it still has to send. -/
def State.fabBegin (s : State) (id c : Nat) (reads writes : List (Nat × Nat)) (rest : List (Nat × Nat × Nat × Bool)) :
    State :=
  (s.names id c reads writes []).updFlight id fun f => { f with work := .fabric rest }

/-- FAB_GET reads bytes from a fabric address into local memory; its fields are checked in word order (R18, R280). -/
def execFabGet (h : Hdr) (src dst len : W64) (s : State) : Out :=
  s.packet s.txnScopes h ⟨0x400, 0, .context, true⟩ fun id c s =>
    s.guarded id (firstErr [s.chkMove c 6 dst len.toNat, chkFabLen len]) fun s =>
      ((fabPieces len.toNat).foldl (fun (s : State) p =>
        s.sendGet h id c (src.toNat + p.1) (dst.toNat + p.1) p.2 false)
        (s.fabBegin id c (s.ownRange src.toNat len.toNat) [(dst.toNat, len.toNat)] [])).fabCheck id

/-- The write packets of a FAB_PUT. -/
def State.runFabPut (s : State) (h : Hdr) (id c : Nat) (src dst len : W64) : State :=
  ((fabPieces len.toNat).foldl (fun (s : State) p =>
    s.sendPut h id c (src.toNat + p.1) (dst.toNat + p.1) p.2) s).fabCheck id

/-- FAB_PUT writes local bytes to a fabric address, once its flash reads are over (R223, R280). -/
def execFabPut (h : Hdr) (src dst len : W64) (s : State) : Out :=
  s.packet s.txnScopes h ⟨0x401, 0, .context, true⟩ fun id c s =>
    s.guarded id (firstErr [s.chkRead c 4 src len.toNat, chkFabLen len]) fun s =>
      let rs := [(src.toNat, len.toNat)]
      (s.fabBegin id c rs (s.ownRange dst.toNat len.toNat) []).withReads id c rs (.fabPut h src dst len)
        fun s => s.runFabPut h id c src dst len

/-- FAB_ATOMIC performs an atomic at a fabric address and writes the old value locally (R279, R280). -/
def execFabAtomic (h : Hdr) (p : FabAtomicP) (s : State) : Out :=
  s.packet s.txnScopes h ⟨0x402, 0, .context, true⟩ fun id c s =>
    s.guarded id (firstErr [chkAlign 4 p.addr 8, chkAlign 11 p.oldAddr 8, s.chkMove c 11 p.oldAddr 8]) fun s =>
      let pay := leBytes 8 p.operand.toNat ++ leBytes 8 p.compare.toNat
      ((s.fabBegin id c [] ((p.oldAddr.toNat, 8) :: s.ownRange p.addr.toNat 8) []).fabSend ⟨id, fabPart p.addr.toNat,
        s.reqPkt c 0x03 p.addr.toNat 8 pay 0 p.op.toNat, .atomic p.oldAddr.toNat, h.lantern⟩).fabCheck id

/-- FAB_FENCE completes when every earlier fabric command of its queue has completed (R281). -/
def execFabFence (h : Hdr) (s : State) : Out :=
  s.packet s.txnScopes h ⟨0x403, 0, .context, true⟩ fun id _ s =>
    let q := h.ring.toNat
    let ids := (s.flight.filter fun f => f.queue == q && decide (f.id < id) && f.opcode / 16 == 0x40).map fun f => f.id
    (s.updFlight id fun f => { f with work := .fabFence ids }).finishLater id

/-- The packets of a tile-block copy: (source, destination, bytes, block header). -/
def tbPackets (p : TbCopyP) : List (Nat × Nat × Nat × Bool) :=
  (tbBlocks p).flatMap fun b => (fabPieces blockBytes).map fun k => (b.1 + k.1, b.2 + k.1, k.2, p.check && k.1 == 0)

/-- The next packet of a checked copy goes once the one before it is answered. -/
def State.tbNext (s : State) (h : Hdr) (id c : Nat) : Nat → State
  | 0 => s
  | fuel + 1 =>
    match s.flightOf id with
    | none => s
    | some f => match f.work with
      | .fabric (k :: rest) =>
        if f.status != St.ok || s.fabBusy id then s
        else
          let s := s.updFlight id fun f => { f with work := .fabric rest }
          State.tbNext (s.sendGet h id c k.1 k.2.1 k.2.2.1 k.2.2.2) h id c fuel
      | _ => s

/-- A command goes on after an answer. -/
def State.fabFollow (s : State) (id : Nat) : State :=
  match s.flightOf id with
  | none => s
  | some f =>
    let n := match f.work with | .fabric rest => rest.length | _ => 0
    ((s.tbNext f.hdr id f.ctx (n + 1)).fabCheck id).settle f.ctx

/-- The checks of FAB_TB_COPY. -/
def State.fabTbErr (s : State) (c : Nat) (p : TbCopyP) : Option Err :=
  tbChecks p [] ((tbJudged p).map fun b => s.chkMove c 6 (vaOf b.2) blockBytes)

/-- FAB_TB_COPY copies tile blocks from a fabric source as TB_COPY does (R209, R280). -/
def execFabTbCopy (h : Hdr) (p : TbCopyP) (s : State) : Out :=
  s.packet s.txnScopes h ⟨0x404, 0, .context, true⟩ fun id c s =>
    s.guarded id (s.fabTbErr c p) fun s =>
      let ks := tbPackets p
      let s := s.fabBegin id c ((tbBlocks p).flatMap fun b => s.ownRange b.1 blockBytes)
        ((tbBlocks p).map fun b => (b.2, blockBytes)) (if p.check then ks else [])
      (if p.check then s.tbNext h id c (ks.length + 1)
        else ks.foldl (fun (s : State) k => s.sendGet h id c k.1 k.2.1 k.2.2.1 false) s).fabCheck id

/-! ### Receiving (R277, R278) -/

/-- A request to context c is admitted (R277, R369). -/
def State.admits (s : State) (k : Pkt) : Bool :=
  let c := k.dstCtx.toNat
  let mode := s.fld .ngfCtxCtrl c 1 0
  !(s.ctx c).terminated
    && (mode == 2 || (mode == 1 && (List.range (s.members c)).any fun r => (s.member c r).2 == k.srcPart.toNat))

/-- The response to a request (R279). -/
def State.respPkt (s : State) (k : Pkt) (status : Nat) (payload : List Byte) (pois : Nat) : Pkt where
  cls := 1
  pver := 1
  fop := 0x04
  dstPart := k.srcPart
  srcPart := BitVec.ofNat 16 s.ownPart
  dstCtx := k.srcCtx
  srcCtx := k.dstCtx
  seq := k.seq
  tagSlot := k.tagSlot
  status := BitVec.ofNat 8 status
  poison := BitVec.ofNat 8 pois
  w4 := 0
  w5 := 0
  w6 := 0
  payload := payload
  ecrc := 0

/-- The response goes now, or once the stores that wait for a step copy have landed (R244, R281). -/
def State.respondWhenLanded (s : State) (id : Nat) (k : Pkt) : State :=
  if s.waitingStores id then s.updFab fun f => { f with late := f.late ++ [(id, k)] } else s.respond k

/-- Responses whose stores have landed. -/
def State.sendLate (s : State) : State :=
  let ready := s.fab.late.filter fun e => !s.waitingStores e.1
  let s := s.updFab fun f => { f with late := f.late.filter fun e => !(ready.any fun r => r.1 == e.1) }
  ready.foldl (fun (s : State) e => s.respond e.2) s

/-- Perform at the target a request that arrived at an instant: `body` answers when it is admitted (R277, R282). -/
def State.serve (s : State) (port : Nat) (k : Pkt) (time : Nat) (body : State → State) : State :=
  if s.seen k then s.ackE2e k false
  else
    let s := ((s.markSeen k).ackE2e k false).lanReceive port k time
    if !s.admits k then
      (s.orReg .ngfCtxErr k.dstCtx.toNat 2).respond (s.respPkt k St.fabricDenied [] 0)
    else body s

/-- A read at the target is made and answered. -/
def State.answerRead (s : State) (k : Pkt) : State :=
  let r := s.remoteRead k.dstCtx.toNat (Pkt.addr k) k.w6.toNat
  s.respond (s.respPkt k r.1 r.2.1 r.2.2)

/-- A read at the target; where its bytes lie on flash, once they are read (R223). -/
def State.serveRead (s : State) (port : Nat) (k : Pkt) (time : Nat) : State :=
  s.serve port k time fun s =>
    s.slowRead k.dstCtx.toNat (Pkt.addr k) k.w6.toNat (.remote k) fun s => s.answerRead k

/-- The flash reads of a read of the fabric side are over (R223). -/
def State.slowDone (s : State) (id : Nat) : State :=
  match s.fab.slow.find? fun x => x.1 == id with
  | none => s
  | some x =>
    if s.reading id then s
    else
      let s := s.updFab fun f => { f with slow := f.slow.filter fun y => y.1 != id }
      match x.2 with
      | .own w => (s.ownRead w).fabFollow w.flight
      | .remote k => s.answerRead k

/-- A write at the target. -/
def State.serveWrite (s : State) (port : Nat) (k : Pkt) (time : Nat) : State :=
  s.serve port k time fun s =>
    let id := s.nextId
    let s := { s with nextId := id + 1 }
    let r := s.remoteWrite id k.dstCtx.toNat (Pkt.addr k) (k.payload.take k.w6.toNat) k.poison.toNat
    r.2.respondWhenLanded id (s.respPkt k r.1 [] 0)

/-- An atomic at the target. -/
def State.serveAtomic (s : State) (port : Nat) (k : Pkt) (time : Nat) : State :=
  s.serve port k time fun s =>
    let id := s.nextId
    let s := { s with nextId := id + 1 }
    let r := s.remoteAtomic id k.dstCtx.toNat (Pkt.addr k) (k.status.toNat % 4) (ofLeBytes (k.payload.take 8))
      (ofLeBytes ((k.payload.drop 8).take 8))
    r.2.2.2.respondWhenLanded id (s.respPkt k r.1 (if r.1 == St.ok then leBytes 8 r.2.1 else []) r.2.2.1)

/-- A transaction of the part awaits this response (R275). -/
def State.expects (s : State) (k : Pkt) : Bool :=
  s.fab.txns.any fun t => t.tag == k.tagSlot.toNat && t.partner == k.srcPart.toNat && t.kind != .coll

/-- A response reaches its command (R275, R282). -/
def State.takeResponse (s : State) (k : Pkt) : State :=
  let tag := k.tagSlot.toNat
  let from? := k.srcPart.toNat
  match s.fab.txns.find? fun t => t.tag == tag && t.partner == from? && t.kind != .coll with
  | none => s
  | some t =>
    let e := s.ept from?
    let ended := fun (u : Unacked) => u.pkt.cls == 0 && u.pkt.tagSlot == k.tagSlot
    let s := s.setEpt from? { e with unacked := e.unacked.filter fun u => !ended u }
    let s := (e.unacked.filter ended).foldl (fun (s : State) u => s.dropQueued u.pkt) s
    let s := s.freeTag tag
    match s.flightOf t.flight with
    | none => s
    | some f =>
      if k.status.toNat != St.ok then s.fabFail f.id k.status.toNat 0
      else
        let s := match t.kind with
          | .get dst head => s.getData f (poisonedLine t.addr k.poison.toNat) dst head (k.payload.take t.len) k.poison.toNat
          | .put => s.updFlight f.id fun f => { f with made := true }
          | .atomic old => s.oldValue f t.addr old (ofLeBytes (k.payload.take 8)) k.poison.toNat
          | .coll | .mgmt => s
        s.fabFollow f.id

/-- A read request arrives (R279, R282). -/
def execFabReadRequest (port : BitVec 5) (pkt : Pkt) (s : State) : Out :=
  s.packetRow port.toNat pkt 0 0x01 fun t => t.serveRead port.toNat pkt s.now

/-- A write request arrives (R282). -/
def execFabWriteRequest (port : BitVec 5) (pkt : Pkt) (s : State) : Out :=
  s.packetRow port.toNat pkt 0 0x02 fun t => t.serveWrite port.toNat pkt s.now

/-- An atomic request arrives (R279). -/
def execFabAtomicRequest (port : BitVec 5) (pkt : Pkt) (s : State) : Out :=
  s.packetRow port.toNat pkt 0 0x03 fun t => t.serveAtomic port.toNat pkt s.now

/-! ### Acknowledgement and retransmission (R275, R340) -/

def retxNs : Nat := 100000

/-- An acknowledged packet: a collective packet's transaction ends with it. -/
def State.acked (s : State) (u : Unacked) : State :=
  if u.pkt.cls == 2 then s.freeColl u.flight u.pkt.dstPart.toNat else s

/-- The eighth retransmission went unacknowledged: ST_FABRIC_TIMEOUT for a packet of a transaction, and
EV_FABRIC_UNREACHABLE (R275). -/
def State.unreachable (s : State) (n : Nat) (u : Unacked) : State :=
  let e := s.ept n
  let s := s.setEpt n { e with
    unacked := e.unacked.filter fun x => x.seq != u.seq, gone := NatSet.ins u.seq e.gone }
  let s := s.dropQueued u.pkt
  let s := s.raise 0x0505 2 (some u.pkt.srcCtx.toNat) anchorDie [BitVec.ofNat 32 n]
  if u.pkt.cls == 2 then (s.acked u).collFault u.flight St.fabricTimeout
  else if u.pkt.cls == 3 then s
  else (s.freeTag u.pkt.tagSlot.toNat).fabFail u.flight St.fabricTimeout 0

/-- The retransmission timer of a packet has expired (R275). -/
def State.retxExpired (s : State) (n seq : Nat) : State :=
  match s.unacked n seq with
  | none => s
  | some u => if 8 ≤ u.retx then s.unreachable n u else s.resend n seq true

/-- The acknowledgement of a packet. -/
def isAckOf (n : BitVec 16) (seq : W32) (i : Instr) : Bool := i == .e2eAck n seq

/-- 100 µs without acknowledgement (R275); an acknowledgement of the same cycle wins (R340). -/
def execE2eRetxTimeout (partner : BitVec 16) (seq : W32) (s : State) : Out :=
  match s.unacked partner.toNat seq.toNat with
  | none => .next s
  | some u =>
    if decide (s.now < u.sentAt + retxNs) then .next s
    else .next (s.expire (.e2eRetxTimeout partner seq) (u.sentAt + retxNs) (isAckOf partner seq) fun s =>
      s.retxExpired partner.toNat seq.toNat)

/-- A waiting fabric command proceeds once a transaction is free (R276). -/
def execTxnSlotFree (s : State) : Out :=
  match s.fab.waiting.find? fun w => !s.fenced w.flight with
  | none => .next s
  | some w =>
    if !s.txnFree then .next s
    else
      let s := s.updFab fun f => { f with waiting := dropFirst (fun x => x == w) f.waiting }
      if w.partner == s.ownPart && w.kind != .coll then .next ((s.serveOwn w).fabFollow w.flight)
      else .next (s.launch w)

/-! ### Step copies (R244) -/

/-- The step copy of a page finishes: the page is mapped to its new frame and the waiting writes land (R244); after a part
fault no remote request is answered (R370). -/
def execStepCopyDone (ctx : BitVec 6) (page : BitVec 24) (s : State) : Out :=
  let t := s.stepCopyDone ctx.toNat page.toNat
  .next (if t.boot.partFault then t else t.sendLate)

end Sys2Proof.Machine
end

