-- ==== Sys2Proof/Machine/Coll.lean ====
section
/-! DEFINITION. The collectives (R283 to R298): descriptors, the four phases, slot decisions and deadlines, the
early-arrival region, ranks that are out; and the end of fabric packets (acknowledgement, response, endpoint fill), which
collective packets share. -/

namespace Sys2Proof.Machine

open Sys2Proof

/-! ### Buckets and descriptors (R283 to R287) -/

def CollS.nRed (x : CollS) : Nat := x.reducers.length

/-- Elements of a shard but the last ones: h = ceil(n / N). -/
def CollS.share (x : CollS) : Nat := ceilDiv x.n x.nRed

def CollS.shardLen (x : CollS) (i : Nat) : Nat := min x.n ((i + 1) * x.share) - i * x.share

/-- The own reducer index. -/
def CollS.index (x : CollS) : Option Nat := x.reducers.findIdx? fun r => r == x.rank

/-- The slots that a rank holds, and whether as backup. -/
def CollS.heldBy (x : CollS) (r : Nat) : List (Nat × Bool) :=
  (List.range x.slots.length).filterMap fun k =>
    let p := nth (0, 0) x.slots k
    if p.1 == r then some (k, false) else if p.2 == r then some (k, true) else none

/-- Every rank of the descriptor. -/
def CollS.ranks (x : CollS) : List Nat := (x.reducers ++ x.slots.flatMap fun p => [p.1, p.2]).eraseDups

/-- A rank is out for the bucket (R293). -/
def State.isOut (s : State) (x : CollS) (r : Nat) : Bool := x.out.contains r || (s.ctx x.ctx).fence.contains r

/-- The root: the first reducer that is not out, from b mod N on (R287, R293). -/
def State.collRoot (s : State) (x : CollS) : Option Nat :=
  ((List.range x.nRed).map fun j => (x.bucket + j) % x.nRed).find? fun i => !s.isOut x (nth 0 x.reducers i)

/-- Bytes of an element of a format. -/
def fmtBytes (t : Nat) : Nat := match Fmt.ofCode (t % 256) with | some f => f.ebits / 8 | none => 0

def fmtValue (t b : Nat) : Fv := match Fmt.ofCode (t % 256) with | some f => f.value b | none => .nan

/-- Element i of a vector in local memory. -/
def State.elemAt (s : State) (c t base i : Nat) : Fv :=
  let w := fmtBytes t
  fmtValue t (ofLeBytes (s.rdVa c (base + i * w) w))

/-- The descriptor at a local address (R283): reducers and slots; none where it breaks a rule of R283. -/
def State.readDesc (s : State) (c a : Nat) : Option (List Nat × List (Nat × Nat)) :=
  let n := (s.rd32 c a).toNat
  let k := (s.rd32 c (a + 4)).toNat
  if n == 0 || decide (65536 < n) || k == 0 || decide (65536 < k) then none
  else
    let rs := (List.range n).map fun j => (s.rd32 c (a + 8 + 4 * (j / 2))).toNat / 65536 ^ (j % 2) % 65536
    let b := a + 8 + 4 * ceilDiv n 2
    let ss := (List.range k).map fun j =>
      let w := (s.rd32 c (b + 4 * j)).toNat
      (w / 65536, w % 65536)
    let m := s.members c
    if decide rs.Nodup && (rs.all fun r => decide (r < m)) && (ss.all fun p => decide (p.1 < m) && decide (p.2 < m)) then
      some (rs, ss)
    else none

/-- Bytes of the descriptor. -/
def State.descBytes (s : State) (c a : Nat) : Nat :=
  8 + 4 * ceilDiv (s.rd32 c a).toNat 2 + 4 * (s.rd32 c (a + 4)).toNat

/-- The checks of a descriptor (R283, R284): an address, then its contents. -/
def State.chkDesc (s : State) (c : Nat) (a : W64) : Option Err :=
  let x := a.toNat
  firstErr [chkAlign 11 a 64, s.chkRead c 11 a 8,
    errIf (decide (65536 < (s.rd32 c x).toNat) || decide (65536 < (s.rd32 c (x + 4)).toNat)) (Err.state St.badField),
    s.chkRead c 11 a (s.descBytes c x),
    match s.readDesc c x, s.ownRank c with
    | some d, some r => errIf (!(d.1.contains r) && !(d.2.any fun p => p.1 == r || p.2 == r)) (Err.state St.badField)
    | _, _ => some (Err.state St.badField)]

/-! ### The bucket's state -/

/-- The bucket of a context with a key (CollS.key). -/
def State.coll (s : State) (c b : Nat) : Option CollS := s.colls.find? fun x => x.ctx == c && x.key == b

/-- Apply to the bucket, where it exists. -/
def State.withColl (s : State) (c b : Nat) (f : CollS → State) : State :=
  match s.coll c b with
  | some x => f x
  | none => s

/-- The collective engine works on a bucket: it has begun the command and holds its grant (R356, R358, R365). -/
def State.collRuns (s : State) (x : CollS) : Bool := x.begun && s.grantedTo x.die .coll

/-- A deadline of the bucket, from the first arrival of its phase (R288). -/
def CollS.expiry (x : CollS) (t0 : Option Nat) : Option Nat :=
  if x.deadlineUs == 0 then none else t0.map fun t => t + 1000 * x.deadlineUs

/-- The step has a missing slot or an unreduced shard in this bucket (R288, R293). -/
def State.collMissing (s : State) (c b : Nat) : State :=
  s.withColl c b fun x =>
    if x.found then s
    else
      let s := s.updColl c b fun x => { x with found := true }
      (s.updCtx c fun y => { y with reductionMissing := true }).raise 0x0506 2 (some c) x.die []

/-- Count n packets as late (R288). -/
def State.countLate (s : State) (c b n : Nat) : State :=
  if n == 0 then s else (s.bump .ngfRedLate c n).updColl c b fun x => { x with late := x.late + n }

/-- Count a packet as late; `timer`: it missed a deadline (R340). -/
def State.collLate (s : State) (c b : Nat) (timer : Bool) : State :=
  let s := s.countLate c b 1
  if timer then s.lateDrop else s

/-! ### Packets (R278, R290) -/

/-- The step tag of a context (R290). -/
def State.stepTag (s : State) (c : Nat) : Nat × Nat :=
  ((s.epoch c).toNat % 2 ^ 32 + 1) % 2 ^ 32 |> fun e => (e, min 255 (s.ctx c).attempt)

/-- A collective packet of the bucket to a rank. -/
def State.collPkt (s : State) (x : CollS) (rank phase slot off : Nat) (payload : List Byte) (pois : Nat) : Pkt where
  cls := 2
  pver := 1
  fop := BitVec.ofNat 8 (0x0F + phase)
  dstPart := BitVec.ofNat 16 (s.member x.ctx rank).2
  srcPart := BitVec.ofNat 16 s.ownPart
  dstCtx := BitVec.ofNat 6 x.ctx
  srcCtx := BitVec.ofNat 6 x.ctx
  seq := 0
  tagSlot := BitVec.ofNat 16 slot
  status := 0
  poison := BitVec.ofNat 8 pois
  w4 := BitVec.ofNat 32 (s.stepTag x.ctx).1
  w5 := BitVec.ofNat 32 ((s.stepTag x.ctx).2 * 2 ^ 24 + phase * 2 ^ 20 + x.bucket)
  w6 := BitVec.ofNat 32 off
  payload := payload
  ecrc := 0

/-- Send a packet; nothing goes to a rank that is out (R293, R299), nor after a fault. -/
def State.collSend (s : State) (x : CollS) (rank phase slot off : Nat) (payload : List Byte) (pois : Nat) : State :=
  if s.isOut x rank || !s.running x.flight then s
  else s.request ⟨x.flight, (s.member x.ctx rank).2, s.collPkt x rank phase slot off payload pois, .coll, x.lantern⟩

def Pkt.phase (k : Pkt) : Nat := k.w5.toNat / 2 ^ 20 % 16
def Pkt.bucket (k : Pkt) : Nat := k.w5.toNat % 2 ^ 20

/-- The key of the bucket that a packet belongs to: phase 4 belongs to a gather (R287, R298). -/
def Pkt.key (k : Pkt) : Nat := Pkt.bucket k + if Pkt.phase k == 4 then 1048576 else 0

/-- The payload of phase 1 (R287): exponent, absent and non-finite flags, CRC. -/
def ExpMsg.bytes (m : ExpMsg) (crc : W32) : List Byte :=
  leBytes 2 (BitVec.ofInt 16 (m.exp.getD 0)).toNat
  ++ leBytes 2 ((if m.exp.isNone then 1 else 0) + (if m.nonfinite then 2 else 0)) ++ leBytes 4 crc.toNat

def ExpMsg.ofBytes (bs : List Byte) : ExpMsg :=
  let fl := ofLeBytes ((bs.drop 2).take 2)
  ⟨if fl % 2 == 1 then none else some (BitVec.ofNat 16 (ofLeBytes (bs.take 2))).toInt, fl / 2 % 2 == 1⟩

/-- Bits as bytes, the first the least significant. -/
def bitsToBytes (bs : List Bool) : List Byte :=
  (List.range (ceilDiv bs.length 8)).map fun i =>
    BitVec.ofNat 8 ((((bs.drop (8 * i)).take 8).mapIdx fun j b => if b then 2 ^ j else 0).sum)

/-- Bits of slots and shards per phase-2 packet. -/
def scaleSpan : Nat := 4032

/-- The offsets of the phase-2 packets. -/
def CollS.scaleOffs (x : CollS) : List Nat :=
  (List.range (ceilDiv (x.slots.length + x.nRed) scaleSpan)).map fun i => scaleSpan * i

/-- For each slot whether it was missing, then for each shard whether it is unreduced (R287, R293). -/
def CollS.scaleBits (x : CollS) : List Bool :=
  ((List.range x.slots.length).map fun k => x.missing.contains k)
  ++ (List.range x.nRed).map fun i => x.unreduced.contains i

def CollS.scalePayload (x : CollS) (off : Nat) : List Byte :=
  leBytes 4 (BitVec.ofInt 32 x.scale).toNat
  ++ leBytes 4 ((if x.nonfinite then 1 else 0) + (if x.mismatch then 2 else 0))
  ++ bitsToBytes ((x.scaleBits.drop off).take scaleSpan)

/-! ### Slot decisions (R288, R293) -/

/-- Decide a slot: `passed`: the deadline has passed; whether the primary's and the backup's contribution is complete,
and whether the backup's has begun. A primary whose rank is out counts as absent (R288, R293). -/
def State.decideSlot (s : State) (x : CollS) (k : Nat) (passed prim back begun : Bool) : SlotTaken :=
  let p := nth (0, 0) x.slots k
  let named := p.1 != p.2
  if s.isOut x p.1 then
    if !named then .missing
    else if back then .backup
    else if s.isOut x p.2 || (passed && !begun) then .missing
    else .undecided
  else if prim then .primary
  else if passed then
    if !named then .missing
    else if back then .backup
    else if begun && !s.isOut x p.2 then .undecided
    else .missing
  else .undecided

def CollS.setExp (x : CollS) (k : Nat) (e : ExpSlot) : CollS :=
  { x with exps := Map.set (fun _ => ExpSlot.none) x.exps k e }
def CollS.setCon (x : CollS) (k : Nat) (e : CollSlot) : CollS :=
  { x with cons := Map.set (fun _ => CollSlot.none) x.cons k e }

/-- The pieces hold a whole shard. -/
def piecesDone (len : Nat) (ps : List CollPiece) : Bool := decide (len ≤ (ps.map fun p => p.vals.length).sum)

/-- Every slot at the root, decided as far as it can be. -/
def State.decideExps (s : State) (x : CollS) : CollS :=
  (List.range x.slots.length).foldl (fun (x : CollS) k =>
    let e := x.expSlot k
    if e.taken != .undecided then x
    else x.setExp k { e with taken := s.decideSlot x k x.expPassed e.prim.isSome e.back.isSome e.back.isSome }) x

/-- The slots that phase 2 reported missing are missing at a reducer, what it had taken of them too (R288). -/
def CollS.dropMissing (x : CollS) : CollS :=
  x.missing.foldl (fun (x : CollS) k => x.setCon k { x.conSlot k with taken := .missing }) x

/-- Every slot at a reducer, decided as far as it can be. -/
def State.decideCons (s : State) (x : CollS) (len : Nat) : CollS :=
  (List.range x.slots.length).foldl (fun (x : CollS) k =>
    let e := x.conSlot k
    if e.taken != .undecided then x
    else
      let t := s.decideSlot x k x.conPassed (piecesDone len e.prim) (piecesDone len e.back) (!e.back.isEmpty)
      x.setCon k { e with taken := t }) x.dropMissing

/-- Backup packets that came before their slot's primary was taken: the decision from x to y discards them (R288). -/
def CollS.lateExps (x y : CollS) : Nat :=
  ((List.range x.slots.length).filter fun k =>
    (x.expSlot k).taken == .undecided && (y.expSlot k).taken == .primary && (x.expSlot k).back.isSome).length
def CollS.lateCons (x y : CollS) : Nat :=
  ((List.range x.slots.length).map fun k =>
    if (x.conSlot k).taken == .undecided && (y.conSlot k).taken == .primary then (x.conSlot k).back.length else 0).sum

/-! ### The sum at a reducer (R286, R294, R295) -/

/-- Values of a shard from its pieces. -/
def pieceVals (len : Nat) (ps : List CollPiece) : List Int :=
  (List.range len).map fun i =>
    match ps.find? fun p => decide (p.off ≤ i) && decide (i < p.off + p.vals.length) with
    | some p => (nth 0 p.vals (i - p.off)).toInt
    | none => 0

/-- Elements of a shard that lie in poisoned payload lines. -/
def piecePois (len : Nat) (ps : List CollPiece) : List Bool :=
  (List.range len).map fun i =>
    ps.any fun p => decide (p.off ≤ i) && decide (i < p.off + p.vals.length) && p.pois / 2 ^ ((i - p.off) / 16) % 2 == 1

/-- The pieces that a decided slot adds. -/
def CollSlot.pieces (e : CollSlot) : List CollPiece :=
  match e.taken with
  | .primary => e.prim
  | .backup => e.back
  | _ => []

/-- What y = S · 2^s writes in a format (R286). -/
def reducedWrite (t : Nat) (scale sum : Int) : Wrote :=
  let v := Fv.mul (Fv.ofInt sum) (.fin false (pow2 scale))
  match Fmt.ofCode (t % 256) with
  | some f => (match f.scalar with | some l => l.write v .rne | none => ⟨0, false, false⟩)
  | none => ⟨0, false, false⟩

/-- The canonical NaN of a format (R48). -/
def nanOf (t : Nat) : Nat :=
  match Fmt.ofCode (t % 256) with
  | some f => (match f.scalar with | some l => l.canonNan | none => 0)
  | none => 0

/-- Store bytes of a flight, each line with a mark where `bad` names one of its bytes; and how many of them are stored,
those before an access that is refused (R203). A store that waits for a step copy counts as made (DESIGN CHOICE, log
entry 105). -/
def State.storeMade (s : State) (id c a : Nat) (bs : List Byte) (bad : Nat → Bool) : Nat × State :=
  (storePieces a bs).foldl (fun (q : Nat × State) p =>
    let s := q.2.storePiece id c p.1 p.2 ((List.range p.2.length).any fun i => bad (p.1 - a + i))
    (if s.running id then q.1 + p.2.length else q.1, s)) (0, s)

/-- Store bytes of a flight, each line with a mark where `bad` names one of its bytes. -/
def State.storeMarked (s : State) (id c a : Nat) (bs : List Byte) (bad : Nat → Bool) : State :=
  (s.storeMade id c a bs bad).2

def CollS.count (x : CollS) (t : SlotTaken) : Nat :=
  ((List.range x.slots.length).filter fun k => (x.conSlot k).taken == t).length

/-- The reduction record and its slot map (R294). -/
def CollS.record (x : CollS) : List Byte :=
  let code := fun k => match (x.conSlot k).taken with | .backup => 1 | .missing => 2 | _ => 0
  leBytes 4 x.bucket ++ leBytes 4 (BitVec.ofInt 32 x.scale).toNat ++ leBytes 4 (x.count .primary)
  ++ leBytes 4 (x.count .backup) ++ leBytes 4 (x.count .missing) ++ leBytes 4 x.late ++ leBytes 4 x.unreduced.length
  ++ List.replicate 36 0
  ++ (List.range (ceilDiv x.slots.length 16)).flatMap fun i =>
      leBytes 4 (((List.range 16).map fun j =>
        if 16 * i + j < x.slots.length then code (16 * i + j) * 4 ^ j else 0).sum)

/-- Write the record; backups are counted and reported once (R294). -/
def State.writeCollRecord (s : State) (c b : Nat) : State :=
  s.withColl c b fun x =>
    let s := s.store x.flight c x.recAddr x.record false
    let s := if x.count .backup == 0 then s
      else (s.bump .ngfRedBackup c (x.count .backup)).raise 0x0507 0 (some c) x.die []
    let s := if x.count .missing == 0 then s else s.collMissing c b
    s.updColl c b fun x => { x with written := true }

/-- Write the shard and the record (R286, R294, R295). -/
def State.writeShard (s : State) (c b len : Nat) : State :=
  s.withColl c b fun x =>
    let w := fmtBytes x.typeOut
    let slots := (List.range x.slots.length).map fun k => (x.conSlot k).pieces
    let sums := slots.foldl (fun (acc : List Int) ps => List.zipWith (fun a b => a + b) acc (pieceVals len ps))
      (List.replicate len 0)
    let bad := slots.foldl (fun (acc : List Bool) ps => List.zipWith (fun a b => a || b) acc (piecePois len ps))
      (List.replicate len false)
    let ys := sums.map fun v => reducedWrite x.typeOut x.scale v
    let q := s.storeMade x.flight c x.outAddr (ys.flatMap fun y => leBytes w y.pat) fun i => nth false bad (i / w)
    let made := ys.take (q.1 / w)
    let s := if made.any fun y => y.nonfinite then q.2.updCtx c fun y => { y with nonfinite := true } else q.2
    let s := s.bump .vwmLcSat x.die (made.filter fun y => y.saturated).length
    s.writeCollRecord c b

/-- A reducer decides its slots as packets and the deadline come; once all are decided it writes, when the scale is in force
and its engine runs (R288, R292, R356). -/
def State.reducerCheck (s : State) (c b : Nat) : State :=
  s.withColl c b fun x =>
    match x.index with
    | none => s
    | some i =>
      if x.nonfinite || x.written || x.done || x.gather then s
      else
        let y := s.decideCons x (x.shardLen i)
        let s := (s.updColl c b fun _ => y).countLate c b (x.lateCons y)
        if y.begun && y.sent && s.collRuns y && (List.range y.slots.length).all fun k => (y.conSlot k).taken != .undecided then
          s.writeShard c b (y.shardLen i)
        else s

/-! ### Completion (R292) -/

/-- Packets of phases 1, 3 and 4 of a command that are neither acknowledged nor discarded. -/
def State.collUnsent (s : State) (id : Nat) : Bool :=
  let mine := fun (k : Pkt) => k.cls == 2 && Pkt.phase k != 2
  (s.fab.epts.any fun e => e.2.unacked.any fun u => u.flight == id && mine u.pkt)
  || (s.fab.waiting.any fun w => w.flight == id && mine w.pkt)
  || s.fab.missOut.any fun w => w.flight == id && mine w.pkt

/-- The command's part is over (R292). -/
def CollS.ready (x : CollS) : Bool :=
  x.begun && x.sent && x.redo.isEmpty && (if x.gather then (List.range x.nRed).all fun i =>
      x.unreduced.contains i || Map.get (fun _ => 0) x.got i == x.shardLen i
    else match x.index with
      | none => true
      | some i => x.written || x.unreduced.contains i)

/-- Complete the command when its part is over, or when it has faulted. -/
def State.collCheck (s : State) (c b : Nat) : State :=
  s.withColl c b fun x =>
    if x.done then s.armDie x.die
    else if !s.running x.flight then
      ((s.finishLater x.flight).updColl c b fun x => { x with done := true }).armDie x.die
    else if x.ready && !s.collUnsent x.flight then
      let s := if x.found then s.outcome x.flight St.reduceMissing 0 0 else s
      ((s.finishLater x.flight).updColl c b fun x => { x with done := true }).armDie x.die
    else s.armDie x.die

/-- Every reducer is out: the command completes at once (R293). -/
def State.allOut (s : State) (c b : Nat) : State :=
  s.withColl c b fun x =>
    let s := s.updCtx c fun y => { y with reductionMissing := true }
    ((s.outcome x.flight St.reduceMissing 0 0).finishLater x.flight).updColl c b fun x => { x with done := true }

/-! ### Phase 3 (R287) -/

/-- A piece of a slot reaches this reducer at an instant: a primary's, and the first of a backup, count until the deadline of the
bucket (R288). -/
def State.conArrive (s : State) (c b k : Nat) (backup : Bool) (p : CollPiece) (time : Nat) : State :=
  s.withColl c b fun x =>
    match x.index with
    | none => s
    | some i =>
      let e := x.conSlot k
      let len := x.shardLen i
      let expiry := x.expiry x.conAt
      let passed := expiry.any fun t => decide (t < time)
      let closed := x.written || x.done || e.taken != .undecided
      if x.nonfinite || p.vals.isEmpty then s
      else if backup then
        if closed || (passed && e.back.isEmpty) then s.collLate c b (e.taken == .missing || !closed)
        else
          s.updColl c b fun x => { (x.setCon k { e with back := e.back ++ [p] }) with conAt := some (x.conAt.getD time) }
      else if closed || passed then s.collLate c b (passed || e.taken == .backup || e.taken == .missing)
      else
        let s := s.updColl c b fun x => { (x.setCon k { e with prim := e.prim ++ [p] }) with conAt := some (x.conAt.getD time) }
        if piecesDone len (e.prim ++ [p]) && expiry == some time then s.lateClose else s

/-- Cut a shard: (offset, elements). -/
def pieceCuts (len per : Nat) : List (Nat × Nat) :=
  (List.range (ceilDiv len per)).map fun i => (per * i, min per (len - per * i))

/-- One element converted at the shared scale (R286). -/
def sharedInt (v : Fv) (scale : Int) : W32 :=
  BitVec.ofInt 32 (clampInt (-(2 ^ 31)) (2 ^ 31 - 1) (roundInt (Fv.mul v (.fin false (pow2 (-scale)))) .rne))

/-- A piece of the own partial for shard i (R286, R295). -/
def State.ownPiece (s : State) (x : CollS) (i off k : Nat) : CollPiece :=
  let w := fmtBytes x.typeIn
  let first := i * x.share + off
  let bad := fun j => s.vaPoisoned x.ctx (x.partAddr + (first + j) * w)
  { off := off
    vals := (List.range k).map fun j => sharedInt (s.elemAt x.ctx x.typeIn x.partAddr (first + j)) x.scale
    pois := ((List.range (ceilDiv k 16)).map fun l =>
      if (List.range (min 16 (k - 16 * l))).any fun j => bad (16 * l + j) then 2 ^ l else 0).sum }

/-- The own contribution to shard i, for every slot held: to its reducer, or locally for the own shard. Each piece of the
partial is checked when it is read; a fault ends the contribution (R203). -/
def State.sendShard (s : State) (x : CollS) (i : Nat) : State :=
  let rank := nth 0 x.reducers i
  if x.unreduced.contains i || s.isOut x rank then s
  else (x.heldBy x.rank).foldl (fun (s : State) h =>
    (pieceCuts (x.shardLen i) 128).foldl (fun (s : State) p =>
      let o := s.ownPiece x i p.1 p.2
      let w := fmtBytes x.typeIn
      let s := (s.load x.flight x.ctx (x.partAddr + (i * x.share + p.1) * w) (p.2 * w)).2.2
      if !s.running x.flight then s
      else if rank == x.rank then s.conArrive x.ctx x.key h.1 h.2 o s.now
      else (s.deep x.die Dc.collElems 0 x.ctx p.2).collSend x rank 3 h.1 p.1 (wordsToBytes o.vals) o.pois) s) s

/-- A non-finite slot: every reducer writes its whole shard as NaN, and the record (R287), in which a slot that phase 3 had not
decided counts for nothing and has code 0 (R294; DESIGN CHOICE, log entry 107). -/
def State.writeNan (s : State) (c b : Nat) : State :=
  s.withColl c b fun x =>
    match x.index with
    | none => s
    | some i =>
      if x.written then s
      else
        let s := s.updCtx c fun y => { y with nonfinite := true }
        let bs := (List.range (x.shardLen i)).flatMap fun _ => leBytes (fmtBytes x.typeOut) (nanOf x.typeOut)
        ((s.store x.flight c x.outAddr bs false).updColl c b CollS.dropMissing).writeCollRecord c b

/-- The scale is in force: phase 3 begins, while the engine runs (R287, R356). -/
def State.applyScale (s : State) (c b : Nat) : State :=
  s.withColl c b fun x =>
    if x.sent || x.done || !s.collRuns x then s
    else if x.mismatch then s.collFault x.flight St.collMismatch
    else
      let s := s.updColl c b fun x => { x with sent := true }
      let s := if x.unreduced.isEmpty then s else s.collMissing c b
      if x.nonfinite then s.writeNan c b
      else
        let r := x.index.getD 0
        ((List.range x.nRed).foldl (fun (s : State) j => s.sendShard x ((r + 1 + j) % x.nRed)) s).reducerCheck c b

/-! ### Phases 1 and 2 (R285, R287) -/

/-- Send the scale to every other rank, and apply it here. -/
def State.sendScale (s : State) (c b : Nat) : State :=
  s.withColl c b fun x =>
    let s := (x.ranks.filter fun r => r != x.rank).foldl (fun (s : State) r =>
      x.scaleOffs.foldl (fun (s : State) off => s.collSend x r 2 0 off (x.scalePayload off) 0) s) s
    s.applyScale c b

/-- The message that a decided slot contributes. -/
def ExpSlot.msg (e : ExpSlot) : Option ExpMsg :=
  match e.taken with
  | .primary => e.prim
  | .backup => e.back
  | _ => .none

/-- The scale from the slots taken: E_max - 29, and 0 when every exponent is absent (R285). -/
def scaleOf (ms : List ExpMsg) : Int :=
  match (ms.filterMap fun m => m.exp) with
  | [] => 0
  | e :: t => t.foldl max e - 29

/-- The root decides its slots as packets and the deadline come, and once all are decided forms the scale, when its engine has
begun the command and runs (R285, R288, R293, R356). -/
def State.rootCheck (s : State) (c b : Nat) : State :=
  s.withColl c b fun x =>
    if x.rootDone || x.done || x.gather || x.index.isNone then s
    else if x.expAt.isNone && s.collRoot x != x.index then s
    else
      let y := s.decideExps x
      let s := (s.updColl c b fun _ => y).countLate c b (x.lateExps y)
      let ks := List.range y.slots.length
      if !y.begun || !s.collRuns y || ks.any fun k => (y.expSlot k).taken == .undecided then s
      else
        let ms := ks.filterMap fun k => (y.expSlot k).msg
        let missing := ks.filter fun k => (y.expSlot k).taken == .missing
        let unreduced := (List.range y.nRed).filter fun i => s.isOut y (nth 0 y.reducers i)
        let s := s.updColl c b fun x => { x with
          rootDone := true, scale := scaleOf ms, nonfinite := ms.any fun m => m.nonfinite
          missing := missing, unreduced := unreduced }
        let s := if missing.isEmpty && unreduced.isEmpty then s else s.collMissing c b
        s.sendScale c b

/-- A phase-1 message of a slot reaches the root at an instant (R287, R288). -/
def State.expArrive (s : State) (c b k : Nat) (backup : Bool) (m : ExpMsg) (crc : W32) (time : Nat) : State :=
  s.withColl c b fun x =>
    let e := x.expSlot k
    let expiry := x.expiry x.expAt
    let passed := expiry.any fun t => decide (t < time)
    let closed := x.rootDone || x.done || e.taken != .undecided
    if x.index.isNone then s
    else if closed || passed then
      s.collLate c b (e.taken == .missing || !closed || !backup && (passed || e.taken == .backup))
    else
      let s := s.updColl c b fun x =>
        { (x.setExp k (if backup then { e with back := some m } else { e with prim := some m })) with
          expAt := some (x.expAt.getD time) }
      let s := if !backup && expiry == some time then s.lateClose else s
      if crc == x.crc then s
      else
        let s := s.updColl c b fun x => { x with rootDone := true, mismatch := true }
        if s.collRuns x then s.sendScale c b else s

/-- Send the own phase-1 message of a slot to the root, or take it locally; with no root the command completes
(R287, R293). -/
def State.sendExp (s : State) (c b k : Nat) (backup : Bool) : State :=
  s.withColl c b fun x =>
    match s.collRoot x with
    | none => s.allOut c b
    | some i =>
      if x.index == some i then s.expArrive c b k backup x.own x.crc s.now
      else s.collSend x (nth 0 x.reducers i) 1 k 0 (x.own.bytes x.crc) 0

/-- The scale has arrived whole, or says that the commands differ (R287). -/
def CollS.scaled (x : CollS) : Bool := x.mismatch || (x.scaleOffs.all fun o => x.scaleGot.contains o)

/-- A phase-2 packet (R287). -/
def State.scaleArrive (s : State) (c b off : Nat) (bs : List Byte) : State :=
  s.withColl c b fun x =>
    if x.sent || x.done || x.gather then s
    else
      let fl := ofLeBytes ((bs.drop 4).take 4)
      let total := x.slots.length + x.nRed
      let bit := fun i => (ofLeBytes ((bs.drop (8 + i / 8)).take 1)) / 2 ^ (i % 8) % 2 == 1
      let here := ((List.range (min scaleSpan (total - off))).filter bit).map fun i => off + i
      let miss := here.filter fun i => decide (i < x.slots.length)
      let unred := (here.filter fun i => decide (x.slots.length ≤ i)).map fun i => i - x.slots.length
      let y := { x with
        scaleGot := NatSet.ins off x.scaleGot
        scale := (BitVec.ofNat 32 (ofLeBytes (bs.take 4))).toInt
        nonfinite := fl % 2 == 1, mismatch := fl / 2 % 2 == 1
        missing := miss.foldl (fun m i => NatSet.ins i m) x.missing
        unreduced := unred.foldl (fun m i => NatSet.ins i m) x.unreduced }
      let s := s.updColl c b fun _ => y
      if y.scaled then s.applyScale c b else s

/-! ### All-gather (R298) -/

/-- Elements of shard i reach their place. -/
def State.gatherStore (s : State) (c b i off k : Nat) (bs : List Byte) (bad : Nat → Bool) : State :=
  s.withColl c b fun x =>
    let w := fmtBytes x.typeIn
    let s := s.storeMarked x.flight c (x.outAddr + (i * x.share + off) * w) (bs.take (k * w)) bad
    s.updColl c b fun x => { x with got := Map.set (fun _ => 0) x.got i (Map.get (fun _ => 0) x.got i + k) }

/-- Bytes of shard i with their poison bits reach their place. -/
def State.gatherPut (s : State) (c b i off : Nat) (bs : List Byte) (pois : Nat) : State :=
  s.withColl c b fun x =>
    s.gatherStore c b i off (min 256 (x.shardLen i - off)) bs fun j => pois / 2 ^ (j / 64) % 2 == 1

/-- A phase-4 packet from reducer i: its bytes wait while the engine does not run (R356). -/
def State.gatherArrive (s : State) (c b i off : Nat) (bs : List Byte) (pois : Nat) : State :=
  s.withColl c b fun x =>
    if x.done || !x.gather || x.shardLen i ≤ off then s
    else if s.collRuns x then s.gatherPut c b i off bs pois
    else s.updColl c b fun x => { x with held := x.held ++ [(i, off, bs, pois)] }

/-- The own shard goes to every other rank, and is copied locally. -/
def State.sendGather (s : State) (c b : Nat) : State :=
  s.withColl c b fun x =>
    match x.index with
    | none => s
    | some i =>
      let w := fmtBytes x.typeIn
      (pieceCuts (x.shardLen i) 256).foldl (fun (s : State) p =>
        let a := x.partAddr + p.1 * w
        let pb := s.poisonBits c a (p.2 * w)
        let r := s.load x.flight c a (p.2 * w)
        let s := (x.ranks.filter fun q => q != x.rank).foldl (fun (s : State) q => s.collSend x q 4 i p.1 r.1 pb) r.2.2
        s.gatherStore c b i p.1 p.2 r.1 fun j => pb / 2 ^ (j / 64) % 2 == 1) s

/-! ### Arrival (R277, R290, R291) -/

/-- The rank of a part in a context's step group. -/
def State.rankOf (s : State) (c part : Nat) : Option Nat :=
  (List.range (s.members c)).find? fun r => (s.member c r).2 == part

/-- A packet of the running step for an accepted command, which reached the part at an instant (R287, R288). -/
def State.collProcess (s : State) (x : CollS) (rank : Nat) (k : Pkt) (time : Nat) : State :=
  let c := x.ctx
  let b := x.key
  let slot := k.tagSlot.toNat
  let off := k.w6.toNat
  let role := (x.heldBy rank).find? fun h => h.1 == slot
  let s := match Pkt.phase k, role with
    | 1, some h =>
      if x.gather then s
      else (s.expArrive c b slot h.2 (ExpMsg.ofBytes k.payload)
        (BitVec.ofNat 32 (ofLeBytes ((k.payload.drop 4).take 4))) time).rootCheck c b
    | 2, _ => if x.reducers.contains rank then s.scaleArrive c b off k.payload else s
    | 3, some h =>
      match x.index with
      | some i =>
        if x.gather || x.shardLen i ≤ off then s
        else
          let p : CollPiece := ⟨off, bytesToWords (min 128 (x.shardLen i - off)) k.payload, k.poison.toNat⟩
          (s.conArrive c b slot h.2 p time).reducerCheck c b
      | none => s
    | 4, _ => match x.reducers.findIdx? fun r => r == rank with
      | some i => s.gatherArrive c b i off k.payload k.poison.toNat
      | none => s
    | _, _ => s
  s.collCheck c b

/-- Bytes that a packet takes in the early-arrival region. -/
def Pkt.room (k : Pkt) : Nat := 32 + 64 * ceilDiv k.payload.length 64

/-- Bytes that a context's held packets take. -/
def State.earlyUsed (s : State) (c : Nat) : Nat := ((s.early.filter fun e => e.ctx == c).map fun e => Pkt.room e.pkt).sum

/-- The early-arrival region has place for a packet (R291). -/
def State.earlyRoom (s : State) (c : Nat) (k : Pkt) : Bool :=
  decide (s.earlyUsed c + Pkt.room k ≤ (s.reg .ngfRedSize c).toNat * pageBytes)

/-- Hold a packet in the early-arrival region, whose bytes take what the part keeps of it, under the rules of a protected
page (R244, R290, R291). -/
def State.holdEarly (s : State) (c port : Nat) (k : Pkt) (time : Nat) : State :=
  let r := s.freeBytes (Pkt.room k)
  let t := (storePieces ((s.reg .ngfRedBase c).toNat + s.earlyUsed c) r.1).foldl (fun (s : State) p =>
    (s.storePage none c p.1 p.2 false).2) r.2
  { t with early := t.early ++ [⟨c, port, time, k⟩] }

/-- The step tag of a packet is older than the context's. -/
def State.staleTag (s : State) (c : Nat) (k : Pkt) : Bool :=
  let t := s.stepTag c
  let d := (k.w4 - BitVec.ofNat 32 t.1).toInt
  decide (d < 0) || (d == 0 && decide (k.w5.toNat / 2 ^ 24 < t.2))

def State.tagEqual (s : State) (c : Nat) (k : Pkt) : Bool :=
  let t := s.stepTag c
  k.w4.toNat == t.1 && k.w5.toNat / 2 ^ 24 == t.2

/-- The packet's source is no rank of the group, or none of the descriptor of the bucket that runs under the packet's step
tag (R290), or the context is terminated (R277, R293). -/
def State.collDenies (s : State) (k : Pkt) : Bool :=
  let c := k.dstCtx.toNat
  (s.ctx c).terminated || match s.rankOf c k.srcPart.toNat with
    | none => true
    | some r => s.tagEqual c k && (s.coll c (Pkt.key k)).any fun x => !x.ranks.contains r

/-- A collective packet is refused (R277). -/
def State.denyColl (s : State) (k : Pkt) : State :=
  (s.orReg .ngfCtxErr k.dstCtx.toNat 2).respond (s.respPkt k St.fabricDenied [] 0)

/-- A collective packet that arrived at an instant: it is acknowledged, refused or not (R275), and its receipt recorded
(R396; DESIGN CHOICE, log entry 107), but for a busy answer (R277, R290, R291, R299). -/
def State.collArrive (s : State) (port : Nat) (k : Pkt) (time : Nat) : State :=
  let c := k.dstCtx.toNat
  let b := Pkt.key k
  let rank := (s.rankOf c k.srcPart.toNat).getD 0
  let take := fun (s : State) => ((s.markSeen k).ackE2e k false).lanReceive port k time
  if s.seen k then s.ackE2e k false
  else if s.collDenies k then (take s).denyColl k
  else if (s.ctx c).fence.contains rank then (take s).orReg .ngfCtxErr c 4
  else if s.staleTag c k then (take s).bump .ngfRedStale c 1
  else match s.tagEqual c k, s.coll c b with
    | true, some x => (take s).collProcess x rank k time
    | _, _ => if s.earlyRoom c k then (take s).holdEarly c port k time else s.ackE2e k true

/-- Packets that were held until this command was accepted, each counting from when it reached the part (R288, R290); one of a
rank that the command's descriptor does not name is refused (R277). -/
def State.takeEarly (s : State) (c b : Nat) : State :=
  let mine := fun (e : EarlyPkt) => e.ctx == c && Pkt.key e.pkt == b && s.tagEqual c e.pkt
  let es := s.early.filter mine
  let s := { s with early := s.early.filter fun e => !mine e }
  es.foldl (fun (s : State) e =>
    match s.coll c b, s.rankOf c e.pkt.srcPart.toNat with
    | some x, some r =>
      if !x.ranks.contains r then s.denyColl e.pkt
      else if (s.ctx c).fence.contains r then s.orReg .ngfCtxErr c 4
      else s.collProcess x r e.pkt e.time
    | _, _ => s) s

/-- The step of a context has ended: its buckets and what refusals could name are forgotten, their comparators free (R289),
and packets with an older tag leave the early-arrival region (R290). -/
def State.collPurge (s : State) (c : Nat) : State :=
  let keep := s.early.filter fun e => !(e.ctx == c && s.staleTag c e.pkt)
  let n := s.early.length - keep.length
  let dies := ((s.colls.filter fun x => x.ctx == c).map fun x => x.die).eraseDups
  let t := s.bump .ngfRedStale c n
  let t := { t with early := keep, colls := t.colls.filter fun x => x.ctx != c }
  let t := t.updFab fun g => { g with
    epts := g.epts.map fun e => (e.1, { e.2 with acked := e.2.acked.filter fun u => u.pkt.srcCtx.toNat != c }) }
  dies.foldl State.armDie t

/-! ### The commands (R284, R298) -/

/-- The largest finite magnitude of a partial, as an exponent, and whether it holds a non-finite value (R285). -/
def partialMsg (vs : List Fv) : ExpMsg :=
  let m := vs.foldl (fun (a : Mag) v =>
    match v with
    | .fin _ m => if Mag.lt a m then m else a
    | _ => a) ⟨0, 1⟩
  ⟨if m.isZero then none else some m.log2, vs.any fun v => !v.isFin⟩

/-- The bucket key of an accepted collective that still reads its descriptor. -/
def Flight.readsFor (f : Flight) : Option Nat :=
  match f.cmd with
  | some (.collReduceScatter _ p) => some p.bucket.toNat
  | some (.collAllGather _ p) => some (1048576 + p.bucket.toNat)
  | _ => none

/-- A collective of the context has used the bucket key in this step (R284; log entry 79). -/
def State.bucketUsed (s : State) (c b : Nat) : Bool :=
  (s.coll c b).isSome || s.flight.any fun f => f.ctx == c && Flight.readsFor f == some b

/-- COLL_REDUCE_SCATTER's bucket as accepted; no rnd enters the digest that the members compare (R41, R286). -/
def ReduceP.made (c id rank : Nat) (lantern : Bool) (p : ReduceP) (d : List Nat × List (Nat × Nat)) (desc : List Byte) :
    CollS :=
  let fields := leBytes 4 p.bucket.toNat ++ leBytes 2 (typeRead p.typeIn).toNat
    ++ leBytes 2 (typeRead p.typeOut).toNat ++ leBytes 4 p.n.toNat ++ leBytes 4 p.deadlineUs.toNat
  { ctx := c, bucket := p.bucket.toNat, flight := id, gather := false, die := p.die.toNat, typeIn := p.typeIn.toNat
    typeOut := p.typeOut.toNat, n := p.n.toNat, partAddr := p.partAddr.toNat, outAddr := p.outAddr.toNat
    recAddr := p.recAddr.toNat, deadlineUs := p.deadlineUs.toNat, lantern := lantern
    crc := BitVec.ofNat 32 (crc32c (fields ++ desc)), rank := rank, reducers := d.1, slots := d.2, out := []
    own := ⟨none, false⟩, expAt := none, exps := [], expPassed := false, rootDone := false, scaleGot := [], scale := 0
    nonfinite := false, mismatch := false, missing := [], unreduced := [], sent := false, conAt := none, cons := []
    conPassed := false, late := 0, written := false, got := [], held := [], redo := [], begun := false, found := false,
    armed1 := false, armed3 := false, done := false }

/-- Bucket length (R284). -/
def chkBucketLen (n : W32) : Option Err := errIf (n == 0 || decide (67108864 < n.toNat)) (Err.word St.badField 6)

/-- The regions that a part's roles in a reduction name; of an address that they do not use, or of which an unreadable descriptor
leaves the use open, the place alone is judged (R18, R199, R309; DESIGN CHOICE, log entry 101). -/
def State.chkReduce (s : State) (c : Nat) (p : ReduceP) : List (Option Err) :=
  match s.readDesc c p.groupAddr.toNat, s.ownRank c with
  | some d, some r =>
    let n := p.n.toNat
    let h := ceilDiv n d.1.length
    let len := match d.1.findIdx? fun q => q == r with | some i => min n ((i + 1) * h) - i * h | none => 0
    let slot := d.2.any fun q => q.1 == r || q.2 == r
    [if slot then s.chkRead c 7 p.partAddr (n * fmtBytes p.typeIn.toNat) else s.chkAddrField c 7 p.partAddr,
     if len == 0 then s.chkAddrField c 9 p.outAddr else s.chkMove c 9 p.outAddr (len * fmtBytes p.typeOut.toNat),
     s.chkDesc c p.groupAddr,
     if d.1.contains r then s.chkMove c 14 p.recAddr (64 + 4 * ceilDiv d.2.length 16) else s.chkAddrField c 14 p.recAddr]
  | _, _ => [s.chkAddrField c 7 p.partAddr, s.chkAddrField c 9 p.outAddr, s.chkDesc c p.groupAddr]

/-- The checks of COLL_REDUCE_SCATTER, in word order; the descriptor at words 11 and 12 says which regions the part's roles
name (R18, R284, R285, R299). -/
def State.reduceErr (s : State) (c : Nat) (p : ReduceP) : Option Err :=
  firstErr ([errIf (!inRange p.die.toNat s.dies || s.bucketUsed c p.bucket.toNat) (Err.word St.badField 4),
    chkFmt 5 p.typeIn Fmt.reducePartial, chkFmt 5 p.typeOut Fmt.reduceShard, chkBucketLen p.n] ++ s.chkReduce c p
    ++ [errIf (s.ownFenced c) (Err.state St.fenced)])

/-- Bytes of the own partial: none for a rank without a slot. -/
def CollS.partialBytes (x : CollS) : Nat := if (x.heldBy x.rank).isEmpty then 0 else x.n * fmtBytes x.typeIn

/-- The part's roles in a reduction begin: the own partial is read for phase 1, and what packets have brought is judged
(R285, R287, R288). -/
def State.beginReduce (s : State) (c b : Nat) : State :=
  s.withColl c b fun x =>
    let s := (s.load x.flight c x.partAddr x.partialBytes).2.2
    let own := if x.partialBytes == 0 then x.own
      else partialMsg ((List.range x.n).map fun i => s.elemAt c x.typeIn x.partAddr i)
    let s := s.updColl c b fun x => { x with own := own }
    let s := if x.rootDone then s.sendScale c b
      else ((x.heldBy x.rank).foldl (fun (s : State) k => s.sendExp c b k.1 k.2) s).rootCheck c b
    if x.scaled then s.applyScale c b else s

/-- The collective engine comes to a command, once it holds its grant and the flash pages of its sources are read (R223,
R354, R356). -/
def State.beginColl (s : State) (c b : Nat) : State :=
  s.withColl c b fun x =>
    if x.begun || x.done || !s.grantedTo x.die .coll || s.reading x.flight then s
    else
      let s := s.updColl c b fun x => { x with begun := true }
      (if x.gather then s.sendGather c b else s.beginReduce c b).collCheck c b

/-- The collective engine holds its grant again, or comes to a command: what waited for it is done (R356, R358). -/
def State.goOnColl (s : State) (c b : Nat) : State :=
  s.withColl c b fun x =>
    if !x.begun then s.beginColl c b
    else if x.done || !s.collRuns x then s
    else
      let s := x.held.foldl (fun (s : State) h => s.gatherPut c b h.1 h.2.1 h.2.2.1 h.2.2.2)
        (s.updColl c b fun x => { x with held := [], redo := [] })
      let s := x.redo.foldl (fun (s : State) h => s.sendExp c b h.1 h.2) s
      let s := if x.rootDone && !x.sent then s.sendScale c b else s.rootCheck c b
      let s := s.withColl c b fun y => if y.scaled then s.applyScale c b else s
      (s.reducerCheck c b).collCheck c b

/-- The bucket of an accepted collective command stands. -/
def State.addColl (s : State) (x : CollS) : State :=
  { s with colls := s.colls ++ [x] }.updFlight x.flight fun f => { f with work := .coll x.key }

/-- The engine of a bucket that stands has work, and packets that came before the command are taken (R290, R354). -/
def State.openColl (s : State) (x : CollS) (reads : List (Nat × Nat)) : State :=
  (((s.queueReads x.flight x.ctx reads).giveWork x.die .coll).takeEarly x.ctx x.key).beginColl x.ctx x.key

/-- An accepted COLL_REDUCE_SCATTER: its bucket stands with the descriptor's ranks (R284 to R288, R292); when every reducer
is out it completes at once (R293). -/
def State.startReduce (s : State) (h : Hdr) (id c : Nat) (p : ReduceP) (d : List Nat × List (Nat × Nat)) (r : Nat) : State :=
  let len := s.descBytes c p.groupAddr.toNat
  let x := ReduceP.made c id r h.lantern p d (s.rdVa c p.groupAddr.toNat len)
  let pn := x.partialBytes
  let mine := match x.index with
    | some i => [(x.outAddr, x.shardLen i * fmtBytes x.typeOut), (x.recAddr, 64 + 4 * ceilDiv x.slots.length 16)]
    | none => []
  let s := s.names id c ((p.groupAddr.toNat, len) :: if pn == 0 then [] else [(x.partAddr, pn)]) mine []
  let s := (s.load id c p.groupAddr.toNat len).2.2
  let s := s.addColl x
  if (s.collRoot x).isNone then s.allOut c x.key else s.openColl x [(x.partAddr, pn)]

/-- A collective reads its descriptor, of which flash may hold pages (R223); one that is broken when it is read ends it
(R283). -/
def State.withDesc (s : State) (id c a : Nat) (body : State → List Nat × List (Nat × Nat) → Nat → State) : State :=
  let s := s.updFlight id fun f => { f with cmd := none }
  match s.readDesc c a, s.ownRank c with
  | some d, some r => body s d r
  | _, _ => s.reject id (Err.state St.badField)

/-- An accepted COLL_REDUCE_SCATTER with its descriptor read. -/
def State.runReduce (s : State) (h : Hdr) (id c : Nat) (p : ReduceP) : State :=
  s.withDesc id c p.groupAddr.toNat fun s d r => s.startReduce h id c p d r

/-- COLL_REDUCE_SCATTER starts the part's roles in a reduction, once its descriptor is read (R223, R284 to R295). -/
def execCollReduceScatter (h : Hdr) (p : ReduceP) (s : State) : Out :=
  s.packet s.txnScopes h ⟨0x410, 1, .context, false⟩ fun id c s =>
    s.guarded id (s.reduceErr c p) fun s =>
      let rs := [(p.groupAddr.toNat, s.descBytes c p.groupAddr.toNat)]
      (s.names id c rs [] []).withReads id c rs (.collReduceScatter h p) fun s => s.runReduce h id c p

/-- COLL_ALL_GATHER's bucket as accepted. -/
def GatherP.made (c id rank : Nat) (lantern : Bool) (p : GatherP) (d : List Nat × List (Nat × Nat)) : CollS :=
  { ctx := c, bucket := p.bucket.toNat, flight := id, gather := true, die := p.die.toNat, typeIn := p.type.toNat
    typeOut := p.type.toNat, n := p.n.toNat, partAddr := p.shardAddr.toNat, outAddr := p.outAddr.toNat
    recAddr := 0, deadlineUs := 0, lantern := lantern, crc := 0, rank := rank, reducers := d.1, slots := d.2, out := []
    own := ⟨none, false⟩, expAt := none, exps := [], expPassed := false, rootDone := false, scaleGot := [], scale := 0
    nonfinite := false, mismatch := false, missing := [], unreduced := [], sent := true, conAt := none, cons := []
    conPassed := false, late := 0, written := false, got := [], held := [], redo := [], begun := false, found := false,
    armed1 := false, armed3 := false, done := false }

/-- Bytes of the own shard of a gather. -/
def GatherP.shardBytes (p : GatherP) (rs : List Nat) (r : Nat) : Nat :=
  let n := p.n.toNat
  let h := ceilDiv n rs.length
  match rs.findIdx? fun q => q == r with
  | some i => (min n ((i + 1) * h) - i * h) * fmtBytes p.type.toNat
  | none => 0

/-- The regions that a part's roles in a gather name; of an unused shard_addr as `State.chkReduce` has it. -/
def State.chkGather (s : State) (c : Nat) (p : GatherP) : List (Option Err) :=
  let out := s.chkMove c 9 p.outAddr (p.n.toNat * fmtBytes p.type.toNat)
  match s.readDesc c p.groupAddr.toNat, s.ownRank c with
  | some d, some r =>
    let n := GatherP.shardBytes p d.1 r
    [if n == 0 then s.chkAddrField c 7 p.shardAddr else s.chkRead c 7 p.shardAddr n, out]
  | _, _ => [s.chkAddrField c 7 p.shardAddr, out]

/-- The checks of COLL_ALL_GATHER, in word order (R18, R298, R299). -/
def State.gatherErr (s : State) (c : Nat) (p : GatherP) : Option Err :=
  firstErr ([errIf (!inRange p.die.toNat s.dies || s.bucketUsed c (1048576 + p.bucket.toNat)) (Err.word St.badField 4),
    chkFmt 5 p.type Fmt.gatherTransport] ++ s.chkGather c p
    ++ [s.chkDesc c p.groupAddr, errIf (s.ownFenced c) (Err.state St.fenced)])

/-- An accepted COLL_ALL_GATHER: its bucket stands, and the slices of reducers that are out are missing (R298). -/
def State.startGather (s : State) (h : Hdr) (id c : Nat) (p : GatherP) (d : List Nat × List (Nat × Nat)) (r : Nat) : State :=
  let x := GatherP.made c id r h.lantern p d
  let len := s.descBytes c p.groupAddr.toNat
  let n := GatherP.shardBytes p d.1 r
  let s := s.names id c [(p.groupAddr.toNat, len), (x.partAddr, n)] [(x.outAddr, x.n * fmtBytes x.typeIn)] []
  let s := (s.load id c p.groupAddr.toNat len).2.2
  let gone := (List.range x.nRed).filter fun i => s.isOut x (nth 0 x.reducers i)
  let s := s.addColl { x with unreduced := gone }
  (if gone.isEmpty then s else s.collMissing c x.key).openColl x [(x.partAddr, n)]

/-- An accepted COLL_ALL_GATHER with its descriptor read. -/
def State.runGather (s : State) (h : Hdr) (id c : Nat) (p : GatherP) : State :=
  s.withDesc id c p.groupAddr.toNat fun s d r => s.startGather h id c p d r

/-- COLL_ALL_GATHER sends each reducer's shard to every rank, once its descriptor is read (R223, R298). -/
def execCollAllGather (h : Hdr) (p : GatherP) (s : State) : Out :=
  s.packet s.txnScopes h ⟨0x411, 0, .context, false⟩ fun id c s =>
    s.guarded id (s.gatherErr c p) fun s =>
      let rs := [(p.groupAddr.toNat, s.descBytes c p.groupAddr.toNat)]
      (s.names id c rs [] []).withReads id c rs (.collAllGather h p) fun s => s.runGather h id c p

/-! ### The packet rows -/

/-- The deadline of a bucket whose expiry has come: phase 1 at the root, or phase 3 at a reducer (R288, R289). -/
def State.deadlineAt (s : State) (c b : Nat) : Option Nat :=
  match s.coll c b with
  | none => none
  | some x =>
    let due := fun (armed passed : Bool) (t : Option Nat) =>
      if armed && !passed then t.bind fun e => if decide (e ≤ s.now) then some e else none else none
    (due x.armed1 x.expPassed (x.expiry x.expAt)).or (due x.armed3 x.conPassed (x.expiry x.conAt))

/-- The deadline of a bucket has passed: its slots are decided (R288). -/
def State.runDeadline (s : State) (c b : Nat) : State :=
  match s.coll c b, s.deadlineAt c b with
  | some x, some _ =>
    if x.armed1 && !x.expPassed && (x.expiry x.expAt).any fun e => decide (e ≤ s.now) then
      (((s.updColl c b fun x => { x with expPassed := true }).rootCheck c b).collCheck c b).settle c
    else (((s.updColl c b fun x => { x with conPassed := true }).reducerCheck c b).collCheck c b).settle c
  | _, _ => s

/-- A row that brings an exponent or a contribution for a bucket of a context. -/
def isPhaseOf (c : BitVec 6) (b : Nat) : Instr → Bool
  | .collExponent _ k | .collContribution _ k => k.dstCtx == c && Pkt.bucket k == b
  | _ => false

/-- A bucket's deadline expires (R288, R289); arrivals of the same cycle come first (R340). -/
def execReduceDeadline (ctx : BitVec 6) (bucket : BitVec 20) (s : State) : Out :=
  let c := ctx.toNat
  let b := bucket.toNat
  match s.deadlineAt c b with
  | none => .next s
  | some e => .next (s.expire (.reduceDeadline ctx bucket) e (isPhaseOf ctx b) fun s => s.runDeadline c b)

/-- A collective packet of a phase at a port; a deadline that stood back for it runs after it (R340). -/
def State.collRow (s : State) (port : Nat) (k : Pkt) (phase : Nat) : Out :=
  let b := Pkt.bucket k
  let c := k.dstCtx.toNat
  (if Pkt.phase k != phase then (if inRange port s.nPorts then .next s else portFault port)
    else s.packetRow port k 2 (0x0F + phase) fun t => (t.collArrive port k t.now).settle c).andThen fun t =>
      t.untie (.reduceDeadline k.dstCtx (BitVec.ofNat 20 b)) (isPhaseOf k.dstCtx b) fun t => t.runDeadline c b

/-- A phase-1 exponent packet (R287). -/
def execCollExponent (port : BitVec 5) (pkt : Pkt) (s : State) : Out := s.collRow port.toNat pkt 1

/-- A phase-2 scale packet (R287). -/
def execCollScale (port : BitVec 5) (pkt : Pkt) (s : State) : Out := s.collRow port.toNat pkt 2

/-- A phase-3 contribution packet (R287, R288). -/
def execCollContribution (port : BitVec 5) (pkt : Pkt) (s : State) : Out := s.collRow port.toNat pkt 3

/-- A phase-4 gather packet (R298). -/
def execCollGather (port : BitVec 5) (pkt : Pkt) (s : State) : Out := s.collRow port.toNat pkt 4

/-- 10 µs after a busy answer the sender sends the packet again; it is no counted retransmission (R291). -/
def execCollBusyResend (partner : BitVec 16) (seq : W32) (s : State) : Out :=
  match s.unacked partner.toNat seq.toNat with
  | none => .next s
  | some u =>
    if u.pkt.cls != 2 || decide (s.now < u.sentAt + 10000) then .next s
    else .next (s.resend partner.toNat seq.toNat false)

/-! ### Acknowledgement, refusal and endpoint fills -/

/-- The bucket of a flight goes on after one of its packets has ended. -/
def State.collFollow (s : State) (id : Nat) : State :=
  match s.flightOf id with
  | some f => (match f.work with | .coll b => s.collCheck f.ctx b | _ => s)
  | none => s

/-- An unacknowledged packet is acknowledged, and no copy of it is sent any more; a collective one may still be refused. -/
def State.endUnacked (s : State) (n : Nat) (u : Unacked) : State :=
  let e := s.ept n
  ((s.setEpt n { e with
    unacked := e.unacked.filter fun x => x.seq != u.seq
    acked := if u.pkt.cls == 2 then e.acked ++ [u] else e.acked }).dropQueued u.pkt).acked u

/-- An end-to-end acknowledgement ends retransmission; at the expiry it wins, and after the last expiry it is discarded
(R275, R340). -/
def State.takeAck (s : State) (n seq : Nat) : State :=
  match s.unacked n seq with
  | none => if (s.ept n).gone.contains seq then s.lateDrop else s
  | some u =>
    let expiry := u.sentAt + retxNs
    if decide (expiry < s.now) && decide (8 ≤ u.retx) then s.lateDrop
    else ((if s.now == expiry then s.lateClose else s).endUnacked n u).collFollow u.flight

/-- An end-to-end acknowledgement arrives (R275, R340). -/
def execE2eAck (partner : BitVec 16) (seq : W32) (s : State) : Out :=
  let n := partner.toNat
  .next ((s.takeAck n seq.toNat).untie (.e2eRetxTimeout partner seq) (isAckOf partner seq) fun s =>
    s.retxExpired n seq.toNat)

/-- A collective packet was refused: its target's rank is out for the bucket (R293). -/
def State.collDenied (s : State) (u : Unacked) : State :=
  let c := u.pkt.srcCtx.toNat
  let b := Pkt.key u.pkt
  let slot := u.pkt.tagSlot.toNat
  s.withColl c b fun x =>
    match s.rankOf c u.pkt.dstPart.toNat with
    | none => s
    | some r =>
      if x.flight != u.flight || x.done then s
      else
        let s := s.updColl c b fun x => { x with out := NatSet.ins r x.out }
        let s := if Pkt.phase u.pkt == 1 then
            (match (x.heldBy x.rank).find? fun h => h.1 == slot with
              | some h => if s.collRuns x then s.sendExp c b h.1 h.2
                else s.updColl c b fun x => { x with redo := x.redo ++ [h] }
              | none => s)
          else match x.reducers.findIdx? fun q => q == r with
            | some i => (s.updColl c b fun x => { x with unreduced := NatSet.ins i x.unreduced }).collMissing c b
            | none => s
        ((s.rootCheck c b).reducerCheck c b).collCheck c b

/-- The collective packet that a response answers, acknowledged or not. -/
def State.answered (s : State) (k : Pkt) : Option Unacked :=
  let e := s.ept k.srcPart.toNat
  (e.unacked ++ e.acked).find? fun u => u.pkt.cls == 2 && u.seq == k.seq.toNat

/-- A response to a collective packet: only a refusal means anything, and it is taken once (R277, R293). -/
def State.collResponse (s : State) (k : Pkt) (u : Unacked) : State :=
  if k.status.toNat != St.fabricDenied then s
  else
    let n := k.srcPart.toNat
    let s := if (s.unacked n u.seq).isSome then s.endUnacked n u else s
    let e := s.ept n
    (s.setEpt n { e with acked := e.acked.filter fun x => x.seq != u.seq }).collDenied u

/-- A response that arrived at an instant, at its sender: the first that is accepted leaves a record (R396). -/
def State.takeAnswer (s : State) (port : Nat) (k : Pkt) (time : Nat) : State :=
  match s.answered k with
  | some u => (s.lanReceive port k time).collResponse k u
  | none => if s.expects k then (s.lanReceive port k time).takeResponse k else s

/-- A response arrives (R279, R282). -/
def execFabResponse (port : BitVec 5) (pkt : Pkt) (s : State) : Out :=
  s.packetRow port.toNat pkt 1 0x04 fun t => t.takeAnswer port.toNat pkt s.now

/-- A packet that waited for its partner's endpoint context is handled. -/
def State.serveMissed (s : State) (e : MissIn) : State :=
  let k := e.pkt
  match k.cls.toNat with
  | 0 =>
    if k.fop == 1 then s.serveRead e.port k e.time else if k.fop == 2 then s.serveWrite e.port k e.time
    else s.serveAtomic e.port k e.time
  | 1 => s.takeAnswer e.port k e.time
  | 2 => (s.collArrive e.port k e.time).settle k.dstCtx.toNat
  | _ => s.takeMgmt k

/-- A first transmission that waited for its partner's endpoint context. -/
def State.sendMissed (s : State) (w : FabWait) : State :=
  if w.kind == .mgmt then s.sendManagement w else s.transmit w

/-- Endpoint contexts that the part caches (R274). -/
def eptCacheSize : Nat := 8192

/-- What waits for the endpoint context of a partner leaves the waiting lists, and the context is cached, the least recently
used one going (R274). -/
def FabS.filled (f : FabS) (n : Nat) : FabS :=
  { f with
    cache := (n :: f.cache).take eptCacheSize
    missOut := f.missOut.filter fun w => w.partner != n
    missRetx := f.missRetx.filter fun r => r.1 != n
    missResp := f.missResp.filter fun k => k.dstPart.toNat != n
    missIn := f.missIn.filter fun e => e.partner != n }

/-- What waited for the endpoint context of a partner proceeds: packets to send, retransmissions, responses, and arrivals,
which a part fault leaves unanswered (R274, R370). -/
def State.proceed (s : State) (f : FabS) (n : Nat) : State :=
  let s := (f.missOut.filter fun w => w.partner == n).foldl State.sendMissed s
  let s := (f.missRetx.filter fun r => r.1 == n).foldl (fun (s : State) r => s.retransmit n r.2.1 r.2.2) s
  if s.boot.partFault then s
  else
    let s := (f.missResp.filter fun k => k.dstPart.toNat == n).foldl State.respondNow s
    (f.missIn.filter fun e => e.partner == n).foldl State.serveMissed s

/-- Something waits for the endpoint context of a partner. -/
def FabS.awaits (f : FabS) (n : Nat) : Bool :=
  (f.missOut.any fun w => w.partner == n) || (f.missRetx.any fun r => r.1 == n)
  || (f.missResp.any fun k => k.dstPart.toNat == n) || f.missIn.any fun e => e.partner == n

/-- An endpoint context read from HBM completes (R274). -/
def execEptFill (partner : BitVec 16) (s : State) : Out :=
  let n := partner.toNat
  if s.fab.cache.contains n || !s.fab.awaits n then .next s
  else .next ((s.updFab fun f => f.filled n).proceed s.fab n)

end Sys2Proof.Machine
end

