-- ==== Sys2Proof/Machine/Control.lean ====
section
/-! DEFINITION. The control commands (R321), the unassigned opcodes (R17, R312) and the doorbells (R305). -/

namespace Sys2Proof.Machine

open Sys2Proof

/-- NOP completes on dispatch (R321). -/
def execNop (h : Hdr) (s : State) : Out :=
  s.packet s.txnScopes h ⟨0x000, 0, .any, false⟩ fun id _ s => s.finishNow id

/-- CTR_SET sets the counter on dispatch (R321). -/
def execCtrSet (h : Hdr) (counter : BitVec 12) (value : W32) (s : State) : Out :=
  s.packet s.txnScopes h ⟨0x001, 0, .any, false⟩ fun id c s => (s.setCtr c counter.toNat value).finishNow id

/-- The bytes that a CAP_READ writes: min(table size, max_bytes) (R321). -/
def State.capBytes (s : State) (maxBytes : W32) : List Byte := (wordsToBytes s.capTable).take maxBytes.toNat

/-- The checks of CAP_READ. -/
def State.capReadErr (s : State) (c : Nat) (dst : W64) (maxBytes : W32) : Option Err :=
  let bs := s.capBytes maxBytes
  firstErr [chkAlign 4 dst 64, if bs.isEmpty then none else s.chkWrite c 4 dst bs.length]

def State.runCapRead (s : State) (id c : Nat) (dst : W64) (maxBytes : W32) : State :=
  let bs := s.capBytes maxBytes
  let s := s.names id c [] [(dst.toNat, bs.length)] []
  let s := s.store id c dst.toNat bs false
  (s.updFlight id fun f => { f with result := BitVec.ofNat 64 s.capTable.length }).finishNow id

/-- CAP_READ writes min(table size, max_bytes) bytes of the capability table; result holds table_words (R321, R24). -/
def execCapRead (h : Hdr) (dst : W64) (maxBytes : W32) (s : State) : Out :=
  s.packet s.txnScopes h ⟨0x002, 0, .any, true⟩ fun id c s =>
    s.guarded id (s.capReadErr c dst maxBytes) fun s => s.runCapRead id c dst maxBytes

/-- The checks of CTR_READ. -/
def State.ctrReadErr (s : State) (c : Nat) (first : BitVec 12) (count : BitVec 13) (dst : W64) : Option Err :=
  let n := count.toNat
  firstErr [errIf (decide (4096 < first.toNat + n)) (Err.word St.badField 4),
    errIf (n == 0 || decide (4096 < n)) (Err.word St.badField 5), s.chkWrite c 6 dst (4 * n)]

/-- The counter values that a CTR_READ writes, as bytes. -/
def State.ctrBytes (s : State) (c : Nat) (first : BitVec 12) (count : BitVec 13) : List Byte :=
  wordsToBytes ((List.range count.toNat).map fun i => s.ctr c (first.toNat + i))

/-- CTR_READ writes count 32-bit counter values on dispatch (R321). -/
def execCtrRead (h : Hdr) (first : BitVec 12) (count : BitVec 13) (dst : W64) (s : State) : Out :=
  s.packet s.txnScopes h ⟨0x003, 0, .any, false⟩ fun id c s =>
    s.guarded id (s.ctrReadErr c first count dst) fun s =>
      ((s.names id c [] [(dst.toNat, 4 * count.toNat)] []).store id c dst.toNat (s.ctrBytes c first count) false).finishNow id

/-- The queue of a flight. -/
def State.queueOfFlight (s : State) (id : Nat) : Nat := match s.flightOf id with | some f => f.queue | none => 0

/-- A CTR_WAIT_MEM holds its queue (R321, R399). -/
def State.holdQueue (s : State) (id : Nat) (addr value : W64) : State :=
  (s.updFlight id fun f => { f with work := .waitMem addr value, waitState := 3, waitNode := addr.toNat }).updQueue
    (s.queueOfFlight id) fun x => { x with waiting := true }

/-- One test of CTR_WAIT_MEM (R321): unmapped and poisoned end the wait, the condition completes it. One that ends a wait after
earlier reads leaves effect 1 (R203). -/
def State.waitTest (s : State) (id c : Nat) (addr value : W64) : State :=
  let q := s.queueOfFlight id
  let ended := fun (s : State) => s.updQueue q fun x => { x with waiting := false, waitState := 0, waitNode := 0 }
  match s.chkRead c 4 addr 8 with
  | some e =>
    if (s.flightOf id).any fun f => f.made then ended ((s.failFlight id e.st e.detail).complete id) else ended (s.reject id e)
  | none =>
    if s.vaPoisoned c addr.toNat then ended (((s.consume id c addr.toNat).outcome id St.poisoned 0 0).complete id)
    else if value.toNat ≤ (s.rd64 c addr.toNat).toNat then ended (s.complete id)
    else (s.madeAccess id).holdQueue id addr value

/-- A test whose word lies on flash is made once it is read (R223). -/
def State.readAndTest (s : State) (id c : Nat) (h : Hdr) (addr value : W64) : State :=
  if (s.flashPieces id c [(addr.toNat, 8)]).isEmpty then s.waitTest id c addr value
  else (s.holdQueue id addr value).withReads id c [(addr.toNat, 8)] (.ctrWaitMem h addr value) fun s => s

/-- CTR_WAIT_MEM holds its queue until the 64-bit word is at least value (R321). -/
def execCtrWaitMem (h : Hdr) (addr value : W64) (s : State) : Out :=
  s.packet s.txnScopes h ⟨0x004, 0, .any, false⟩ fun id c s =>
    s.guarded id (chkAlign 4 addr 8) fun s => (s.names id c [(addr.toNat, 8)] [] []).readAndTest id c h addr value

/-- The queue's waiting CTR_WAIT_MEM is tested again (R321: at least once every 2 µs). -/
def execCtrWaitMemRetest (queue : BitVec 15) (s : State) : Out :=
  if s.boot.partFault || !s.boot.running then .next s
  else match (s.queueFlights queue.toNat).find? fun f => match f.work with | .waitMem _ _ => true | _ => false with
  | none => .next s
  | some f =>
    match f.work with
    | .waitMem a v => .next (if s.reading f.id then s else (s.readAndTest f.id f.ctx f.hdr a v).settle f.ctx)
    | _ => .next s

/-- A packet with an unassigned opcode completes with ST_BAD_OPCODE, after its version check (R17, R18, R312). An
assigned code is no such packet: nothing happens. -/
def execUnassignedOpcode (h : Hdr) (opcode : BitVec 12) (s : State) : Out :=
  let q := h.ring.toNat
  if assignedOpcodes.contains opcode.toNat then .next s
  else s.visit q (h.size.toNat + 1) fun s =>
    match s.headerFault q h none with
    | some e => s.faultHead q h opcode.toNat e
    | none => s

/-- CFG_DB_PROD publishes the slots from the previous value up to the new one; an index beyond the ring sets bad_write
(R305). -/
def State.publish (s : State) (q index : Nat) : State :=
  let x := s.queue q
  if !x.present || s.boot.phase != .ready then s
  else if 2 ^ x.ringLog2 ≤ index then s.setQueue q { x with badWrite := true }
  else
    let n := (index + 2 ^ x.ringLog2 - x.prod) % 2 ^ x.ringLog2
    s.setQueue q { x with prod := index, published := x.published + n }

/-- CFG_DB_CONS frees the records from the previous value up to the new one (R305). -/
def State.freeRecords (s : State) (q index : Nat) : State :=
  let x := s.queue q
  if !x.present || s.boot.phase != .ready then s
  else if 2 ^ x.cplLog2 ≤ index then s.setQueue q { x with badWrite := true }
  else
    let n := (index + 2 ^ x.cplLog2 - x.cons) % 2 ^ x.cplLog2
    s.setQueue q { x with cons := index, unread := x.unread - n }

/-- A write to CFG_DB_PROD (R305). -/
def execCfgDbProd (queue : BitVec 15) (index : BitVec 16) (s : State) : Out :=
  .next (s.publish queue.toNat index.toNat)

/-- A write to CFG_DB_CONS (R305). -/
def execCfgDbCons (queue : BitVec 15) (index : BitVec 16) (s : State) : Out :=
  .next (s.freeRecords queue.toNat index.toNat)

end Sys2Proof.Machine
end

