-- ==== Sys2Proof/Machine/Complete.lean ====
section
/-! DEFINITION. How a command that took time ends, and flash reads (R163, R215, R223, R281, R310, R315, R323). -/

namespace Sys2Proof.Machine

open Sys2Proof

/-- What a finished command still waits for and does last: none while it must wait. -/
def State.lastWork (s : State) (f : Flight) : Option State :=
  match f.work with
  | .tier op first n => if f.status == St.ok then s.tierReady f op first n else some s
  | .destroy q => if (s.queueFlights q).isEmpty then some (s.removeQueue q) else none
  | .release c ks => if s.releaseReady f.id c ks then some (s.releaseClusters ks) else none
  | .fabFence ids => if s.flight.any fun g => ids.contains g.id then none else some s
  | _ => some s

/-- The statistics of a command that did its work go to their Almanac slots (R163); an add that cannot be made ends it, and
its quantiser's QNT_ERR says so (R203, R212). -/
def State.flightStats (s : State) (f : Flight) : State :=
  if f.status < 0x40 then
    let t := f.stats.foldl (fun (s : State) a => s.addStats f.id f.ctx a) s
    if t.faulted f.id then (s.qnts.filter fun e => e.2.contains f.id).foldl (fun (t : State) e => t.qntFlags e.1 St.ok) t
    else t
  else s

/-- A finished command leaves: its last work is done and its statistics reach the Almanac (R163, R315); none while it must
wait. -/
def State.leave (s : State) (f : Flight) : Option State :=
  (s.lastWork f).map fun s => (s.flightStats f).complete f.id

/-! ### Flash reads (R223, R226) -/

/-- A command whose last flash read is over runs. -/
def State.resume (s : State) (f : Flight) : State :=
  match f.cmd with
  | some (.memCopy _ src dst len ecc) => s.runMemCopy f.id f.ctx src dst len ecc
  | some (.tbCopy _ p) => s.runTbCopy f.id f.ctx p
  | some (.tbBuild _ p) => s.runTbBuild f.id f.ctx p
  | some (.fabPut h src dst len) => s.runFabPut h f.id f.ctx src dst len
  | some (.collReduceScatter h p) => s.runReduce h f.id f.ctx p
  | some (.collAllGather h p) => s.runGather h f.id f.ctx p
  | some (.ctrWaitMem _ addr value) => s.waitTest f.id f.ctx addr value
  | _ => s

/-- The failed codeword of a read poisons the line that holds it, which line of those read the manual does not say (R226,
R227, R228). -/
def State.readFailed (s : State) (r : FlashRead) : State :=
  let n := s.nextFree
  let lines := (r.off % 64 + r.len + 63) / 64
  { n.2 with poison := NatSet.ins (physFlash r.fpage r.off / 64 + Config.freeNat n.1 % lines) n.2.poison }

/-- The oldest flash read of a channel is over (R223). -/
def State.endRead (s : State) (r : FlashRead) (retries : Nat) (failed : Bool) : State :=
  let s := { s with ftl := { s.ftl with reads := dropFirst (fun x => x.chan == r.chan) s.ftl.reads } }
  let s := s.bump .ftlReadRetry 0 retries
  if failed then s.readFailed r else s

end Sys2Proof.Machine
end

