-- ==== Sys2Proof/Machine/Direct.lean ====
section
/-! DEFINITION. Writes to register addresses (R9, R11, R16, R430): the host's direct writes, by the fields of the register
that the address names. -/

namespace Sys2Proof.Machine

open Sys2Proof

/-- What a write to the WO fields of a register does (R9): the action of its description. -/
def State.trigger (s : State) (r : Reg) (i : Nat) (v : W64) : State :=
  match r with
  | .ngfPortCtrl => if bits v 1 1 == 1 then s.retrain i else s
  | .cfgDbProd => s.publish i (bits v 15 0)
  | .cfgDbCons => s.freeRecords i (bits v 15 0)
  | .vwmKekCtrl => s.kekCtrl v
  | .vwmBootCtrl =>
    let s := if bits v 0 0 == 1 then s.bootGo else s
    if bits v 1 1 == 1 then s.warm else s
  | _ => s.clearBy r i v

/-- A whole write of a register: RW fields take the value, W1C bits written as 1 clear, WO fields act, RO fields ignore
it (R9). -/
def State.writeReg (s : State) (r : Reg) (i : Nat) (v : W64) : State :=
  let s := if r.info.rw == 0 then s else s.directRw r i v
  let s := if r.info.w1c == 0 then s else s.w1c r i v 0
  if r.info.wo == 0 then s else s.trigger r i v

/-! ### The host's BARs (R410, R411) -/

/-- The three memory BARs of the PCIe function. -/
inductive Bar where
  | bar0 | bar2 | bar4
deriving DecidableEq, Repr

/-- Bytes of a BAR. -/
def Bar.bytes : Bar → Nat
  | .bar0 => 268435456 | .bar2 => 67108864 | .bar4 => 16777216

/-- What a host read of a BAR returns, 64 bits wide or 32 (R410, R411). BAR0 maps the local addresses from the boot page on;
BAR2 is the admin region from READY on; BAR4 is the image buffer before READY. In FAILED only the boot page reads. -/
def State.hostRead (s : State) (b : Bar) (off : Nat) (wide : Bool) : W64 :=
  let n := if wide then 8 else 4
  let mem := fun a => BitVec.ofNat 64 (ofLeBytes (s.rd a n))
  if Bar.bytes b < off + n then 0
  else match b with
  | .bar0 => s.readAddr (bootPage + off) wide
  | .bar2 => if s.boot.phase == .ready then mem (physAdmin off) else 0
  | .bar4 => if s.boot.phase == .ready || s.boot.phase == .failed then 0 else mem (physImage off)

/-- What a host write to BAR2 does: from READY on it writes the admin region, else it is ignored (R411). -/
def State.hostWriteAdmin (s : State) (off : Nat) (bs : List Byte) : State :=
  if s.boot.phase == .ready && decide (off + bs.length ≤ 67108864) then s.wr (physAdmin off) bs false else s

/-- REGISTER_WRITE: a write to a reserved offset, or of a width that is not the register's, is ignored (R16, R430). -/
def execRegisterWrite (addr : W64) (wide : Bool) (value : W64) (s : State) : Out :=
  match s.decodeReg addr.toNat with
  | none => .next s
  | some (r, i, hi) => if hi || r.info.wide != wide || !s.regLive r then .next s else .next (s.writeReg r i (r.cut value))

/-- W1C_WRITE: a write of 1 clears a W1C bit, unless hardware sets it in the same cycle (R9, R11). -/
def execW1cWrite (addr value hwSet : W64) (s : State) : Out :=
  match s.decodeReg addr.toNat with
  | none => .next s
  | some (r, i, hi) => if hi || r.info.w1c == 0 || !s.regLive r then .next s else .next (s.w1c r i value hwSet)

end Sys2Proof.Machine
end

