-- ==== Sys2Proof/Machine/Exp.lean ====
section
/-! DEFINITION. The element engines' reciprocal square root, power of two and binary logarithm (R180). Each takes the exact
result to many bits beyond a binary32 significand, with a sticky last bit, so that one rounding of it rounds the exact
result: no binary32 operand brings a result as near to a midpoint without reaching it (UNVERIFIED, log entry 84). -/

namespace Sys2Proof.Machine

open Sys2Proof

/-- 1/sqrt, correctly rounded (R180); of a zero an infinity of its sign, of a negative value a NaN. -/
def frsqrt (a : F32) : F32 :=
  match fval a with
  | .nan => rne32 .nan
  | .inf n => if n then rne32 .nan else 0
  | .fin n m =>
    if m.isZero then rne32 (.inf n)
    else if n then rne32 .nan
    else
      let x := m.den * 2 ^ 600 / m.num
      let r := isqrt x
      let sticky := if r * r = x && m.den * 2 ^ 600 % m.num = 0 then 0 else 1
      rne32 (.fin false ⟨2 * r + sticky, 2 ^ 301⟩)

/-- Fraction bits of the fixed-point numbers below. -/
def workBits : Nat := 256

/-- 2^(num/den) for num < den, a power of two, from the product of the roots 2^(1/2), 2^(1/4), … that its bits name:
`root` is the root taken last, `acc` the product so far. -/
def exp2Frac : Nat → Nat → Nat → Nat → Nat → Nat
  | 0, _, acc, _, _ => acc
  | fuel + 1, root, acc, num, den =>
    if num == 0 then acc
    else
      let r := isqrt (root * 2 ^ workBits)
      if den ≤ 2 * num then exp2Frac fuel r (acc * r / 2 ^ workBits) (2 * num - den) den
      else exp2Frac fuel r acc (2 * num) den

/-- 2^(i + num/den). -/
def exp2At (i : Int) (num den : Nat) : F32 :=
  let p := exp2Frac (den.log2 + 1) (2 * 2 ^ workBits) (2 ^ workBits) num den
  let m : Mag := if num == 0 then ⟨1, 1⟩ else ⟨2 * p + 1, 2 ^ (workBits + 1)⟩
  rne32 (.fin false (Mag.mul m (pow2 i)))

/-- exp2, correctly rounded (R180). From 2^8 on either side the result is an infinity or zero. -/
def fexp2 (a : F32) : F32 :=
  match fval a with
  | .nan => rne32 .nan
  | .inf n => if n then 0 else a
  | .fin n m =>
    if 256 ≤ m.floor then (if n then 0 else rne32 (.inf false))
    else if n then exp2At (-(m.ceil : Int)) (m.ceil * m.den - m.num) m.den
    else exp2At m.floor (m.num - m.floor * m.den) m.den

/-- Bits of log2 of a fixed-point y from 1 to 2, by squaring. -/
def log2Bits : Nat → Nat → Nat → Nat
  | 0, _, acc => acc
  | fuel + 1, y, acc =>
    let z := y * y / 2 ^ workBits
    if 2 * 2 ^ workBits ≤ z then log2Bits fuel (z / 2) (2 * acc + 1) else log2Bits fuel z (2 * acc)

/-- log2, correctly rounded (R180); of a zero minus infinity, of a negative value a NaN. -/
def flog2 (a : F32) : F32 :=
  match fval a with
  | .nan => rne32 .nan
  | .inf n => if n then rne32 .nan else a
  | .fin n m =>
    if m.isZero then rne32 (.inf true)
    else if n then rne32 .nan
    else
      let e := m.log2
      let y := (Mag.mul (Mag.div m (pow2 e)) (Mag.ofNat (2 ^ workBits))).floor
      let f : Fv := if y == 2 ^ workBits then .fin false ⟨0, 1⟩ else .fin false ⟨2 * log2Bits 128 y 0 + 1, 2 ^ 129⟩
      rne32 (Fv.add (Fv.ofInt e) f)

end Sys2Proof.Machine
end

