-- ==== Sys2Proof/Machine/Slot.lean ====
section
/-! DEFINITION. Engine units, their tiles and slots (R85, R96 to R103), accumulator words (R119), spill words and spill
regions (R124 to R127), and the descriptors of array commands (R121, R135, R136). -/

namespace Sys2Proof.Machine

open Sys2Proof

/-! ### Units and tiles -/

/-- Rows of a unit (R85). -/
def unitRows (quarter : Bool) : Nat := if quarter then 64 else 128

def UnitS.tile? (u : UnitS) (id : Nat) : Option Tile := u.tiles.find? fun t => t.id == id
def UnitS.updTile (u : UnitS) (id : Nat) (f : Tile → Tile) : UnitS :=
  { u with tiles := updFirst (fun t => t.id == id) f u.tiles }

def State.unit (s : State) (e q : Nat) : UnitS := (s.eng e).unit q
def State.updUnit (s : State) (e q : Nat) (f : UnitS → UnitS) : State :=
  s.updEng e fun x => x.setUnit q (f (x.unit q))
def State.updTile (s : State) (e q id : Nat) (f : Tile → Tile) : State := s.updUnit e q fun u => u.updTile id f
def State.updSlot (s : State) (e q j : Nat) (f : SlotS → SlotS) : State :=
  s.updUnit e q fun u => u.setSlot j (f (u.slot j))

/-- Steps that every row has finished (R94). -/
def UnitS.low (u : UnitS) (rows : Nat) : Nat :=
  (List.range rows).foldl (fun n i => min n (Map.get (fun _ => 0) u.done i)) u.nextStep

/-- The bit of a slot in ACC_SAT_FLAGS (R102, R120). -/
def slotBit (quarter : Bool) (q j : Nat) : Nat := if quarter then 2 * q + j else j

/-! ### Accumulator words (R96, R102) -/

/-- Where the slot begins in tier 0 (R200), and its bytes. -/
def slotBase (quarter : Bool) (e q j : Nat) : Nat :=
  33554432 * (e / 16) + 16777216 + 524288 * (e % 16) + if quarter then (2 * q + j) * 16384 else j * 65536
def slotBytes (quarter : Bool) : Nat := if quarter then 16384 else 65536

/-- The word of row r and column c: rows of 128 words, of 64 in a quarter engine. -/
def accAddr (quarter : Bool) (e q j r c : Nat) : Nat :=
  slotBase quarter e q j + 4 * ((if quarter then 64 else 128) * r + c)

def State.accWord (s : State) (quarter : Bool) (e q j r c : Nat) : Int :=
  (BitVec.ofNat 32 (ofLeBytes (s.rd (physSram (accAddr quarter e q j r c)) 4))).toInt
def State.setAccWord (s : State) (quarter : Bool) (e q j r c : Nat) (v : Int) : State :=
  s.wr (physSram (accAddr quarter e q j r c)) (leBytes 4 (BitVec.ofInt 32 v).toNat) false

/-- The index of an element among a slot's marks. -/
def markOf (r c : Nat) : Nat := 128 * r + c

/-- An element of a tile saturates for the first time (R120): counted once, flagged, marked. -/
def State.noteSat (s : State) (e q j r c : Nat) : State :=
  let quarter := (s.eng e).quarter
  let x := (s.unit e q).slot j
  let s := s.updSlot e q j fun x => { x with sat := NatSet.ins (markOf r c) x.sat }
  if x.tsat.contains (markOf r c) then s
  else
    let s := s.updSlot e q j fun x => { x with tsat := NatSet.ins (markOf r c) x.tsat }
    ((s.bump .accSatCount e 1).orReg .accSatFlags e (2 ^ slotBit quarter q j)).bump .vwmLcSat (e / 256) 1

/-- W := sat_add(W, v) on an element of a slot; a held word ignores it (R119). -/
def State.addWord (s : State) (e q j r c : Nat) (v : Int) : State :=
  let quarter := (s.eng e).quarter
  if ((s.unit e q).slot j).held.contains (markOf r c) then s
  else
    let w := satAdd32 (s.accWord quarter e q j r c) v
    let s := s.setAccWord quarter e q j r c w.1
    if w.2 then (s.updSlot e q j fun x => { x with held := NatSet.ins (markOf r c) x.held }).noteSat e q j r c else s

/-! ### Spill regions (R127) -/

/-- Free granules of a cluster's spill partition. -/
def State.freeSpill (s : State) (k : Nat) : List Nat :=
  (List.range (s.partEnds k).1).filter fun g => !(s.clusS k).spill.contains g

/-- n of the free granules: which, the part chooses (R142). -/
def pickGranules : Nat → Nat → List Nat → List Nat
  | 0, _, _ => []
  | n + 1, k, free =>
    if free.isEmpty then []
    else
      let g := nth 0 free (Config.freeNat k % free.length)
      g :: pickGranules n (k + 1) (free.filter fun x => x != g)

/-- Take n spill granules of a cluster; none while it is too full. -/
def State.takeSpill (s : State) (k n : Nat) : Option (List Nat × State) :=
  let free := s.freeSpill k
  if free.length < n then none
  else
    let gs := pickGranules n s.freeCount free
    let x := s.clusS k
    some (gs, { s with freeCount := s.freeCount + n }.setClusS k
      { x with spill := gs.foldl (fun l g => NatSet.ins g l) x.spill })

/-- Release spill granules of a cluster. -/
def State.dropSpill (s : State) (k : Nat) (gs : List Nat) : State :=
  let x := s.clusS k
  s.setClusS k { x with spill := x.spill.filter fun g => !gs.contains g }

/-- Zero n bytes at a line boundary. -/
def State.zeroBytes (s : State) (a n : Nat) : State :=
  (s.zero a (n / 64 * 64)).wr (a + n / 64 * 64) (List.replicate (n % 64) 0) false

/-- Granules that a region of m · n spill words takes. -/
def spillGranules (m n : Nat) : Nat := ceilDiv (m * n * 8) 65536

/-- Zero the words of a region (SP starts at (0, 0): R126). -/
def State.zeroRegion (s : State) (k : Nat) (gs : List Nat) (bytes : Nat) : State :=
  (List.range gs.length).foldl (fun (s : State) i =>
    s.zeroBytes (physSram (granuleOff k (nth 0 gs i))) (min 65536 (bytes - 65536 * i))) s

/-- Where the spill word of an element lies; none outside the region. -/
def Tile.spillAddr (t : Tile) (e r c : Nat) : Option Nat :=
  let b := 8 * (t.pitch * r + c)
  if t.region.isEmpty || decide (t.pitch ≤ c) then none
  else t.region[b / 65536]?.map fun g => physSram (granuleOff (clusterOfEng e) g + b % 65536)

/-- A spill word from its 64 bits (R124). -/
def Sp.ofNat (w : Nat) : Sp where
  m := (BitVec.ofNat 32 w).toInt
  e := w / 2 ^ 32 % 256
  sat := w / 2 ^ 40 % 2 == 1
  pois := w / 2 ^ 41 % 2 == 1

/-- The 64 bits of a spill word (R124). -/
def Sp.toNat (x : Sp) : Nat :=
  (BitVec.ofInt 32 x.m).toNat + x.e % 256 * 2 ^ 32 + (if x.sat then 2 ^ 40 else 0) + if x.pois then 2 ^ 41 else 0

/-- The spill word of an element: a free value outside the region of a tile that goes on in another shape. -/
def State.spillWord (s : State) (e : Nat) (t : Tile) (r c : Nat) : Sp :=
  match t.spillAddr e r c with
  | some a => let x := Sp.ofNat (ofLeBytes (s.rd a 8)); { x with pois := x.pois || s.poison.contains (a / 64) }
  | none => Sp.ofNat (Config.openSpill e r c)

def State.setSpillWord (s : State) (e : Nat) (t : Tile) (r c : Nat) (x : Sp) : State :=
  match t.spillAddr e r c with
  | some a => s.wr a (leBytes 8 x.toNat) false
  | none => s

/-! ### Spill addition (R125) -/

/-- The least e from `e` on with |v| ≤ (2^31 − 1) · 2^e, within `fuel` steps. -/
def riseExp (v : Nat) : Nat → Nat → Nat
  | 0, e => e
  | fuel + 1, e => if (2 ^ 31 - 1) * 2 ^ e < v then riseExp v fuel (e + 1) else e

/-- sp_add with the 16-bit draw of its key (R125). -/
def spAdd (a b : Sp) (draw : Nat) : Sp :=
  let v : Int := a.m * 2 ^ a.e + b.m * 2 ^ b.e
  let e := riseExp v.natAbs (v.natAbs.log2 + 1) (max a.e b.e)
  { m := roundInt (.fin (decide (v < 0)) ⟨v.natAbs, 2 ^ e⟩) (.stoch draw), e := e, sat := a.sat || b.sat
    pois := a.pois || b.pois }

/-- The element index of the draws of a descriptor (R135). -/
def Epi.elem (d : Epi) (r c : Nat) : Nat := ((d.rowOrigin + r) * d.ldElems + d.colOrigin + c) % 2 ^ 64

/-- A draw of a context (R186). -/
def State.drawOf (s : State) (c : Nat) (stream : W32) (e use : Nat) : Nat :=
  draw (s.reg .cfgRngSeed c) (s.reg .cfgRngStep c) stream.toNat e use

/-- SPL_EXP_MAX keeps the largest exponent that an sp_add of the cluster produced. -/
def State.noteExp (s : State) (k e : Nat) : State :=
  if (s.reg .splExpMax k).toNat < e then s.setReg .splExpMax k (BitVec.ofNat 64 (min 255 e)) else s

/-- The value of an element as a spill operand: (W, 0) with its marks. -/
def State.wordSp (s : State) (e q j r c : Nat) : Sp :=
  let x := (s.unit e q).slot j
  ⟨s.accWord (s.eng e).quarter e q j r c, 0, x.sat.contains (markOf r c), x.pois.contains (markOf r c)⟩

/-- The value of a tile's element as a spill operand, with the poison of its own word, its tile's tables, its row and its
column (R124, R229). -/
def State.elemSp (s : State) (e q : Nat) (t : Tile) (r c : Nat) : Sp :=
  let w := s.wordSp e q t.slot r c
  { w with pois := w.pois || t.tablePoison || t.poisRows.contains r || t.poisCols.contains c }

/-- A tile's command reads the staging word at tier 0 offset `a`, and consumes its line's poison (R230). -/
def State.consumeWord (s : State) (t : Tile) (a : Nat) : State :=
  if s.poison.contains (a / 64) then s.consume t.flight t.ctx (263882790666240 + a) else s

/-- A tile's command reads the spill words of a row (R126, R230). -/
def State.consumeSpills (s : State) (e : Nat) (t : Tile) (r : Nat) : State :=
  (List.range t.n).foldl (fun (s : State) c => match t.spillAddr e r c with
    | some a => s.consumeWord t a
    | none => s) s

/-! ### Slot transitions (R97, R102, R103, R123) -/

/-- Preload regions in use in a unit. -/
def UnitS.preRegions (u : UnitS) : List Nat := u.slots.filterMap fun j => j.2.preRegion

/-- A free preload region of a quarter engine: six of 16 KiB (R123). -/
def UnitS.freePre (u : UnitS) : Option Nat := (List.range 6).find? fun k => !u.preRegions.contains k

/-- A tile enters FILL in a FREE slot: cleared, or a preload begins, which may be work for an element engine (R97, R122,
R123). -/
def State.placeTile (s : State) (e q : Nat) (t : Tile) : State :=
  let quarter := (s.eng e).quarter
  let el := s.termElt (clusterOfEng e)
  let s := if t.pre.any fun d => d.outlier then s.giveWork (el / 32) (.elt (el % 32)) else s
  let s := s.zero (physSram (slotBase quarter e q t.slot)) (slotBytes quarter)
  let s := s.updTile e q t.id fun t => { t with placed := true }
  s.updUnit e q fun u =>
    u.setSlot t.slot { SlotS.none with
      st := .fill, tile := some t.id, preRegion := if quarter && t.pre.isSome then u.freePre else none }

/-- The first tile that waits for a slot. -/
def UnitS.waiter (u : UnitS) (j : Nat) : Option Tile :=
  u.tiles.find? fun t => t.slot == j && !t.placed && !t.isOver && !t.abandoned

/-- Every FREE slot takes the tile that waits for it (R97). -/
def State.placeTiles (s : State) (e q : Nat) : State :=
  (List.range 8).foldl (fun (s : State) j =>
    let u := s.unit e q
    if (u.slot j).st == .free then
      match u.waiter j with
      | some t => s.placeTile e q t
      | none => s
    else s) s

/-- Tiles that are over and that no drain still outputs leave. -/
def UnitS.prune (u : UnitS) : UnitS :=
  { u with tiles := u.tiles.filter fun t => !t.isOver || u.drains.any fun d => d.tile == t.id }

/-- A tile is over: its granules are released (R127). -/
def State.endTile (s : State) (e q id : Nat) : State :=
  match (s.unit e q).tile? id with
  | none => s
  | some t =>
    let s := (s.dropSpill (clusterOfEng e) t.region).updTile e q id fun t =>
      { t with isOver := true, region := [], abandoned := false, needGr := 0 }
    s.updUnit e q fun u => { u.prune with open? := if u.open?.any fun o => o.tile == id then none else u.open? }

/-- The marked elements of a slot: its own marks, and what its tile's tables, rows and columns mark (R228, R229). -/
def UnitS.marks (u : UnitS) (j : Nat) : List Nat :=
  (u.slot j).pois ++ (match (u.slot j).tile.bind u.tile? with
    | .none => []
    | some t =>
      let rows := if t.tablePoison then List.range t.m else t.poisRows.filter fun r => decide (r < t.m)
      (rows.flatMap fun r => (List.range t.n).map (markOf r))
        ++ (t.poisCols.filter fun c => decide (c < t.n)).flatMap fun c => (List.range t.m).map fun r => markOf r c)

/-- The words of a slot keep their marks where they lie (R228). -/
def State.keepMarks (s : State) (e q j : Nat) : State :=
  let quarter := (s.eng e).quarter
  let word := fun m => physSram (accAddr quarter e q j (m / 128) (m % 128)) / 4
  { s with accPois := ((s.unit e q).marks j).foldl (fun l m => NatSet.ins (word m) l) s.accPois }

/-- A slot becomes FREE: its tile is over and a waiting tile takes it (R97). -/
def State.freeSlot (s : State) (e q j : Nat) : State :=
  let t := ((s.unit e q).slot j).tile
  let s := s.keepMarks e q j
  let s := s.updUnit e q fun u => u.setSlot j SlotS.none
  let s := match t with | some id => s.endTile e q id | none => s
  s.placeTiles e q

/-! ### Descriptors (R121, R135) -/

def w32At (bs : List Byte) (i : Nat) : Nat := fieldLe bs (4 * i) 4
def w64At (bs : List Byte) (i : Nat) : Nat := fieldLe bs (4 * i) 8

/-- The epilogue descriptor (R135). -/
def Epi.ofBytes (b : List Byte) : Epi :=
  let w := w32At b
  { act := w 0 / 2 ^ 24, raw := w 0 / 2 ^ 23 % 2 == 1, biasEn := w 0 / 2 ^ 22 % 2 == 1
    biasAxis := w 0 / 2 ^ 21 % 2 == 1, satNan := w 0 / 2 ^ 20 % 2 == 1, statsEn := w 0 / 2 ^ 19 % 2 == 1
    outType := w 0 % 65536, outStride := w 1, outAddr := w64At b 2, biasAddr := w64At b 4, actTable := w64At b 6
    statsAddr := w64At b 8, spillRuns := w 10 / 65536, spillStream := BitVec.ofNat 32 (w 11)
    outStream := BitVec.ofNat 32 (w 12), chainLen := w 13 / 2 ^ 24, chainPos := w 13 / 65536 % 256
    chainId := w 13 % 65536, nextEngine := w 14 % 2048, rowOrigin := w 15, colOrigin := w 16, ldElems := w 17 }

/-- The preload descriptor (R121). -/
def Pre.ofBytes (b : List Byte) : Pre :=
  let w := w32At b
  { outlier := w 0 / 4 % 2 == 1, resid := w 0 / 2 % 2 == 1, bias := w 0 % 2 == 1, residStride := w 1
    biasAddr := w64At b 2, residAddr := w64At b 4, outA := w64At b 6, outB := w64At b 8, nOut := w 10 % 2 ^ 20
    outAStride := w 11, outBStride := w 12 }

/-- The tile is a link that does not end its chain (R130). -/
def Epi.midLink (d : Epi) : Bool := decide (d.chainPos + 1 < d.chainLen)

/-- Bytes of an output element. -/
def Epi.elemBytes (d : Epi) : Nat :=
  match Fmt.ofCode (d.outType % 256) with
  | some f => f.ebits / 8
  | none => 1

/-- The faults of a first command's descriptor (R129, R136). -/
def Epi.firstFaults (d : Epi) (quarter : Bool) : Option Err :=
  errIf (decide (d.chainLen ≤ d.chainPos) || (quarter && decide (1 < d.chainLen))) (Err.state St.badField)

/-- The faults of the descriptor that names the drain (R136): `first` gives the spill and chain fields in force. An address
that the drain does not use need not be aligned (DESIGN CHOICE, log entry 100). -/
def Epi.drainFaults (d first : Epi) : Option Err :=
  let t := BitVec.ofNat 16 d.outType
  let int32 := typeFmt t == some .int32
  let off := fun (use : Bool) (a n : Nat) => use && a % n != 0
  firstErr [chkFmt 0 t Fmt.epilogueOutput |>.map fun _ => Err.state St.badField,
    errIf (decide (4 < d.act) || d.raw != int32
      || (d.raw && (decide (0 < first.spillRuns) || decide (1 < first.chainLen)))
      || off true d.outAddr d.elemBytes || off true d.outStride d.elemBytes
      || off (d.biasEn && !d.raw) d.biasAddr 4 || off (d.act == 4 && !d.raw) d.actTable 64
      || off d.statsEn d.statsAddr 64) (Err.state St.badField)]

/-- The memory that an epilogue names (R203, R432): ranges read and ranges written. -/
def Epi.reads (d : Epi) (m n : Nat) : List (Nat × Nat) :=
  (if d.biasEn && !d.raw then [(d.biasAddr, 4 * if d.biasAxis then m else n)] else [])
  ++ (if d.act == 4 && !d.raw then [(d.actTable, 3104)] else [])
def Epi.rowsOut (d : Epi) (m n : Nat) : List (Nat × Nat) :=
  (List.range m).map fun r => (d.outAddr + r * d.outStride, n * d.elemBytes)
def Epi.writes (d : Epi) (m n : Nat) : List (Nat × Nat) :=
  d.rowsOut m n ++ if d.statsEn then [(d.statsAddr, 320)] else []

/-- A range that a descriptor names, checked where it lies (R199, R203, R309, R317). -/
def State.chkNamed (s : State) (c : Nat) (write : Bool) (r : Nat × Nat) : Option Err :=
  let a := vaOf r.1
  ((if write then s.chkWrite c 0 a r.2 else s.chkRead c 0 a r.2)).map fun e => Err.state e.st

/-- The checks of the memory behind a drain: a link before the last writes nothing (R130). -/
def State.chkEpilogue (s : State) (c : Nat) (d first : Epi) (m n : Nat) : Option Err :=
  if first.midLink then none
  else firstErr (((d.reads m n).map fun r => s.chkNamed c false r) ++ (d.writes m n).map fun r => s.chkNamed c true r)

/-- The stream checks of a drain: spill_stream and out_stream are the first descriptor's (R136, R190). They are made when the
descriptor that names the drain is read, so a tile that spills and is discarded from HOLD is not compared (DESIGN CHOICE, log
entry 97). -/
def State.drainStreams (s : State) (c : Nat) (d first : Epi) (m n : Nat) : State :=
  let out := d.rowsOut m n
  let s := if (decide (0 < first.spillRuns) || decide (1 < first.chainLen)) && !first.midLink then
    s.checkStream c first.spillStream out else s
  if typeRnd (BitVec.ofNat 16 d.outType) == 1 && !d.raw && !first.midLink then s.checkStream c first.outStream out else s

/-! ### Commands in a window (R113, R114) -/

/-- A command leaves its window; its flight has finished. -/
def State.leaveWindow (s : State) (e q id : Nat) : State :=
  (s.updUnit e q fun u => { u with window := u.window.filter fun w => w.flight != id }).finishLater id

/-- Flags that a refused array command sets (ENG_ERR, SPL_ERR). -/
def State.engFlags (s : State) (e st : Nat) : State :=
  if st == St.badField || st == St.scaleAxis || st == St.badScale then s.orReg .engErr e 1
  else if st == St.slotEmpty || st == St.slotBusy then s.orReg .engErr e 2
  else if st == St.spillQuota then s.orReg .splErr (clusterOfEng e) 1
  else s

/-- An array command is refused: it completes at once (R113), and leaves its window. -/
def State.engReject (s : State) (e q id : Nat) (er : Err) : State :=
  let s := s.updUnit e q fun u => { u with window := u.window.filter fun w => w.flight != id }
  (s.engFlags e er.st).reject id er

/-- The tile of a command has left FILL (R114). -/
def UnitS.leftFill (u : UnitS) (id : Nat) : Bool :=
  match u.tile? id with
  | .none => true
  | some t => t.isOver || t.abandoned
      || ((u.slot t.slot).tile == some id && ((u.slot t.slot).st == .hold || (u.slot t.slot).st == .drain))

/-- The conditions of R114 on the commands before an ARR_DRAIN. -/
def UnitS.drainReady (u : UnitS) (id : Nat) : Bool :=
  (u.window.takeWhile fun w => w.flight != id).all fun w =>
    match w.cmd with
    | .matmul _ => w.readsEnded && u.leftFill w.tile
    | _ => true

/-- ARR_DRAIN executes (R114, R136); its drain starts a cycle later, as after a final promotion (R105; DESIGN CHOICE, log
entry 104: no rule gives the latency after an ARR_DRAIN). -/
def State.runDrain (s : State) (e q : Nat) (w : WCmd) (p : DrainP) : State :=
  let u := s.unit e q
  let j := p.slot.toNat
  let x := u.slot j
  let d := Epi.ofBytes (s.rdVa w.ctx p.epiDesc.toNat 128)
  let t := x.tile.bind u.tile?
  let fault := firstErr
    ([if p.discard then none else chkAlign 5 p.epiDesc 64,
      if p.discard then none else s.chkRead w.ctx 5 p.epiDesc 128,
      errIf (x.st != .hold) (Err.state St.slotEmpty)]
    ++ match t with
      | some t => if p.discard then [] else [d.drainFaults t.first, s.chkEpilogue w.ctx d t.first t.m t.n]
      | none => [])
  match fault, t with
  | some er, _ => s.engReject e q w.flight er
  | .none, .none => s.engReject e q w.flight (Err.state St.slotEmpty)
  | .none, some t =>
    if p.discard then (s.freeSlot e q j).leaveWindow e q w.flight
    else
      let s := (s.load w.flight w.ctx p.epiDesc.toNat 128).2.2
      let s := s.drainStreams w.ctx d t.first t.m t.n
      let s := s.addNames w.flight w.ctx (d.reads t.m t.n) (if t.first.midLink then [] else d.writes t.m t.n)
      let s := s.updTile e q t.id fun t => { t with last := some d, flight := w.flight, closed := true, drain := true }
      let s := s.updSlot e q j fun x => { x with st := .drain, drainAt := some (u.cycle + 1) }
      s.updUnit e q fun u => { u with
        window := updFirst (fun x => x.flight == w.flight) (fun x => { x with readsEnded := true }) u.window }

/-- What is left to do for a command of a window (R90, R113, R114). A cont command that its engine had accepted before its
tile was abandoned completes when its reads end (DESIGN CHOICE, log entry 104). -/
def State.pokeCmd (s : State) (e q id : Nat) : State :=
  let u := s.unit e q
  match u.window.find? fun w => w.flight == id with
  | none => s
  | some w =>
    match w.cmd with
    | .matmul p =>
      let low := u.low (unitRows (s.eng e).quarter)
      let ended := decide (w.firstStep + w.nSteps ≤ low)
      let s := if ended && !w.readsEnded then s.updUnit e q fun u =>
        { u with window := updFirst (fun w => w.flight == id) (fun w => { w with readsEnded := true }) u.window } else s
      let held := match u.tile? w.tile with
        | some t => (u.slot t.slot).st == .hold && (u.slot t.slot).tile == some t.id
        | none => true
      if ended && (p.cont || (!p.drain && held)) then s.leaveWindow e q id else s
    | .drain p => if !w.readsEnded && u.drainReady id then s.runDrain e q w p else s
    | _ => s

/-- Abandoned tiles whose rows have finished the last accepted step free their slot (R100). -/
def State.dropAbandoned (s : State) (e q : Nat) : State :=
  let u := s.unit e q
  let low := u.low (unitRows (s.eng e).quarter)
  (u.tiles.filter fun t => t.abandoned && decide (t.base + t.steps ≤ low)).foldl (fun (s : State) t =>
    if ((s.unit e q).slot t.slot).tile == some t.id then s.freeSlot e q t.slot else s.endTile e q t.id) s

/-- What follows at once from what a unit has reached: abandoned tiles leave, waiting tiles take FREE slots, commands
finish or execute, in the order of acceptance (R97, R100, R113, R114). -/
def State.poke (s : State) (e q : Nat) : State :=
  let s := (s.dropAbandoned e q).placeTiles e q
  (s.unit e q).window.foldl (fun (s : State) w => s.pokeCmd e q w.flight) s

end Sys2Proof.Machine
end

