-- ==== Sys2Proof/Machine/Elt.lean ====
section
/-! DEFINITION. The element engines: the optimizer update with its remainder split (R175 to R184) and kernels (R185). -/

namespace Sys2Proof.Machine

open Sys2Proof

/-! ### Weights and remainders (R176, R177) -/

/-- The quantum of a BF16 pattern (R176). -/
def quantum (w : Nat) : Mag :=
  let e := w / 128 % 256
  if e == 0 then pow2 (-133) else pow2 ((e : Int) - 134)

/-- The effective weight of a pair (R176); an infinite or NaN weight is its own. -/
def effWeight (w : Nat) (r : Int) : F32 :=
  let v := bf16.decode w
  if r == 0 || !v.isFin then rne32 v
  else rne32 (Fv.add v (Fv.mul (Fv.ofInt r) (.fin false (Mag.mul (quantum w) ⟨1, 256⟩))))

/-- split(x1) (R177): what is written to W, and R. -/
def splitWeight (x : F32) : Wrote × Int :=
  let w := toBf16 (fval x)
  let v := bf16.decode w.pat
  if !v.isFin then (w, 0)
  else
    let d := Fv.add (fval x) v.negate
    let t := Fv.div d (.fin false (Mag.mul (quantum w.pat) ⟨1, 256⟩))
    (w, clampInt (-128) 127 (roundInt t .rne))

/-! ### ELT_UPDATE (R182 to R184) -/

/-- The stored values of one element. -/
structure UpdIn where
  w : Nat
  r : Int
  m : F32
  v : F32
  g : F32
  bad : Bool
deriving DecidableEq, Repr

/-- What an element stores. -/
structure UpdOut where
  w : Wrote
  r : Int
  m : Wrote
  v : Wrote
deriving DecidableEq, Repr

def updAdam (p : UpdateP) : Bool := p.opt == 1

/-- The scalar layout of a moment's type. -/
def momentFmt (t : BitVec 16) : FFmt := if typeFmt t == some .fp16 then fp16 else bf16

/-- One element of R183: m1, v1 and x1. -/
def updateCore (p : UpdateP) (e : UpdIn) : F32 × F32 × F32 :=
  let a1 := fsub 0x3F800000 p.beta1
  let a2 := fsub 0x3F800000 p.beta2
  let g := fmul e.g p.gradScale
  let m1 := if updAdam p then ffma p.beta1 e.m (fmul a1 g) else ffma p.beta1 e.m g
  let v1 := ffma p.beta2 e.v (fmul a2 (fmul g g))
  let u := if updAdam p then fdiv (fmul m1 p.bc1) (fadd (fsqrt (fmul v1 p.bc2)) p.eps) else m1
  let x := effWeight e.w e.r
  (m1, v1, fsub x (fmul p.lr (ffma p.wd x u)))

/-- One element of R183 with the draws of its moments. -/
def updateElem (p : UpdateP) (e : UpdIn) (dm dv : Nat) : UpdOut :=
  let k := updateCore p e
  let w := if p.remEn then splitWeight k.2.2 else (toBf16 (fval k.2.2), 0)
  { w := w.1, r := w.2, m := (momentFmt p.typeM).write (fval k.1) (.stoch dm)
    v := if updAdam p then (momentFmt p.typeV).write (fval k.2.1) (.stoch dv) else ⟨0, false, false⟩ }

/-- What of an element's stores counts: those that were made, of its weight, its moments (R181). -/
def UpdOut.made (o : UpdOut) (w m v : Bool) : UpdOut :=
  let cut := fun (b : Bool) (x : Wrote) => if b then x else ⟨x.pat, false, false⟩
  { o with w := cut w o.w, m := cut m o.m, v := cut v o.v }

def UpdOut.nonfinite (o : UpdOut) : Bool := o.w.nonfinite || o.m.nonfinite || o.v.nonfinite
def UpdOut.sats (o : UpdOut) : Nat :=
  (if o.w.saturated then 1 else 0) + (if o.m.saturated then 1 else 0) + if o.v.saturated then 1 else 0

/-- The binary32 pattern of an element in memory. -/
def State.load32 (s : State) (c t base i : Nat) : F32 := rne32 (s.elemAt c t base i)

/-- The arrays of an update as (address, bytes per element), in word order: W, R, M, V, G. -/
def updArrays (p : UpdateP) : List (Nat × Nat) :=
  [(p.wAddr.toNat, 2)] ++ (if p.remEn then [(p.remAddr.toNat, 1)] else []) ++ [(p.mAddr.toNat, 2)]
  ++ (if updAdam p then [(p.vAddr.toNat, 2)] else []) ++ [(p.gAddr.toNat, fmtBytes p.typeG.toNat)]

/-- The element of index i before the update. -/
def State.updIn (s : State) (c : Nat) (p : UpdateP) (i : Nat) : UpdIn where
  w := ofLeBytes (s.rdVa c (p.wAddr.toNat + 2 * i) 2)
  r := if p.remEn then (BitVec.ofNat 8 (ofLeBytes (s.rdVa c (p.remAddr.toNat + i) 1))).toInt else 0
  m := s.load32 c p.typeM.toNat p.mAddr.toNat i
  v := if updAdam p then s.load32 c p.typeV.toNat p.vAddr.toNat i else 0
  g := s.load32 c p.typeG.toNat p.gAddr.toNat i
  bad := (updArrays p).any fun a => (s.firstPoison c (a.1 + a.2 * i) a.2).isSome

/-- An element engine has had lanes active for n array cycles (R394). -/
def State.eltBusy (s : State) (el n : Nat) : State := s.bump .vwmLcEltBusy (el / 32) n

/-- The array cycles of an update: 16 elements in each, 8 under the second optimizer (R183; log entry 12). -/
def updCycles (p : UpdateP) : Nat := ceilDiv p.n.toNat (if updAdam p then 8 else 16)

/-- A store of a non-finite value by an element engine (R181): the step's flag, and the event with the lowest index. -/
def State.eltNonfinite (s : State) (c el : Nat) (es : List Nat) : State :=
  match es with
  | [] => s
  | e :: _ =>
    (s.updCtx c fun x => { x with nonfinite := true }).raise 0x0207 2 (some c) (el / 32)
      (BitVec.ofNat 32 el :: words64 (BitVec.ofNat 64 (es.foldl min e)))

/-- The element index of element i. -/
def updIndex (p : UpdateP) (i : Nat) : Nat := (p.elemBase.toNat + i) % 2 ^ 64

/-- What an update reads, element by element. -/
def updReads (p : UpdateP) : List (Nat × Nat) :=
  (List.range p.n.toNat).flatMap fun i => (updArrays p).map fun a => (a.1 + a.2 * i, a.2)

/-- The stores of R183 over the shard, from what the element engine has read; a poisoned element poisons its stores
(R229). What the stores are reported for, a value that is not finite or saturated, counts where they are made (R181,
R203), of a poisoned store by the value that the bytes as they stand give (DESIGN CHOICE, log entry 107). -/
def State.putUpdate (s : State) (id c el : Nat) (p : UpdateP) : State :=
  let n := p.n.toNat
  let is := List.range n
  let ins := is.map fun i => s.updIn c p i
  let outs := (is.zip ins).map fun q =>
    let e := updIndex p q.1
    updateElem p q.2 (s.drawOf c p.mStream e 0) (s.drawOf c p.vStream e 0)
  let bad := fun k => (nth ⟨0, 0, 0, 0, 0, false⟩ ins k).bad
  let put := fun (s : State) (a k : Nat) (f : UpdOut → Nat) =>
    s.storeMade id c a (outs.flatMap fun o => leBytes k (f o)) fun j => bad (j / k)
  let w := put s p.wAddr.toNat 2 fun o => o.w.pat
  let s := if p.remEn then (put w.2 p.remAddr.toNat 1 fun o => (BitVec.ofInt 8 o.r).toNat).2 else w.2
  let m := put s p.mAddr.toNat 2 fun o => o.m.pat
  let v := if updAdam p then put m.2 p.vAddr.toNat 2 fun o => o.v.pat else (0, m.2)
  let made := (is.zip outs).map fun q => (q.1, q.2.made (q.1 < w.1 / 2) (q.1 < m.1 / 2) (q.1 < v.1 / 2))
  let s := (v.2.bump .vwmLcSat (el / 32) (made.map fun q => q.2.sats).sum).deep (el / 32) Dc.eltElems 1 c n
  s.eltNonfinite c el (made.filterMap fun q => if q.2.nonfinite then some (updIndex p q.1) else none)

/-- The update runs: it reads its operands, and unless a read has ended it, stores (R203). -/
def State.runUpdate (s : State) (id c el : Nat) (p : UpdateP) : State :=
  let s := (s.loadAll id c (updReads p)).eltBusy el (updCycles p)
  if s.faulted id then s.finishLater id else (s.putUpdate id c el p).finishLater id

/-- A type field of an update (R182): only formats that it allows. -/
def chkUpdType (w : Nat) (t : BitVec 16) (fs : List Fmt) : Option Err := chkFmt w t fun f => fs.contains f

/-- The field checks of ELT_UPDATE, in word order (R184, R203, R309). -/
def State.chkUpdate (s : State) (c : Nat) (p : UpdateP) : List (Option Err) :=
  let n := p.n.toNat
  let adam := updAdam p
  let gb := fmtBytes p.typeG.toNat
  [s.chkElt c 4 p.elt.toNat, errIf (decide (1 < p.opt.toNat)) (Err.word St.badField 4),
   chkUpdType 5 p.typeM [.bf16, .fp16], if adam then chkUpdType 5 p.typeV [.bf16, .fp16] else none,
   chkUpdType 6 p.typeG [.bf16, .fp16, .fp32], chkUpdType 6 p.typeW [.bf16], errIf (n == 0) (Err.word St.badField 7),
   chkAlign 8 p.wAddr 2, s.chkWrite c 8 p.wAddr (2 * n),
   if p.remEn then s.chkWrite c 10 p.remAddr n else none,
   chkAlign 12 p.mAddr 2, s.chkWrite c 12 p.mAddr (2 * n)]
  ++ (if adam then [chkAlign 14 p.vAddr 2, s.chkWrite c 14 p.vAddr (2 * n)] else [])
  ++ [chkAlign 16 p.gAddr gb, s.chkRead c 16 p.gAddr (gb * n)]

/-- The stream checks of an update (R190): one stream for both moments is a duplicate. With opt 0x0 v_stream is not used and sets
nothing (DESIGN CHOICE, log entry 102). -/
def State.updStreams (s : State) (c : Nat) (p : UpdateP) : State :=
  let n := p.n.toNat
  let s := s.checkStream c p.mStream [(p.mAddr.toNat, 2 * n)]
  if !updAdam p then s
  else if p.mStream == p.vStream then s.streamDup c p.mStream
  else s.checkStream c p.vStream [(p.vAddr.toNat, 2 * n)]

/-! ### Kernels (R43, R47 to R50, R180, R185, R431) -/

/-- The layout of an MX element with a floating-point value (R50). -/
def Fmt.mxLayout : Fmt → Option FFmt
  | .mxE4m3 => some Machine.e4m3 | .mxE5m2 => some Machine.e5m2 | .mxE2m3 => some ⟨2, 3, 1, false⟩
  | .mxE3m2 => some ⟨3, 2, 3, false⟩ | .mxFp4 => some ⟨2, 1, 1, false⟩
  | _ => none

/-- The largest element pattern (R50): the formats without a NaN use every pattern. -/
def Fmt.mxMax (f : Fmt) (l : FFmt) : Nat :=
  match f with
  | .mxE4m3 | .mxE5m2 => l.maxFinite
  | _ => 2 ^ (l.ebits + l.mbits) - 1

/-- A finite value over its block scale as an MX element: its pattern, and whether it saturated (R47). -/
def Fmt.mxEncode (f : Fmt) (neg : Bool) (m : Mag) (rnd : Rnd) : Nat × Bool :=
  match f.mxLayout with
  | some l =>
    let q := l.quantum m
    let n := (Mag.div m (pow2 q)).round rnd
    let pat := ((q + l.mbits + l.bias - 1) * 2 ^ l.mbits + n).toNat
    let top := f.mxMax l
    ((if neg then 2 ^ (l.ebits + l.mbits) else 0) + min pat top, decide (top < pat))
  | none =>
    let n := roundInt (.fin neg (Mag.mul m ⟨64, 1⟩)) rnd
    let k := clampInt (-128) 127 n
    ((BitVec.ofInt 8 k).toNat, k != n)

/-- A kernel's running state: its engine and command, its registers, whether it has read poison, the elements stored
non-finite. -/
structure KRun where
  id : Nat
  ctx : Nat
  p : KernelP
  regs : Map W32
  pois : Bool
  nf : List Nat
deriving DecidableEq, Repr

def KRun.reg (k : KRun) (n : Nat) : W32 := Map.get (fun _ => 0) k.regs n
def KRun.setReg (k : KRun) (n : Nat) (v : W32) : KRun := { k with regs := Map.set (fun _ => 0) k.regs n v }

/-- An operation on values (R180); min and max return the operand that is no NaN where one is, and of +0 and −0 the first
(DESIGN CHOICE, log entry 96). -/
def kernelOp (f : KOp) (a b c : F32) : F32 :=
  match f with
  | .add => fadd a b
  | .sub => fsub a b
  | .mul => fmul a b
  | .div => fdiv a b
  | .sqrt => fsqrt a
  | .fma => ffma a b c
  | .rsqrt => frsqrt a
  | .exp2 => fexp2 a
  | .log2 => flog2 a
  | .min => fmin a b
  | .max => fmax a b

/-- How a store rounds: with a draw of one of the command's streams, or to nearest even (R187). A draw that names a field at
or beyond stream_count is made under that field's identifier, which R190 does not check (DESIGN CHOICE, log entry 97). -/
def State.kernelRnd (s : State) (k : KRun) (elem : Nat) (d : Option (Fin 4 × BitVec 31)) : Rnd :=
  match d with
  | some q => .stoch (s.drawOf k.ctx (nth 0 k.p.streams q.1.val) elem q.2.toNat)
  | none => .rne

/-- A store that writes a non-finite value is noted, but an infinity under inf_ok (R181). -/
def KRun.note (k : KRun) (elem : Nat) (written : Fv) : KRun :=
  if written.isFin || (k.p.infOk && written.isInf) then k else { k with nf := k.nf ++ [elem] }

/-- A store of a kernel and what is counted for it where it is made (R181, R203): `nf` the value written, `sat` a saturating
write. -/
def State.kernelMade (k : KRun) (s : State) (elem : Nat) (nf : Option Fv) (sat : Bool) : KRun × State :=
  if !s.running k.id then (k, s)
  else (match nf with | some v => k.note elem v | none => k, if sat then s.bump .vwmLcSat (k.p.elt.toNat / 32) 1 else s)

/-- The check of a kernel's access where it is made (R199, R203, R212). -/
def State.kernelChk (s : State) (k : KRun) (write : Bool) (a n : Nat) : Option Nat :=
  (s.chkNamed k.ctx write (a, n)).map fun e => e.st

/-- An access that is refused ends the kernel; stores already made stand (R203). -/
def State.kernelEnd (s : State) (k : KRun) (st : Nat) : State :=
  s.failFlight k.id st (if st == St.badField || st == St.notOwner then 0xFFFFFFFF else 0)

/-- Read bytes of a kernel: none where the access ends it (R203); poison marks the stores after it (R229). -/
def State.kernelRead (s : State) (k : KRun) (a n : Nat) : KRun × State × Option Nat :=
  match s.kernelChk k false a n with
  | some st => (k, s.kernelEnd k st, none)
  | none =>
    let x := s.load k.id k.ctx a n
    ({ k with pois := k.pois || x.2.1 }, x.2.2, some (ofLeBytes x.1))

/-- A store in a scalar format; an integer format that cannot hold the value stores a free value. -/
def State.kernelStore (s : State) (k : KRun) (a : Nat) (f : Fmt) (elem : Nat) (value : W32) (rnd : Rnd) : KRun × State :=
  let v := fval value
  let n := f.ebits / 8
  match f.scalar with
  | some l =>
    let w := l.write v rnd
    State.kernelMade k (s.store k.id k.ctx a (leBytes n w.pat) k.pois) elem (some (l.decode w.pat)) w.saturated
  | none =>
    let i := roundInt v rnd
    let fits := v.isFin && decide (-(2 ^ (f.ebits - 1) : Int) ≤ i) && decide (i < 2 ^ (f.ebits - 1))
    let x := if fits then (BitVec.ofInt 32 i).toNat else Config.openStore f.ebits value
    (k, s.store k.id k.ctx a (leBytes n x) k.pois)

/-- The bytes that hold element `index` of a packed array (R53): the first, and how many. -/
def Fmt.span (f : Fmt) (base index : Nat) : Nat × Nat :=
  (base + index * f.ebits / 8, (index * f.ebits % 8 + f.ebits + 7) / 8)

/-- Store bits [index·w + w − 1 : index·w] of a packed array; where an element does not fill its bytes, the bits beside it
are read, and written back (R53, R229). -/
def State.storeBits (s : State) (k : KRun) (base w index v : Nat) : KRun × State :=
  let a := base + index * w / 8
  let n := (index * w % 8 + w + 7) / 8
  let sh := index * w % 8
  let put := fun (k : KRun) (s : State) =>
    let old := ofLeBytes (s.rdPending k.ctx a n)
    let new := old - old / 2 ^ sh % 2 ^ w * 2 ^ sh + v % 2 ^ w * 2 ^ sh
    (k, s.store k.id k.ctx a (leBytes n new) k.pois)
  if w % 8 == 0 then put k s
  else match s.kernelRead k a n with
    | (k, s, none) => (k, s)
    | (k, s, some _) => put k s

/-- A store of an MX element, whose block scale is read (R47 to R50, R229, R431): an infinity or a NaN writes the block
scale as 0xFF; the element beside it, and an element under a scale of 0xFF, is a free value. A finite value stored under
a scale of 0xFF reads as NaN and is reported as one (DESIGN CHOICE, log entry 91: R431 speaks of infinities and NaNs
alone). -/
def State.kernelMx (s : State) (k : KRun) (base index scaleAddr : Nat) (f : Fmt) (elem : Nat) (value : W32) (rnd : Rnd) :
    KRun × State :=
  match s.kernelRead k scaleAddr 1 with
  | (k, s, none) => (k, s)
  | (k, s, some sc) =>
    let put := fun (x : Nat) => s.storeBits k base f.ebits index x
    let made := fun (q : KRun × State) (nf : Option Fv) (sat : Bool) => State.kernelMade q.1 q.2 elem nf sat
    let free := Config.openMx f.ebits sc value
    match fval value with
    | .fin neg m =>
      if sc == 255 then made (put free) (some .nan) false
      else
        let r := f.mxEncode neg (Mag.div m (pow2 ((sc : Int) - 127))) rnd
        made (put r.1) none r.2
    | _ =>
      let q := put free
      made (q.1, q.2.store q.1.id q.1.ctx scaleAddr [255] q.1.pois) (some .nan) false

/-- The format of a kernel's access, where its role allows it (R43): scalar or MX; another ends the kernel with
ST_BAD_FIELD. -/
def kernelFmt (code : BitVec 8) (mx : Bool) : Option Fmt :=
  (Fmt.ofCode code.toNat).filter fun f => f.eltLoad && f.isMx == mx

/-- A load into a register (R43, R49): an integer, and an MX value beyond binary32, as R180 rounds. -/
def State.kernelLoad (s : State) (k : KRun) (dst : Nat) (fmt : BitVec 8) (a : Nat) : KRun × State :=
  match kernelFmt fmt false with
  | none => (k, s.kernelEnd k St.badField)
  | some f => match s.kernelRead k a (f.ebits / 8) with
    | (k, s, some b) => (k.setReg dst (rne32 (f.value b)), s)
    | (k, s, none) => (k, s)

def State.kernelLoadMx (s : State) (k : KRun) (dst : Nat) (fmt : BitVec 8) (base index scaleAddr : Nat) : KRun × State :=
  match kernelFmt fmt true with
  | none => (k, s.kernelEnd k St.badField)
  | some f =>
    let at_ := f.span base index
    match s.kernelRead k at_.1 at_.2 with
    | (k, s, none) => (k, s)
    | (k, s, some b) => match s.kernelRead k scaleAddr 1 with
      | (k, s, none) => (k, s)
      | (k, s, some sc) =>
        (k.setReg dst (rne32 (f.mxValue (b / 2 ^ (index * f.ebits % 8) % 2 ^ f.ebits) sc)), s)

/-- One operation of a kernel. -/
def State.kernelStep (q : KRun × State) (a : KAccess) : KRun × State :=
  let k := q.1
  let s := q.2
  if !s.running k.id then q
  else match a with
  | .const dst v => (k.setReg dst v, s)
  | .op f dst x y z => (k.setReg dst (kernelOp f (k.reg x) (k.reg y) (k.reg z)), s)
  | .load dst addr fmt => s.kernelLoad k dst fmt addr.toNat
  | .loadMx dst base index scaleAddr fmt => s.kernelLoadMx k dst fmt base.toNat index scaleAddr.toNat
  | .read addr len => let r := s.kernelRead k addr.toNat len; (r.1, r.2.1)
  | .store addr fmt elem src d =>
    match kernelFmt fmt false with
    | none => (k, s.kernelEnd k St.badField)
    | some f => match s.kernelChk k true addr.toNat (f.ebits / 8) with
      | some st => (k, s.kernelEnd k st)
      | none => s.kernelStore k addr.toNat f elem.toNat (k.reg src) (s.kernelRnd k elem.toNat d)
  | .storeMx base index scaleAddr fmt elem src d =>
    match kernelFmt fmt true with
    | none => (k, s.kernelEnd k St.badField)
    | some f =>
      let at_ := f.span base.toNat index
      match (s.kernelChk k true at_.1 at_.2).orElse fun _ => s.kernelChk k true scaleAddr.toNat 1 with
      | some st => (k, s.kernelEnd k st)
      | none => s.kernelMx k base.toNat index scaleAddr.toNat f elem.toNat (k.reg src) (s.kernelRnd k elem.toNat d)
  | .scale addr byte elem =>
    match s.kernelChk k true addr.toNat 1 with
    | some st => (k, s.kernelEnd k st)
    | none => State.kernelMade k (s.store k.id k.ctx addr.toNat [byte] k.pois) elem.toNat
        (if byte == 255 then some .nan else none) false

/-- What a kernel reads: the pages among it that lie on flash are read first (R223). -/
def kernelReads (a : KAccess) : List (Nat × Nat) :=
  match a with
  | .load _ addr fmt => ((kernelFmt fmt false).map fun f => (addr.toNat, f.ebits / 8)).toList
  | .loadMx _ base index scaleAddr fmt =>
    match kernelFmt fmt true with
    | some f => [f.span base.toNat index, (scaleAddr.toNat, 1)]
    | none => []
  | .read addr len => [(addr.toNat, len)]
  | _ => []

/-- The kernel runs. -/
def State.runKernel (s : State) (id c : Nat) (p : KernelP) (acc : List KAccess) : State :=
  let el := p.elt.toNat
  let r := acc.foldl State.kernelStep (⟨id, c, p, [], false, []⟩, s)
  (((r.2.eltBusy el (Config.eltCycles 0x320 p.n.toNat)).eltNonfinite c el r.1.nf).deep (el / 32) Dc.eltElems 2 c
    p.n.toNat).finishLater id

/-! ### The window (R179) -/

/-- Execute a command of the element engine. -/
def State.runElt (s : State) (el : Nat) (f : Flight) : State :=
  match f.cmd with
  | some (.eltUpdate _ p) => s.runUpdate f.id f.ctx el p
  | some (.eltKernel _ p _ acc) => s.runKernel f.id f.ctx p acc
  | _ => s

/-- The command that the element engine may start: the oldest delivered one, once the one before it has completed, the
pages it reads from flash are there, the outlier terms of the cluster are done and the engine holds its grant (R122, R179,
R223, R356). -/
def State.eltFront (s : State) (el : Nat) : Option Flight :=
  (((s.eltList el).head?).bind s.flightOf).filter fun f =>
    !f.finished && !s.reading f.id && !s.termsDue (clusterOfElt el) && s.grantedTo (el / 32) (.elt (el % 32))

/-- The element engine starts what it may. -/
def State.pokeElt (s : State) (el : Nat) : State :=
  match s.eltFront el with
  | some f => s.runElt el f
  | none => s

/-- Deliver a command to its element engine: the pages that it reads from flash are asked for, and the engine's grant
(R179, R223, R354). -/
def State.toElt (s : State) (id c el : Nat) (cmd : Instr) (reads : List (Nat × Nat)) : State :=
  let s := { s with elts := Map.set (fun _ => []) s.elts el (s.eltList el ++ [id]) }
  let s := (s.updFlight id fun f => { f with cmd := some cmd }).queueReads id c reads
  (s.giveWork (el / 32) (.elt (el % 32))).pokeElt el

/-- ELT_UPDATE applies the optimizer update to a shard (R182 to R184). -/
def execEltUpdate (h : Hdr) (p : UpdateP) (s : State) : Out :=
  s.packet s.txnScopes h ⟨0x321, 1, .context, false⟩ fun id c s =>
    s.guarded id (firstErr (s.chkUpdate c p)) fun s =>
      let el := p.elt.toNat
      let rs := (updArrays p).map fun a => (a.1, a.2 * p.n.toNat)
      let s := s.names id c rs rs.dropLast [clusterOfElt el]
      (s.updStreams c p).toElt id c el (.eltUpdate h p) rs

/-- The checks of ELT_KERNEL (R185): its three addresses are judged by their place alone (R199, R309), for R203 exempts the
kernel's own accesses from the page checks at acceptance. -/
def State.kernelErr (s : State) (c : Nat) (p : KernelP) (found : Bool) : Option Err :=
  firstErr [s.chkElt c 4 p.elt.toNat, chkAlign 5 p.kernelAddr 64, s.chkPlace c 5 p.kernelAddr,
    errIf (!found) (Err.word St.badField 5), s.chkPlace c 8 p.argAddr, s.chkPlace c 16 p.dstAddr,
    errIf (decide (4 < p.streamCount.toNat)) (Err.word St.badField 20)]

/-- ELT_KERNEL runs a kernel of the context's kernel image (R185): `found`: firmware finds the entry; `acc`: what the
kernel does. -/
def execEltKernel (h : Hdr) (p : KernelP) (found : Bool) (acc : List KAccess) (s : State) : Out :=
  s.packet s.txnScopes h ⟨0x320, 1, .context, false⟩ fun id c s =>
    s.guarded id (s.kernelErr c p found) fun s =>
      let el := p.elt.toNat
      let s := (s.names id c [] [] (s.clustersOf c)).updFlight id fun f => { f with kernel := true }
      let s := (p.streams.take p.streamCount.toNat).foldl (fun (s : State) st =>
        s.checkStream c st [(p.dstAddr.toNat, p.dstLen.toNat)]) s
      s.toElt id c el (.eltKernel h p found acc) (acc.flatMap kernelReads)

end Sys2Proof.Machine
end

