-- ==== Sys2Proof/Machine/Engine.lean ====
section
/-! DEFINITION. The array engines: delivery and acceptance of array commands (R110 to R116), the run-ahead rule and the
bit-plane table arithmetic (R67 to R81, R92 to R99), promotion and spill (R118 to R127), check tiles (R371, R372). -/

namespace Sys2Proof.Machine

open Sys2Proof

/-! ### Geometry (R72, R104) -/

/-- Usable lanes of a unit. -/
def State.unitLanes (s : State) (e q : Nat) : Nat :=
  if (s.eng e).quarter then s.usableLanes e (32 * (q % 2)) (32 * (q % 2) + 32) else s.usableLanes e 0 64

/-- Lanes of a column group for a b type (R72). -/
def groupLanes (typeB : Nat) : Nat := ceilDiv (csiWidth typeB) 2

/-- Column groups of a unit for a b type (R72). -/
def State.groups (s : State) (e q typeB : Nat) : Nat := s.unitLanes e q / groupLanes typeB

/-- K-groups of a command (R67). -/
def kGroups (k : Nat) : Nat := 16 * ceilDiv k 64

/-- The promotion interval P in k-groups (R118). -/
def promoInterval (wa : Nat) : Nat := min (2 ^ (19 - wa)) 1024

def opSramBytes : Nat := 1048576

/-- The local address of an operand SRAM offset of an engine (R200). -/
def opVa (e off : Nat) : Nat := 263882790666240 + 33554432 * (e / 16) + 1048576 * (e % 16) + off

def OpRegion.fits (r : OpRegion) : Bool := decide (r.base + (r.rows - 1) * r.stride + r.bytes ≤ opSramBytes)

/-! ### Checks of ARR_MATMUL (R18, R55, R60, R102, R111, R136) -/

/-- The field checks in word order; `first`: the command opens its tile. -/
def State.matmulFields (s : State) (e q c : Nat) (p : MatmulP) (first : Bool) : List (Option Err) :=
  let quarter := (s.eng e).quarter
  let ra := (matmulRegions p).head?
  let rb := (matmulRegions p)[1]?
  let scales := first && p.init != 1
  let out := fun (r : Option OpRegion) => match r with | some r => !OpRegion.fits r | none => true
  [errIf ((first && p.init == 3) || (quarter && first && p.init == 1) || (quarter && !p.cont && !p.drain))
     (Err.word St.badField 4),
   chkCsi 5 p.typeA, chkCsi 5 p.typeB,
   errIf (p.mRows == 0 || decide (unitRows quarter < p.mRows.toNat) || p.nCols == 0
     || decide (s.groups e q p.typeB.toNat < p.nCols.toNat)) (Err.word St.badField 6),
   errIf (p.kLen == 0) (Err.word St.badField 7),
   errIf (p.aBase.toNat % 64 != 0 || (p.aStride.toNat % 64 == 0 && out ra)) (Err.word St.badField 8),
   errIf (p.aStride.toNat % 64 != 0) (Err.word St.badField 9),
   errIf (p.bBase.toNat % 64 != 0 || (p.bStride.toNat % 64 == 0 && out rb)) (Err.word St.badField 10),
   errIf (p.bStride.toNat % 64 != 0) (Err.word St.badField 11),
   errIf (scales && (p.aScale.toNat % 64 != 0 || decide (opSramBytes < p.aScale.toNat + 4 * p.mRows.toNat)))
     (Err.word St.badField 12),
   errIf (scales && (p.bScale.toNat % 64 != 0 || decide (opSramBytes < p.bScale.toNat + 4 * p.nCols.toNat)))
     (Err.word St.badField 13),
   if first && p.init == 2 then firstErr [chkAlign 14 p.preloadDesc 64, s.chkRead c 14 p.preloadDesc 64] else none,
   if first || (!p.cont && p.drain) then firstErr [chkAlign 16 p.epiDesc 64, s.chkRead c 16 p.epiDesc 128] else none]

/-- The memory that a preload names (R121, R432). -/
def Pre.reads (d : Pre) (m n : Nat) : List (Nat × Nat) :=
  (if d.bias then [(d.biasAddr, 4 * n)] else [])
  ++ (if d.resid then (List.range m).map fun r => (d.residAddr + r * d.residStride, 4 * n) else [])
  ++ if d.outlier && d.nOut != 0 then
      ((List.range m).map fun r => (d.outA + r * d.outAStride, 2 * d.nOut))
      ++ (List.range d.nOut).map fun j => (d.outB + j * d.outBStride, 2 * n)
    else []

/-- The faults of a preload descriptor: alignment to the element, n_out beyond its range, unmapped sources. -/
def State.preFault (s : State) (c : Nat) (d : Pre) (m n : Nat) : Option Err :=
  firstErr (errIf ((d.bias && d.biasAddr % 4 != 0)
      || (d.resid && (d.residAddr % 4 != 0 || d.residStride % 4 != 0))
      || (d.outlier && (d.outA % 2 != 0 || d.outB % 2 != 0 || d.outAStride % 2 != 0 || d.outBStride % 2 != 0
        || decide (262143 < d.nOut)))) (Err.state St.badField)
    :: (d.reads m n).map fun r => s.chkNamed c false r)

/-- An FP32 scale vector of operand SRAM (R91). -/
def State.scaleVec (s : State) (e off n : Nat) : List W32 :=
  bytesToWords n (s.rd (physSram (33554432 * (e / 16) + 1048576 * (e % 16) + off)) (4 * n))

/-- The slot of a tile's first command (R102). -/
def UnitS.firstSlot (u : UnitS) (quarter : Bool) (p : MatmulP) : Nat := if quarter then u.nextSlot else p.slot.toNat

/-- The tile that a first command with init accumulate continues (R97). -/
def State.heldTile (s : State) (e q : Nat) (p : MatmulP) : Option Tile :=
  let u := s.unit e q
  let x := u.slot (u.firstSlot (s.eng e).quarter p)
  if p.init == 1 && x.st == .hold then x.tile.bind u.tile? else none

/-- The spill and chain fields in force for a new tile: a tile continued from HOLD keeps its spill fields (R126, R136). -/
def firstFields (d : Epi) (old : Option Tile) : Epi :=
  match old with
  | some t => { d with
      spillRuns := t.first.spillRuns, spillStream := t.first.spillStream, rowOrigin := t.first.rowOrigin
      colOrigin := t.first.colOrigin, ldElems := t.first.ldElems }
  | none => d

/-- Granules that a new tile asks for (R127). -/
def newGranules (f : Epi) (old : Option Tile) (m n : Nat) : Nat :=
  let has := match old with | some t => !t.region.isEmpty | none => false
  if (decide (0 < f.spillRuns) || decide (1 < f.chainLen)) && !has then spillGranules m n else 0

/-- The contracted stored dimension carries the scale (R60, R88). -/
def axisFault (t : BitVec 16) (tr : Bool) : Bool := csiAxis t.toNat != tr

/-- Everything that refuses an ARR_MATMUL when it is accepted, in order (R18, R111, R136). `t`: its open tile. R111 puts
the checks of R60 and R55 after those of the slot; the faults of the descriptors stand before the slot checks (DESIGN
CHOICE, log entry 89: no rule places them). -/
def State.matmulFault (s : State) (e q c : Nat) (p : MatmulP) (t : Option Tile) : Option Err :=
  let quarter := (s.eng e).quarter
  let u := s.unit e q
  let first := t.isNone
  let names := !p.cont && p.drain
  let m := p.mRows.toNat
  let n := p.nCols.toNat
  match firstErr (s.matmulFields e q c p first) with
  | some er => some er
  | none =>
    let d := Epi.ofBytes (s.rdVa c p.epiDesc.toNat 128)
    let old := s.heldTile e q p
    let f := match t with | some t => t.first | none => firstFields d old
    let x := u.slot (u.firstSlot quarter p)
    let pre := Pre.ofBytes (s.rdVa c p.preloadDesc.toNat 64)
    let bad := fun (off k : Nat) => (s.scaleVec e off k).any fun w => !scaleOk w
    firstErr [if first then d.firstFaults quarter else none,
      if names then firstErr [d.drainFaults f, s.chkEpilogue c d f m n] else none,
      if first && p.init == 2 then s.preFault c pre m n else none,
      errIf (first && p.init == 1 && x.st != .hold) (Err.state St.slotEmpty),
      errIf (first && p.init != 1 && x.st == .hold) (Err.state St.slotBusy),
      errIf (axisFault p.typeA p.ta || axisFault p.typeB p.tb) (Err.state St.scaleAxis),
      errIf (first && p.init != 1 && (bad p.aScale.toNat m || bad p.bScale.toNat n)) (Err.state St.badScale),
      if first && f.midLink then (s.chkEngine c 0 f.nextEngine).map fun er => Err.state er.st else none,
      errIf (first && decide ((s.partEnds (clusterOfEng e)).1 < newGranules f old m n)) (Err.state St.spillQuota)]

/-! ### Poisoned operands (R229) -/

/-- The lines of a channel's codes: (offset, bytes). -/
def chanRanges (base stride t : Nat) (tr : Bool) (k ch : Nat) : List (Nat × Nat) :=
  let w := csiWidth t
  if tr then (List.range k).map fun i => (base + i * stride + ch * w / 8, (ch * w + w - 1) / 8 - ch * w / 8 + 1)
  else [(base + ch * stride, ceilDiv (k * w) 8)]

/-- The first poisoned address of a channel's codes or scale. -/
def State.chanPoison (s : State) (c e base stride t : Nat) (tr : Bool) (k ch : Nat) (scale : Option Nat) : Option Nat :=
  (chanRanges base stride t tr k ch ++ (match scale with | some o => [(o + 4 * ch, 4)] | none => [])).findSome?
    fun r => s.firstPoison c (opVa e r.1) r.2

/-- Poisoned rows and columns of a command, each with an address. -/
def State.opPoison (s : State) (c e : Nat) (p : MatmulP) (scales : Bool) : List (Nat × Nat) × List (Nat × Nat) :=
  let k := p.kLen.toNat
  let g := fun (n base stride t : Nat) (tr : Bool) (sc : Nat) => (List.range n).filterMap fun ch =>
    (s.chanPoison c e base stride t tr k ch (if scales then some sc else none)).map fun a => (ch, a)
  (g p.mRows.toNat p.aBase.toNat p.aStride.toNat p.typeA.toNat p.ta p.aScale.toNat,
   g p.nCols.toNat p.bBase.toNat p.bStride.toNat p.typeB.toNat p.tb p.bScale.toNat)

/-! ### Chain rows on their way (R130, R131) -/

/-- The drain of a tile. -/
def State.drainOf (s : State) (e q id : Nat) : Option DrainS := (s.unit e q).drains.find? fun d => d.tile == id

/-- The links of the row's context on engine e that could receive a chain row: none is over or given up, and none sent it. -/
def State.chainLinks (s : State) (e : Nat) (x : ChainRow) : List Tile :=
  (s.unit e 0).tiles.filter fun t =>
    t.ctx == x.ctx && decide (1 < t.first.chainLen) && !t.isOver && !t.abandoned
    && !(x.fromEngine == e && x.fromTile == t.id)

/-- The receiving tile of a chain row (R129 to R131): the link that follows the row's; without one, another tile of the
chain on the engine that waits for a row of this number, or does not drain yet, and that will find that the row does not
follow from its own fields. Which other link in drain receives a row that follows from no tile there, the first link of
its chain among them, is open: as `Config.chainTaken` has it (R131), or the row waits for the tile of its chain (R130;
DEDUCED, log entry 48). -/
def State.chainTile (s : State) (e : Nat) (x : ChainRow) : Option Tile :=
  if (s.eng e).quarter then none
  else
    let links := (s.chainLinks e x).filter fun t => t.first.chainId == x.chainId
    let taken := fun (t : Tile) => Config.chainTaken x.fromEngine x.fromTile e t.id
    if links.isEmpty then
      (s.chainLinks e x).find? fun t => decide (0 < t.first.chainPos)
        && (s.drainOf e 0 t.id).any (fun d => decide (d.next < t.m)) && taken t
    else
      ((links.find? fun t => t.first.chainLen == x.chainLen && t.first.chainPos == x.chainPos + 1).orElse fun _ =>
        links.find? fun t => (s.drainOf e 0 t.id).all fun d => d.next == x.row).orElse fun _ =>
        links.find? fun t => t.first.chainPos == 0 && taken t

/-- A row follows from the fields of a link (R131). -/
def Tile.follows (t : Tile) (x : ChainRow) : Bool :=
  x.chainId == t.first.chainId && x.chainLen == t.first.chainLen && x.chainPos + 1 == t.first.chainPos && x.vals.length == t.n

/-- The link that meets a row now: one in drain that finds that the row does not follow (R131), or whose own row of that
number is present and next (R130). -/
def State.chainMeets (s : State) (e : Nat) (x : ChainRow) : Option Tile :=
  (s.chainTile e x).filter fun t =>
    (s.drainOf e 0 t.id).any fun d => !t.follows x || (d.next == x.row && decide (x.row < t.m))

/-- A row waits in the spill region of its tile, which has a place for each of the tile's own rows (R127, R130). -/
def State.chainRegion (s : State) (x : ChainRow) : Option Tile :=
  (s.chainTile x.target x).filter fun t => !t.region.isEmpty && decide (x.row < t.m)

/-- Where word c of a waiting row lies (R124, R130): in the granules of the cluster's early rows from word `place` on, or in
its tile's region at the place of its element; nowhere in a region that holds the spill words of the tile itself, which
fill it (R127). The places are the model's (DESIGN CHOICE, log entry 104: no rule gives them). -/
def State.chainWord (s : State) (k : Nat) (x : ChainRow) (c : Nat) : Option Nat :=
  match x.place with
  | some p => (s.clusS k).chainGr[(p + c) / 8192]?.map fun g => physSram (granuleOff k g + 8 * ((p + c) % 8192))
  | none => (s.chainRegion x).bind fun t => if t.first.spillRuns == 0 then t.spillAddr x.target x.row c else none

/-- A waiting row with the marks of its lines (R229). -/
def State.chainMarks (s : State) (k : Nat) (x : ChainRow) : ChainRow :=
  { x with vals := x.vals.mapIdx fun c v =>
      { v with pois := v.pois || (s.chainWord k x c).any fun a => s.poison.contains (a / 64) } }

/-- The waiting rows of a cluster take the marks of their lines. -/
def State.markEarly (s : State) (k : Nat) : State :=
  let c := s.clusS k
  s.setClusS k { c with chainBuf := c.chainBuf.map fun x => s.chainMarks k x }

/-- Store the words of a waiting row (R124). -/
def State.storeChain (s : State) (k : Nat) (x : ChainRow) : State :=
  x.vals.zipIdx.foldl (fun (s : State) v =>
    match s.chainWord k x v.2 with
    | some a => s.wr a (leBytes 8 v.1.toNat) false
    | none => s) s

/-- Give the rows that wait outside a region their places, one after another. -/
def State.placeEarly (s : State) : Nat → List ChainRow → Nat × List ChainRow
  | n, [] => (n, [])
  | n, x :: l =>
    if (s.chainRegion x).isSome then let r := s.placeEarly n l; (r.1, { x with place := none } :: r.2)
    else let r := s.placeEarly (n + x.vals.length) l; (r.1, { x with place := some n } :: r.2)

/-- Bring the granules of early rows to what they need, and store the rows there; none when the partition is too full
(R130). -/
def State.fitEarly (s : State) (k : Nat) : Option State :=
  let c := s.clusS k
  let rows := s.placeEarly 0 c.chainBuf
  let n := ceilDiv (8 * rows.1) 65536
  let fit := if n ≤ c.chainGr.length then
      let s := s.dropSpill k (c.chainGr.drop n)
      some (s.setClusS k { s.clusS k with chainBuf := rows.2, chainGr := c.chainGr.take n })
    else (s.takeSpill k (n - c.chainGr.length)).map fun r =>
      r.2.setClusS k { r.2.clusS k with chainBuf := rows.2, chainGr := c.chainGr ++ r.1 }
  fit.map fun s => rows.2.foldl (fun (s : State) x => s.storeChain k x) s

/-- The waiting rows of a cluster after a tile has come or gone: those with a region move there (R130). -/
def State.settleEarly (s : State) (k : Nat) : State :=
  if (s.clusS k).chainBuf.isEmpty then s else let s := s.markEarly k; (s.fitEarly k).getD s

/-- A row joins those that wait in its cluster; none where it has no room. -/
def State.holdRow (s : State) (k : Nat) (x : ChainRow) : Option State :=
  let s := s.markEarly k
  (s.setClusS k { s.clusS k with chainBuf := (s.clusS k).chainBuf ++ [x] }).fitEarly k

/-- A chain row finds room: its tile's drain, or the receiving cluster's spill partition (R130). -/
def State.chainRoom (s : State) (e : Nat) (x : ChainRow) : Bool :=
  (s.chainMeets e x).isSome || (s.holdRow (clusterOfEng e) x).isSome

/-- A row of a link is due and finds no room at the next link (R130). -/
def State.rowStuck (s : State) (e : Nat) (u : UnitS) (t : Tile) : Bool :=
  t.first.midLink && (s.eng t.first.nextEngine).chainIn.any fun x =>
    x.fromEngine == e && x.fromTile == t.id && decide (x.due < u.cycle) && !s.chainRoom t.first.nextEngine x

/-- The chain drains of a unit that wait: for a row of the link before, or for room at the next link (R130, R131). Each
counts its array cycle in SPL_CHAIN_WAIT, where several of a cluster wait at once too (DESIGN CHOICE, log entry 100). -/
def State.chainWaits (s : State) (e q : Nat) : Nat :=
  let u := s.unit e q
  (u.drains.filter fun d => (u.tile? d.tile).any fun t =>
    (decide (0 < t.first.chainPos) && decide (d.next < t.m) && decide (d.readAt ≤ u.cycle)) || s.rowStuck e u t).length

/-! ### Acceptance (R91, R95, R97, R99 to R102, R112, R126, R127) -/

/-- The tile that a first command opens, before its granules. -/
def State.newTile (s : State) (e q id queue c : Nat) (p : MatmulP) : Tile :=
  let u := s.unit e q
  let old := s.heldTile e q p
  let d := Epi.ofBytes (s.rdVa c p.epiDesc.toNat 128)
  { id := u.nextTile, queue := queue, ctx := c, slot := u.firstSlot (s.eng e).quarter p, init := p.init.toNat
    typeA := p.typeA.toNat, typeB := p.typeB.toNat, ta := p.ta, tb := p.tb, m := p.mRows.toNat, n := p.nCols.toNat
    base := u.nextStep, steps := 0, closed := false, drain := false, first := firstFields d old, last := none
    pre := if p.init == 2 then some (Pre.ofBytes (s.rdVa c p.preloadDesc.toNat 64)) else none
    flight := id, abandoned := false, tablePoison := false, placed := old.isSome, isOver := false
    scaleA := match old with | some t => t.scaleA | none => s.scaleVec e p.aScale.toNat p.mRows.toNat
    scaleB := match old with | some t => t.scaleB | none => s.scaleVec e p.bScale.toNat p.nCols.toNat
    poisRows := match old with | some t => t.poisRows | none => []
    poisCols := match old with | some t => t.poisCols | none => []
    region := match old with | some t => t.region | none => []
    needGr := 0
    pitch := match old with | some t => if t.region.isEmpty then p.nCols.toNat else t.pitch | none => p.nCols.toNat }

/-- A tile takes its spill region, or waits for it (R127). -/
def State.giveRegion (s : State) (e q id n : Nat) : State :=
  if n == 0 then s
  else
    let k := clusterOfEng e
    match s.takeSpill k n, (s.unit e q).tile? id with
    | some (gs, s), some t =>
      ((s.zeroRegion k gs (8 * t.m * t.n)).updTile e q id fun t => { t with region := gs, needGr := 0 }).settleEarly k
    | _, _ => s.updTile e q id fun t => { t with needGr := n }

/-- A tile's first command: the tile joins, and continues a HOLD slot at once (R97). The continued tile counts its
saturated elements anew, and elements keep the marks they had (DESIGN CHOICE, log entry 89: R120 counts per tile and does
not say whether a tile continued from HOLD is the same tile). -/
def State.openTile (s : State) (e q id queue c : Nat) (p : MatmulP) : State :=
  let quarter := (s.eng e).quarter
  let t := s.newTile e q id queue c p
  let old := s.heldTile e q p
  let n := newGranules t.first old t.m t.n
  let s := s.updUnit e q fun u => { u with
    tiles := u.tiles ++ [t], nextTile := u.nextTile + 1, nextSlot := if quarter then 1 - u.nextSlot else 0 }
  let s := match old with
    | some o => s.updUnit e q fun u =>
        let u := u.setSlot t.slot { u.slot t.slot with
          st := .fill, tile := some t.id, ended := [], tsat := [], held := [], drainAt := none }
        { u with tiles := u.tiles.filter fun x => x.id != o.id }
    | none => s
  s.giveRegion e q t.id n

/-- An ARR_MATMUL enters its window: `t` its tile. -/
def State.enterMatmul (s : State) (e q id queue c : Nat) (p : MatmulP) (t : Nat) (first : Bool) : State :=
  let u := s.unit e q
  let kg := kGroups p.kLen.toNat
  let names := !p.cont && p.drain
  let d := Epi.ofBytes (s.rdVa c p.epiDesc.toNat 128)
  let empty := u.places.isEmpty
  let hit := s.opPoison c e p (first && p.init != 1)
  let s := match (hit.1 ++ hit.2).head? with
    | some x => s.consume id c x.2
    | none => s
  let s := if first || names then (s.load id c p.epiDesc.toNat 128).2.2 else s
  let s := if first && p.init == 2 then (s.load id c p.preloadDesc.toNat 64).2.2 else s
  let w : WCmd := { flight := id, queue := queue, ctx := c, cmd := .matmul p, firstStep := u.nextStep, nSteps := kg
                    tile := t, firstIssue := if empty then u.cycle + 20 else 0, readsEnded := false }
  let s := s.updUnit e q fun u => { u with
    window := u.window ++ [w], nextStep := u.nextStep + kg
    depth := if empty then s.fld .engRunahead e 3 0 else u.depth
    open? := if p.cont then some ⟨queue, t⟩ else none }
  let s := s.updTile e q t fun t => { t with
    steps := t.steps + kg, closed := !p.cont, drain := names, last := if names then some d else none, flight := id
    poisRows := hit.1.foldl (fun l x => NatSet.ins x.1 l) t.poisRows
    poisCols := hit.2.foldl (fun l x => NatSet.ins x.1 l) t.poisCols }
  match (s.unit e q).tile? t with
  | some t =>
    let s := if names then s.drainStreams c d t.first t.m t.n else s
    s.addNames id c ((if names then d.reads t.m t.n else [])
        ++ if first then match t.pre with | some x => x.reads t.m t.n | none => [] else [])
      (if names && !t.first.midLink then d.writes t.m t.n else [])
  | none => s

/-- Two type fields of operands that are only read: rnd and reserved bits are ignored (R15, R41). -/
def sameType (a : BitVec 16) (b : Nat) : Bool := typeRead a == typeRead (BitVec.ofNat 16 b)

/-- The next command of an open tile of unit q keeps to R100. -/
def Tile.continuedBy (t : Tile) (quarter : Bool) (q : Nat) : ArrCmd → Bool
  | .matmul p => (if quarter then p.quarter.toNat == q else p.slot.toNat == t.slot)
      && sameType p.typeA t.typeA && sameType p.typeB t.typeB
      && p.ta == t.ta && p.tb == t.tb && p.mRows.toNat == t.m && p.nCols.toNat == t.n
  | _ => false

/-- The partial sums of an abandoned tile are lost (R100): the run accumulators of the rows whose last update was for it
read zero. -/
def UnitS.dropSums (u : UnitS) (id : Nat) : UnitS :=
  match u.tile? id with
  | some t =>
    let mine := fun (r : Nat) => decide (t.base ≤ Map.get (fun _ => 0) u.done r)
      && !u.issues.any fun x => x.row == r && x.tile != id
    { u with acc := u.acc.filter fun a => !mine (a.1 / 128) }
  | .none => u

/-- An open tile is abandoned (R100). -/
def State.abandonTile (s : State) (e q id : Nat) : State :=
  let s := (s.updTile e q id fun t => { t with abandoned := true, closed := true, needGr := 0 }).orReg .engErr e 4
  (s.updUnit e q fun u => { u.dropSums id with open? := none }).poke e q

/-- Take a delivered command out of the inbox. -/
def State.unqueue (s : State) (e id : Nat) : State :=
  s.updEng e fun x => { x with inbox := dropFirst (fun m => m.1 == id) x.inbox }

/-- Judge a delivered command at the front of its unit: it is refused (`some`), or it may stay (none). -/
def State.judge (s : State) (e q id c : Nat) (cmd : ArrCmd) : Option State :=
  let x := s.eng e
  let u := x.unit q
  let refuse := fun (s : State) (er : Err) => some ((s.unqueue e id).engReject e q id er)
  match u.open?.bind fun o => u.tile? o.tile with
  | some t =>
    if !t.continuedBy x.quarter q cmd then refuse (s.abandonTile e q t.id) (Err.state St.badField)
    else match cmd with
      | .matmul p => (s.matmulFault e q c p (some t)).bind fun er => refuse s er
      | _ => none
  | none =>
    match cmd with
    | .matmul p => (s.matmulFault e q c p none).bind fun er => refuse s er
    | .drain _ => if x.quarter then refuse s (Err.state St.badField) else none
    | _ => none

/-- The window has room (R112). -/
def EngS.room (x : EngS) (q : Nat) : Bool := decide ((x.unit q).places.length < if x.quarter then 2 else 4)

/-- A command from the inbox is accepted into its window, once the flash pages that its descriptors name are read (R223). -/
def State.accept (s : State) (e q : Nat) (m : Nat × Nat × Nat × ArrCmd) : State :=
  match s.judge e q m.1 m.2.2.1 m.2.2.2 with
  | some s => s
  | none =>
    if !(s.eng e).room q || s.reading m.1 then s
    else
      let u := s.unit e q
      let s := s.unqueue e m.1
      match m.2.2.2 with
      | .matmul p =>
        match u.open? with
        | some o => (s.enterMatmul e q m.1 m.2.1 m.2.2.1 p o.tile false).poke e q
        | none =>
          ((s.openTile e q m.1 m.2.1 m.2.2.1 p).enterMatmul e q m.1 m.2.1 m.2.2.1 p u.nextTile true).poke e q
      | .drain p =>
        let w : WCmd := { flight := m.1, queue := m.2.1, ctx := m.2.2.1, cmd := .drain p, firstStep := u.nextStep
                          nSteps := 0, tile := 0, firstIssue := 0, readsEnded := false }
        (s.updUnit e q fun u => { u with window := u.window ++ [w] }).poke e q
      | _ => s

/-! ### ARR_MODE and check tiles (R115, R371, R372) -/

/-- No window holds a command and nothing is in the pipeline. -/
def EngS.quiet (x : EngS) : Bool := x.units.all fun u => !u.2.busy

def EngS.slotsAre (x : EngS) (ok : SlotSt → Bool) : Bool := x.units.all fun u => u.2.slots.all fun j => ok j.2.st

/-- ARR_MODE may execute: no command in the window, no slot in FILL or DRAIN (R115). -/
def EngS.modeReady (x : EngS) : Bool := x.quiet && x.slotsAre fun st => st != .fill && st != .drain

/-- ARR_MODE executes (R105, R115). One that sets the mode that the engine already has changes nothing, and holds no later
command back (DESIGN CHOICE, log entry 89: R105 gives its 32 cycles without this case). -/
def State.runMode (s : State) (e id : Nat) (quarter : Bool) : State :=
  let x := s.eng e
  let s := s.unqueue e id
  if !(x.slotsAre fun st => st != .hold) then s.engReject e 0 id (Err.state St.slotBusy)
  else if x.quarter == quarter then s.finishNow id
  else (s.updEng e fun x => { x with
    quarter := quarter, units := [], modeUntil := s.clusCycles (clusterOfEng e) + 32 }).finishNow id

/-- A check tile may run: full mode, empty window, every slot FREE (R371). -/
def EngS.checkReady (x : EngS) : Bool := !x.quarter && x.quiet && x.slotsAre fun st => st == .free

/-- The lane pairs that column groups of `g` usable lanes occupy (R72, R371). -/
def State.pairsOf (s : State) (e g : Nat) (bad : List Nat) : List Nat :=
  let ps := s.usablePairs e 0 64
  (bad.flatMap fun c => (List.range g).filterMap fun j => ps[(g * c + j) / 2]?).foldl (fun l k => NatSet.ins k l) []

/-- Run a check tile: its mask of lane pairs and its mismatching groups (R371, R372). -/
def State.runCheck (s : State) (e pattern : Nat) (badGroups : List Nat) : Nat × Nat × State :=
  let g := ceilDiv (pattern % 8 + 1) 2
  let bad := (badGroups.filter fun c => decide (c < s.usableLanes e 0 64 / g)).eraseDups
  let pairs := s.pairsOf e g bad
  let mask := (pairs.map fun k => 2 ^ k).sum
  let free := s.nextFree
  let s := free.2.zero (physSram (slotBase false e 0 (Config.freeNat free.1 % 8))) 65536
  let s := s.bump .vwmCheckRuns 0 1
  if bad.isEmpty then (mask, 0, s)
  else
    let s := (s.bump .vwmCheckFails 0 1).raise 0x0103 2 none (e / 256)
      (BitVec.ofNat 32 e :: words64 (BitVec.ofNat 64 mask))
    let s := if pairs.isEmpty then s.recordFailure Kind.engine e
      else pairs.foldl (fun (s : State) k => s.recordFailure Kind.lanePair (64 * e + k)) s
    let s := match s.ownerOf (clusterOfEng e) with
      | some c => s.updCtx c fun x => { x with poison := true }
      | none => s
    (mask, bad.length, s)

/-- The engine holds its grant (R354). -/
def State.engGranted (s : State) (e : Nat) : Bool := s.grantedTo (e / 256) (.engine (e % 256))

/-- CHECK_TILE at the engine: its outcome (R371). -/
def State.endCheck (s : State) (e id pattern : Nat) (badGroups : List Nat) : State :=
  let r := (s.unqueue e id).runCheck e pattern badGroups
  (r.2.2.outcome id St.ok (BitVec.ofNat 32 r.2.1) (BitVec.ofNat 64 r.1)).finishLater id

/-! ### The packets (R110, R114 to R116, R371) -/

/-- The shape of the tile that an ARR_DRAIN of a slot will find: that of the last matmul delivered for the slot. -/
def State.drainShape (s : State) (e slot : Nat) : Nat × Nat :=
  let x := s.eng e
  let waiting := x.inbox.filterMap fun m => match m.2.2.2 with
    | .matmul p => if p.slot.toNat == slot then some (p.mRows.toNat, p.nCols.toNat) else none
    | _ => none
  let open' := ((x.unit 0).tiles.filter fun t => t.slot == slot && !t.isOver).map fun t => (t.m, t.n)
  (open' ++ waiting).getLastD (0, 0)

/-- The memory behind the descriptors of an array command, read and written, as they stand (R432). -/
def State.arrNames (s : State) (e c : Nat) (cmd : ArrCmd) : List (Nat × Nat) × List (Nat × Nat) :=
  let epi := fun (a m n : Nat) =>
    let d := Epi.ofBytes (s.rdVa c a 128)
    (d.reads m n, if d.midLink then [] else d.writes m n)
  match cmd with
  | .matmul p =>
    let m := p.mRows.toNat
    let n := p.nCols.toNat
    let pre := if p.init == 2 then (Pre.ofBytes (s.rdVa c p.preloadDesc.toNat 64)).reads m n else []
    if p.cont || !p.drain then (pre, []) else let r := epi p.epiDesc.toNat m n; (pre ++ r.1, r.2)
  | .drain p =>
    if p.discard then ([], [])
    else let z := s.drainShape e p.slot.toNat; epi p.epiDesc.toNat z.1 z.2
  | _ => ([], [])

/-- The descriptors of an array command. -/
def ArrCmd.descriptors : ArrCmd → List (Nat × Nat)
  | .matmul p => (p.epiDesc.toNat, 128) :: if p.init == 2 then [(p.preloadDesc.toNat, 64)] else []
  | .drain p => if p.discard then [] else [(p.epiDesc.toNat, 128)]
  | _ => []

/-- Deliver a command to its engine: its work, the clusters and the memory that it names, and the flash pages to be read
for it (R223, R432). -/
def State.deliverArr (s : State) (e id c : Nat) (cmd : ArrCmd) : State :=
  let queue := match s.flightOf id with | some f => f.queue | none => 0
  let behind := s.arrNames e c cmd
  let s := (s.names id c cmd.descriptors [] [clusterOfEng e]).addNames id c behind.1 behind.2
  let s := s.queueReads id c (cmd.descriptors ++ behind.1)
  let s := s.updFlight id fun f => { f with work := .array e }
  let s := s.updEng e fun x => { x with inbox := x.inbox ++ [(id, queue, c, cmd)] }
  s.giveWork (e / 256) (.engine (e % 256))

/-- The unit of an engine whose open tile a queue must continue (R100). -/
def EngS.openUnit (x : EngS) (queue : Nat) : Option Nat :=
  x.units.findSome? fun u => if u.2.open?.any fun o => o.queue == queue then some u.1 else .none

/-- A command of a queue stands behind one of that queue that has cont 1 and waits too: it comes next after that one, at
whichever unit (R100, R110). -/
def EngS.behindCont (x : EngS) (id queue : Nat) : Bool :=
  (x.inbox.takeWhile fun m => m.1 != id).any fun m => m.2.1 == queue && match m.2.2.2 with
    | .matmul p => p.cont
    | _ => false

/-- The next command that an engine's unit may accept: with an open tile only one of its queue, which R100 judges whatever
it names; else the first before any ARR_MODE of a queue that has no tile open on the engine and none to come. -/
def EngS.head (x : EngS) (q : Nat) : Option (Nat × Nat × Nat × ArrCmd) :=
  let mine := fun (m : Nat × Nat × Nat × ArrCmd) => match m.2.2.2 with
    | .matmul p => !x.quarter || p.quarter.toNat == q
    | .drain _ => true
    | _ => false
  let isMode := fun (m : Nat × Nat × Nat × ArrCmd) => match m.2.2.2 with | .mode _ => true | _ => false
  let isCheck := fun (m : Nat × Nat × Nat × ArrCmd) => match m.2.2.2 with | .check _ _ => true | _ => false
  match (x.unit q).open? with
  | some o => x.inbox.find? fun m => m.2.1 == o.queue && !isCheck m
  | .none => (x.inbox.takeWhile fun m => !isMode m).find? fun m =>
      mine m && (x.openUnit m.2.1).isNone && !x.behindCont m.1 m.2.1

/-- The front of the inbox, where it is an ARR_MODE or a CHECK_TILE that may run, the latter under the engine's grant
(R356; which commands need one is DEDUCED, log entry 29): none where it is not. -/
def State.frontRuns (s : State) (e : Nat) : Option State :=
  let x := s.eng e
  match x.inbox.head? with
  | some m => match m.2.2.2 with
    | .mode quarter => if x.modeReady then some (s.runMode e m.1 quarter) else none
    | .check pattern bad =>
      if x.quarter then some ((s.unqueue e m.1).engReject e 0 m.1 (Err.state St.slotBusy))
      else if x.checkReady && s.engGranted e then some (s.endCheck e m.1 pattern bad) else none
    | _ => none
  | none => none

/-- A command reaches its engine (R111, R115, R371): one that is refused, an ARR_MODE and a check tile that need not
wait are over at once; any other waits for ARR_ACCEPT. A matmul is judged, for ST_SLOT_EMPTY and ST_SLOT_BUSY too, as soon as it
is first of the inbox, while the window is full as well (DESIGN CHOICE, log entry 100). -/
def State.reach (s : State) (e q id c : Nat) (cmd : ArrCmd) : State :=
  let x := s.eng e
  let q := match s.flightOf id with | some f => (x.openUnit f.queue).getD q | .none => q
  let s := s.deliverArr e id c cmd
  let free := decide (x.modeUntil ≤ s.clusCycles (clusterOfEng e))
  let judged := (((s.eng e).head q).bind fun m => s.judge e q m.1 m.2.2.1 m.2.2.2).getD s
  match cmd with
  | .check _ _ =>
    if x.quarter then (s.unqueue e id).engReject e 0 id (Err.state St.slotBusy)
    else if free then (s.frontRuns e).getD s else s
  | .mode _ =>
    if !free then s
    else if (x.unit q).open?.isSome then (if x.inbox.isEmpty then judged else s)
    else (s.frontRuns e).getD s
  | _ => if x.inbox.isEmpty && free && !s.reading id then judged else s

/-- ARR_MATMUL is checked and delivered to its engine (R110, R111). -/
def execArrMatmul (h : Hdr) (p : MatmulP) (s : State) : Out :=
  s.packet s.txnScopes h ⟨0x200, 1, .context, false⟩ fun id c s =>
    s.guarded id (s.chkEngine c 4 p.engine.toNat) fun s =>
      s.reach p.engine.toNat (if (s.eng p.engine.toNat).quarter then p.quarter.toNat else 0) id c (.matmul p)

/-- ARR_DRAIN is delivered to its engine (R114). -/
def execArrDrain (h : Hdr) (p : DrainP) (s : State) : Out :=
  s.packet s.txnScopes h ⟨0x201, 0, .context, false⟩ fun id c s =>
    s.guarded id (s.chkEngine c 4 p.engine.toNat) fun s => s.reach p.engine.toNat 0 id c (.drain p)

/-- ARR_MODE is delivered to its engine and executes once it may (R115). -/
def execArrMode (h : Hdr) (engine : BitVec 11) (quarter : Bool) (s : State) : Out :=
  s.packet s.txnScopes h ⟨0x202, 0, .context, false⟩ fun id c s =>
    s.guarded id (s.chkEngine c 4 engine.toNat) fun s => s.reach engine.toNat 0 id c (.mode quarter)

/-- CHECK_TILE (R371). -/
def execCheckTile (h : Hdr) (engine : BitVec 11) (pattern : BitVec 4) (badGroups : List Nat) (s : State) : Out :=
  s.packet s.txnScopes h ⟨0x700, 0, .context, false⟩ fun id c s =>
    s.guarded id (s.chkEngine c 4 engine.toNat) fun s => s.reach engine.toNat 0 id c (.check pattern.toNat badGroups)

/-- Mask halves of lane pairs that satisfy a test. -/
def pairWord (lo : Nat) (p : Nat → Bool) : Nat := ((List.range 32).map fun j => if p (lo + j) then 2 ^ j else 0).sum

/-- The engine-map record of an engine (R108). -/
def State.mapRecord (s : State) (e : Nat) : List Byte :=
  let retired := s.retEng.contains e
  let usable := fun j => !retired && !s.badPairs.contains (64 * e + j)
  let perm := fun j => s.permPairs.contains (64 * e + j)
  leBytes 4 (e * 65536 + (if retired then 256 else 0) + s.usableLanes e 0 64)
  ++ leBytes 4 (pairWord 0 usable) ++ leBytes 4 (pairWord 32 usable)
  ++ leBytes 4 (pairWord 0 perm) ++ leBytes 4 (pairWord 32 perm) ++ leBytes 4 s.selftestGen ++ leBytes 8 0

/-- The checks of ARR_MAP_READ (R116). -/
def State.mapReadErr (s : State) (c : Nat) (dst : W64) (first : BitVec 11) (count : BitVec 12) : Option Err :=
  let n := count.toNat
  firstErr [chkAlign 4 dst 64, s.chkWrite c 4 dst (32 * n),
    errIf (decide (s.nEng < first.toNat + n)) (Err.word St.badField 6),
    errIf (n == 0 || decide (2048 < n)) (Err.word St.badField 7)]

/-- ARR_MAP_READ writes the records of a range of engines (R116). -/
def execArrMapRead (h : Hdr) (dst : W64) (first : BitVec 11) (count : BitVec 12) (s : State) : Out :=
  s.packet s.txnScopes h ⟨0x203, 0, .any, false⟩ fun id c s =>
    s.guarded id (s.mapReadErr c dst first count) fun s =>
      let n := count.toNat
      ((s.names id c [] [(dst.toNat, 32 * n)] []).store id c dst.toNat
        ((List.range n).flatMap fun i => s.mapRecord (first.toNat + i)) false).finishNow id

/-! ### Engine rows -/

/-- Engine rows act while the part runs. -/
def State.engLive (s : State) : Bool := s.boot.running && !s.boot.partFault

/-- The context that owns an engine is terminated at once if the row consumed poison in its first step (R368). -/
def State.settleOwner (s : State) (e : Nat) : State :=
  match s.ownerOf (clusterOfEng e) with
  | some c => s.settle c
  | none => s

/-- A row of unit q of engine e: a unit beyond the part's faults, one that the mode lacks does nothing. -/
def State.unitRow (s : State) (e q : Nat) (f : State) : Out :=
  if !inRange e s.nEng then .fault (.noSuchUnit "engine" e)
  else if !s.engLive || (!(s.eng e).quarter && q != 0) then .next s
  else .next (f.settleOwner e)

/-- A row that is work of an engine: it waits while the engine holds no grant (R356). -/
def State.workRow (s : State) (e q : Nat) (f : State) : Out := s.unitRow e q (if s.engGranted e then f else s)

/-- A delivered command enters the window when there is room (R112); an ARR_MODE or a CHECK_TILE at the front runs. -/
def execArrAccept (engine : BitVec 11) (quarter : BitVec 2) (s : State) : Out :=
  let e := engine.toNat
  let q := quarter.toNat
  s.unitRow e q <|
    if s.clusCycles (clusterOfEng e) < (s.eng e).modeUntil then s
    else match s.frontRuns e with
    | some s => s
    | none =>
      match (s.eng e).head q with
      | some m => s.accept e q m
      | none => s

/-- An idle engine in full mode runs its next injected check tile (R371); an engine without a grant asks for one first
(R354). -/
def execInjectedCheckTile (engine : BitVec 11) (badGroups : List Nat) (s : State) : Out :=
  let e := engine.toNat
  let x := s.eng e
  let n := s.fld .vwmCheckCtrl 0 15 0
  s.unitRow e 0 <|
    if n == 0 || !x.checkReady || s.retEng.contains e || s.boot.phase != .ready
      || decide (s.now < x.checkAt + 1000000 * n) then s
    else if !s.engGranted e then s.giveWork (e / 256) (.engine (e % 256))
    else
      let r := (s.touchUnit (e / 256) (.engine (e % 256))).runCheck e x.checkPat badGroups
      r.2.2.updEng e fun x => { x with checkAt := s.now, checkPat := (x.checkPat + 1) % 16 }

/-- The first tile of an engine that waits for spill granules: (unit, tile). -/
def EngS.spillWaiter (x : EngS) : Option (Nat × Tile) :=
  x.units.findSome? fun u => (u.2.tiles.find? fun t => t.needGr != 0).map fun t => (u.1, t)

/-- A tile that waits for its spill region obtains it once enough granules are free (R127). One that waits already waits on
where a quota then shrinks the partition below its region (DESIGN CHOICE, log entry 100). -/
def execSpillRegionAcquire (engine : BitVec 11) (s : State) : Out :=
  let e := engine.toNat
  s.unitRow e 0 <| match (s.eng e).spillWaiter with
  | some (q, t) => (s.giveRegion e q t.id t.needGr).poke e q
  | none => s

/-! ### The run-ahead rule and the row's entries (R67 to R69, R92 to R94, R98, R99) -/

/-- The stored w-bit code of a channel at contraction index k; indices from K on are zero (R88). -/
def State.opCode (s : State) (e base stride t : Nat) (tr : Bool) (kLen ch k : Nat) : Nat :=
  if kLen ≤ k then 0
  else
    let w := csiWidth t
    let lo := (if tr then ch else k) * w
    let a := 33554432 * (e / 16) + 1048576 * (e % 16) + base + (if tr then k else ch) * stride + lo / 8
    (ofLeBytes (s.rd (physSram a) 2) >>> (lo % 8)) % 2 ^ w

/-- The plane pattern of four codes (R68). -/
def planePattern (codes : List Nat) (p : Nat) : Nat :=
  ((List.range 4).map fun q => if (nth 0 codes q >>> p) % 2 == 1 then 2 ^ q else 0).sum

/-- The lane table entry that a pattern selects, from the slices at the four positions (R69). -/
def tableEntry (slices : List Int) (m : Nat) : Int :=
  ((List.range 4).map fun q => if (m >>> q) % 2 == 1 then nth 0 slices q else 0).sum

/-- The planes that a row issues in a k-group, ascending: none for an empty step (R81, R92). -/
def rowEntries (wa : Nat) (codes : List Nat) : List (Option Nat) :=
  let ps := (List.range wa).filter fun p => planePattern codes p != 0
  if ps.isEmpty then [none] else ps.map some

/-- The command of a step. -/
def UnitS.cmdOf (u : UnitS) (step : Nat) : Option (WCmd × MatmulP) :=
  u.window.findSome? fun w => match w.cmd with
    | .matmul p => if decide (w.firstStep ≤ step) && decide (step < w.firstStep + w.nSteps) then some (w, p) else .none
    | _ => .none

/-- The tile of a step. -/
def UnitS.tileOf (u : UnitS) (step : Nat) : Option Tile :=
  u.tiles.find? fun t => decide (t.base ≤ step) && decide (step < t.base + t.steps)

/-- The codes of row i of a for k-group g. -/
def State.aCodes (s : State) (e : Nat) (p : MatmulP) (i g : Nat) : List Nat :=
  (List.range 4).map fun q =>
    s.opCode e p.aBase.toNat p.aStride.toNat p.typeA.toNat p.ta p.kLen.toNat i (4 * g + q)

/-- What the cells of a row add when it issues plane `pl` with pattern `m` of k-group g: (lane, w_p · T[m]) (R69, R72,
R73). The columns beyond n_cols have no b column; their cells add nothing (DESIGN CHOICE, log entry 89). -/
def State.planeAdds (s : State) (e : Nat) (p : MatmulP) (g pl m : Nat) : List (Nat × Int) :=
  let wa := csiWidth p.typeA.toNat
  let wb := csiWidth p.typeB.toNat
  let w := planeWeight (csiSigned p.typeA.toNat) wa pl
  (List.range p.nCols.toNat).flatMap fun c =>
    let bs := (List.range 4).map fun q => codeVal (csiSigned p.typeB.toNat) wb
      (s.opCode e p.bBase.toNat p.bStride.toNat p.typeB.toNat p.tb p.kLen.toNat c (4 * g + q))
    (List.range (ceilDiv wb 2)).map fun j =>
      (ceilDiv wb 2 * c + j, w * tableEntry (bs.map fun b => slice (csiSigned p.typeB.toNat) wb b j) m)

/-! ### The feeders (R86, R92, R93) -/

/-- Entries that the feeder queue of a row holds: two queues of 16 act as one in full mode (R86). -/
def feedRoom (quarter : Bool) : Nat := if quarter then 16 else 32

def UnitS.feed (u : UnitS) (i : Nat) : FeedS := Map.get (fun _ => FeedS.none) u.feeds i
def UnitS.setFeed (u : UnitS) (i : Nat) (x : FeedS) : UnitS :=
  { u with feeds := Map.set (fun _ => FeedS.none) u.feeds i x }

/-- The entries of a step for row i (R92): one for each non-zero pattern in ascending plane order, or one empty step; a
row beyond m_rows takes empty steps only, whose planes do not count as SKIPPED (DESIGN CHOICE, log entry 107). -/
def State.stepEntries (s : State) (e q i step : Nat) : List FeedEntry :=
  let u := s.unit e q
  match u.tileOf step, u.cmdOf step with
  | some t, some (w, p) =>
    let wa := csiWidth t.typeA
    let mine := decide (i < t.m)
    let codes := if mine then s.aCodes e p i (step - w.firstStep) else []
    let es := rowEntries wa codes
    let skipped := if mine then wa - (es.filter fun x => x.isSome).length else 0
    es.mapIdx fun k x =>
      ⟨step, x.map fun pl => (pl, planePattern codes pl), k + 1 == es.length, if k == 0 then skipped else 0⟩
  | _, _ => []

/-- The feeder of row i in one array cycle (R93): the entries of the k-group where it stands enter the row's queue, as many
of them as the queue has room for. -/
def State.fill (s : State) (e q i : Nat) : FeedS :=
  let f := (s.unit e q).feed i
  let es := s.stepEntries e q i f.step
  let new := (es.drop f.entry).take (feedRoom (s.eng e).quarter - f.queue.length)
  if es.isEmpty then f
  else if es.length ≤ f.entry + new.length then ⟨f.queue ++ new, f.step + 1, 0⟩
  else ⟨f.queue ++ new, f.step, f.entry + new.length⟩

/-! ### What a row does in a cycle (R94) -/

/-- What a row does in a cycle (R92, R94, R98): `starve`: its queue holds no entry of the step. -/
inductive RowDoes where
  | idle
  | bound
  | starve
  | slotWait
  | issues (t : Tile) (x : FeedEntry) (adds : List (Nat × Int)) (wa wb : Nat) (ends last : Bool)
deriving DecidableEq, Repr

/-- The slot of a tile accepts the promotion of a row (R98, R126). -/
def UnitS.accepts (u : UnitS) (t : Tile) (row : Nat) : Bool :=
  let x := u.slot t.slot
  x.st == .fill && x.tile == some t.id && (t.pre.isNone || x.preDone.contains row) && !x.spillWait.contains row

/-- The table of a step is ready in the unit's present cycle (R94). -/
def UnitS.tableReady (u : UnitS) (step : Nat) : Bool := u.ready.any fun r => r.1 == step && decide (r.2 ≤ u.cycle)

/-- The state of row i at the start of a cycle (R94, R98, R99): the table first, then the queue, then the slot. -/
def State.rowDoes (s : State) (e q i : Nat) : RowDoes :=
  let u := s.unit e q
  let step := Map.get (fun _ => 0) u.done i
  if u.nextStep ≤ step then .idle
  else if !u.tableReady step then .bound
  else match (u.feed i).queue.head?.filter (fun x => x.step == step), u.tileOf step, u.cmdOf step with
  | some x, some t, some (w, p) =>
    let wa := csiWidth t.typeA
    let k := step - t.base + 1
    let last := t.closed && k == t.steps
    let ends := decide (i < t.m) && !t.abandoned && x.last && (k % promoInterval wa == 0 || last)
    if ends && !u.accepts t i then .slotWait
    else .issues t x (match x.plane with | some pl => s.planeAdds e p (step - w.firstStep) pl.1 pl.2 | none => [])
      wa (csiWidth t.typeB) ends last
  | _, _, _ => .starve

/-- The next table is generated while the run-ahead bound allows (R94, R127): its step is accepted, and its tile has its
spill region. -/
def UnitS.generates (u : UnitS) (rows : Nat) : Bool :=
  decide (u.nextGen < u.low rows + u.depth) && decide (u.nextGen < u.nextStep)
  && (u.tileOf u.nextGen).any fun t => t.needGr == 0

/-- The cycle from which the table that is generated now serves a row: the next one (R94, R105), but no earlier than the
first issue of its command, whose acceptance latency includes the fill of the table buffer (R95). At depth 1 a table can
be generated only once every row has finished the step before it, so each step takes one cycle more than its planes: the
rule of R94 is followed where R82 counts that time otherwise (DESIGN CHOICE, log entry 89). -/
def UnitS.readyFrom (u : UnitS) : Nat :=
  max (u.cycle + 1) (match u.cmdOf u.nextGen with | some (w, _) => w.firstIssue | .none => 0)

/-- A row issues the entry at the head of its queue. -/
def UnitS.issueRow (u : UnitS) (i : Nat) (t : Tile) (e : FeedEntry) (adds : List (Nat × Int)) (ends last : Bool) :
    UnitS :=
  let u := { u with done := if e.last then Map.set (fun _ => 0) u.done i (e.step + 1) else u.done }
  let x := u.slot t.slot
  let runs := Map.get (fun _ => 0) x.runs i + 1
  let spill := ends && t.first.spillRuns != 0 && runs % t.first.spillRuns == 0
  let u := if ends then u.setSlot t.slot { x with
      runs := Map.set (fun _ => 0) x.runs i runs
      spillWait := if spill then NatSet.ins i x.spillWait else x.spillWait } else u
  if ends || !adds.isEmpty then
    { u with issues := u.issues ++ [{ due := u.cycle + 6, row := i, tile := t.id, adds := adds, ends := ends
                                      spill := spill, last := ends && last }] }
  else u

/-- What a cycle of a row counts (R94, R395); while a command waits out its acceptance latency its rows count as bound,
for want of a table (DESIGN CHOICE, log entry 89). -/
def State.countRow (s : State) (e q : Nat) (r : RowDoes) : State :=
  match r with
  | .idle => s
  | .bound => s.bump .engCntBound e 1
  | .starve => s.bump .engCntStarve e 1
  | .slotWait => s.bump .engCntSlotwait e 1
  | .issues t x _ wa wb _ _ =>
    let d := e / 256
    let s := s.bump .engCntIssue e 1
    let s := if x.skipped != 0 then s.deep d Dc.skipped wa t.ctx x.skipped else s
    match x.plane with
    | some _ =>
      let cells := groupLanes t.typeB * s.groups e q t.typeB
      (s.deep d Dc.planes wa t.ctx 1).deep d Dc.bitmac ((wa - 1) * 8 + (wb - 1)) t.ctx (8 * cells)
    | none => s.deep d Dc.empty 0 t.ctx 1

/-- An array cycle in which a unit issued: the quarter engines of one engine share its clock, so what they issue in one
array cycle counts once (R394). A unit that issues again, or a later cycle of the cluster's clock, begins another. -/
def State.countActive (s : State) (e q : Nat) : State :=
  let now := s.clusCycles (clusterOfEng e)
  let a := (s.eng e).active
  if a.1 == now && !a.2.isEmpty && !a.2.contains q then
    s.updEng e fun x => { x with active := (now, NatSet.ins q a.2) }
  else ((s.updEng e fun x => { x with active := (now, [q]) }).bump .engCntActive e 1).bump .vwmLcEngBusy (e / 256) 1

/-- The table of the next step is generated (R94). -/
def State.genTable (s : State) (e q : Nat) : State :=
  let rows := unitRows (s.eng e).quarter
  let u := s.unit e q
  if !u.generates rows then s
  else
    let s := s.updUnit e q fun u => { u with
      ready := (u.ready.filter fun r => decide (u.low rows ≤ r.1)) ++ [(u.nextGen, u.readyFrom)], nextGen := u.nextGen + 1 }
    match u.tileOf u.nextGen with
    | some t => s.deep (e / 256) Dc.tables 0 t.ctx (groupLanes t.typeB * s.groups e q t.typeB)
    | none => s

/-- A row's part of a cycle: what it does at the cycle's start leaves its queue, and what its feeder reads joins it. -/
def UnitS.rowCycle (u : UnitS) (i : Nat) (does : RowDoes) (fill : FeedS) : UnitS :=
  match does with
  | .issues t x adds _ _ ends last =>
    (u.setFeed i { fill with queue := fill.queue.drop 1 }).issueRow i t x adds ends last
  | _ => u.setFeed i fill

/-- One array cycle of a unit (R93, R94). -/
def State.unitCycle (s : State) (e q : Nat) (parity : Bool) : State :=
  let rows := unitRows (s.eng e).quarter
  let u := s.unit e q
  let does := (List.range rows).map fun i => s.rowDoes e q i
  let fills := (List.range rows).map fun i => s.fill e q i
  let any := does.any fun r => match r with | .issues .. => true | _ => false
  let s := (s.touchUnit (e / 256) (.engine (e % 256))).genTable e q
  let s := does.foldl (fun (s : State) r => s.countRow e q r) s
  let s := if any then s.countActive e q else s
  let s := s.bump .splChainWait (clusterOfEng e) (s.chainWaits e q)
  let s := if parity && any then
    let ids := does.filterMap fun r => match r with | .issues t _ _ _ _ _ _ => some t.id | _ => none
    let s := ids.foldl (fun (s : State) id => s.updTile e q id fun t => { t with tablePoison := true }) s
    (s.orReg .engErr e 8).raise 0x0102 2 (ids.head?.bind fun id => (u.tile? id).map fun t => t.ctx) (e / 256) []
  else s
  let s := s.updUnit e q fun u => (List.range rows).foldl (fun (u : UnitS) i =>
    u.rowCycle i (nth .idle does i) (nth FeedS.none fills i)) u
  (s.updUnit e q fun u => { u with cycle := u.cycle + 1 }).poke e q

/-- Each array cycle of a granted unit with work (R94, R354); `parity`: a table buffer returns a parity error. -/
def execRowIssue (engine : BitVec 11) (quarter : BitVec 2) (parity : Bool) (s : State) : Out :=
  let e := engine.toNat
  let q := quarter.toNat
  s.workRow e q <| if !(s.unit e q).busy then s else s.unitCycle e q parity

/-! ### Cell updates, promotion, spill (R73, R75, R76, R119, R120, R126) -/

/-- Remove the first element that has fallen due. -/
def takeDue {α : Type} (due : α → Nat) (t : Nat) : List α → Option (α × List α)
  | [] => none
  | a :: l => if due a ≤ t then some (a, l) else none

/-- The cells of a row add into their run accumulators, but for a tile that was abandoned (R100); at the end of a run
they hand it to the promotion path and read zero (R73, R76). -/
def UnitS.update (u : UnitS) (x : Issue) (rest : List Issue) : UnitS :=
  let adds := if (u.tile? x.tile).any fun t => !t.abandoned && !t.isOver then x.adds else []
  let acc := adds.foldl (fun (m : Map Int) a =>
    Map.set (fun _ => 0) m (128 * x.row + a.1) (Map.get (fun _ => 0) m (128 * x.row + a.1) + a.2)) u.acc
  let u := { u with issues := rest, acc := acc }
  if x.ends then
    let mine := acc.filter fun a => a.1 / 128 == x.row
    { u with
      acc := acc.filter fun a => a.1 / 128 != x.row
      promos := u.promos ++ [{ due := x.due + 4, row := x.row, tile := x.tile
                               vals := mine.map fun a => (a.1 % 128, a.2), spill := x.spill, last := x.last }] }
  else u

/-- Six array cycles after its issue an entry updates the cells of its row (R73, R105). -/
def execCellUpdate (engine : BitVec 11) (quarter : BitVec 2) (s : State) : Out :=
  let e := engine.toNat
  let q := quarter.toNat
  s.workRow e q <| match takeDue (fun (x : Issue) => x.due) (s.unit e q).cycle (s.unit e q).issues with
  | some (x, rest) => (s.updUnit e q fun u => u.update x rest).poke e q
  | none => s

/-- The shift tree: Σ_j 4^j · run_j of a column group (R75). -/
def promoValue (g c : Nat) (vals : List (Nat × Int)) : Int :=
  ((List.range g).map fun j => 4 ^ j * Map.get (fun _ => 0) vals (g * c + j)).sum

/-- The tile's last row has ended in cycle `now`: DRAIN or HOLD (R97, R105, R120). -/
def State.tileEnd (s : State) (e q : Nat) (t : Tile) (now : Nat) : State :=
  let x := (s.unit e q).slot t.slot
  if !((List.range t.m).all fun r => x.ended.contains r) then s
  else
    let j := slotBit (s.eng e).quarter q t.slot
    let s := if x.tsat.isEmpty then s else s.raise 0x0101 1 (some t.ctx) (e / 256)
      [BitVec.ofNat 32 e, BitVec.ofNat 32 j, BitVec.ofNat 32 x.tsat.length]
    (s.updSlot e q t.slot fun x => if t.drain then { x with st := .drain, drainAt := some (now + 1) }
      else { x with st := .hold, held := [] })

/-- A row of a tile has ended its last run. -/
def State.rowEnded (s : State) (e q row : Nat) (t : Tile) (last : Bool) (now : Nat) : State :=
  if last then (s.updSlot e q t.slot fun x => { x with ended := NatSet.ins row x.ended }).tileEnd e q t now else s

/-- A promotion adds the run values of a row into its slot words (R119). A last run that also spills ends its row with the
spill add, eight cycles later (R126), and not with the promotion (R97; DESIGN CHOICE, log entry 104). -/
def State.promote (s : State) (e q : Nat) (x : Promo) (rest : List Promo) : State :=
  let s := s.updUnit e q fun u => { u with promos := rest }
  match (s.unit e q).tile? x.tile with
  | none => s
  | some t =>
    if t.abandoned || t.isOver then s
    else
      let g := groupLanes t.typeB
      let s := (List.range t.n).foldl (fun (s : State) c =>
        s.addWord e q t.slot x.row c (promoValue g c x.vals)) s
      let s := (s.bump .accPromoCount e 1).deep (e / 256) Dc.promotions 0 t.ctx 1
      if x.spill then s.updUnit e q fun u =>
        { u with spillAdds := u.spillAdds ++ [{ due := x.due + 8, row := x.row, tile := t.id, last := x.last }] }
      else s.rowEnded e q x.row t x.last x.due

/-- Four cycles after the last cell update of a run its promotion completes (R105, R119). -/
def execRunPromotion (engine : BitVec 11) (quarter : BitVec 2) (s : State) : Out :=
  let e := engine.toNat
  let q := quarter.toNat
  s.workRow e q <| match takeDue (fun (x : Promo) => x.due) (s.unit e q).cycle (s.unit e q).promos with
  | some (x, rest) => (s.promote e q x rest).poke e q
  | none => s

/-- One element's spill: SP := sp_add(SP, (W, 0)), W := 0, and a hold ends (R126). -/
def State.spillElem (s : State) (e q : Nat) (t : Tile) (row c j : Nat) : State :=
  let x := spAdd (s.spillWord e t row c) (s.elemSp e q t row c)
    (s.drawOf t.ctx t.first.spillStream (t.first.elem row c) j)
  let s := ((s.setSpillWord e t row c x).noteExp (clusterOfEng e) x.e).setAccWord (s.eng e).quarter e q t.slot row c 0
  s.updSlot e q t.slot fun y => { y with held := NatSet.del y.held (markOf row c) }

/-- The spill add of a row, which reads its spill words (R126, R230). -/
def State.spillRow (s : State) (e q : Nat) (x : SpillDue) (rest : List SpillDue) : State :=
  let s := s.updUnit e q fun u => { u with spillAdds := rest }
  match (s.unit e q).tile? x.tile with
  | none => s
  | some t =>
    if t.abandoned || t.isOver then s
    else
      let j := Map.get (fun _ => 0) ((s.unit e q).slot t.slot).spills x.row
      let s := (List.range t.n).foldl (fun (s : State) c => s.spillElem e q t x.row c j) (s.consumeSpills e t x.row)
      let s := s.updSlot e q t.slot fun y => { y with
        spills := Map.set (fun _ => 0) y.spills x.row (j + 1), spillWait := NatSet.del y.spillWait x.row }
      (s.deep (e / 256) Dc.spills 0 t.ctx 1).rowEnded e q x.row t x.last x.due

/-- Eight cycles after the promotion of an n-th run the row's words are added into its spill words (R126). -/
def execSpillAdd (engine : BitVec 11) (quarter : BitVec 2) (s : State) : Out :=
  let e := engine.toNat
  let q := quarter.toNat
  s.workRow e q <| match takeDue (fun (x : SpillDue) => x.due) (s.unit e q).cycle (s.unit e q).spillAdds with
  | some (x, rest) => (s.spillRow e q x rest).poke e q
  | none => s

end Sys2Proof.Machine
end

