-- ==== Sys2Proof/Machine/Epilogue.lean ====
section
/-! DEFINITION. Slot preload (R121 to R123), the drain of a slot and chain reduction (R129 to R131, R140), the output
epilogue (R135 to R139) and the writes that wait for an array command's reads (R90). -/

namespace Sys2Proof.Machine

open Sys2Proof

/-! ### Slot preload (R121 to R123) -/

/-- The first tile in FILL with a preload for which row r is still to do. -/
def UnitS.preTile (u : UnitS) (r : Nat) (ok : SlotS → Bool) : Option (Tile × Pre) :=
  u.tiles.findSome? fun t =>
    let x := u.slot t.slot
    match t.pre with
    | some d => if t.placed && !t.isOver && x.tile == some t.id && x.st == .fill && decide (r < t.m)
        && !x.preDone.contains r && ok x then some (t, d) else .none
    | .none => .none

/-- A preload that waits for staging obtains a region (R123). -/
def execPreloadRegionAcquire (engine : BitVec 11) (quarter : BitVec 2) (s : State) : Out :=
  let e := engine.toNat
  let q := quarter.toNat
  s.unitRow e q <|
    if !(s.eng e).quarter then s
    else
      let u := s.unit e q
      match u.tiles.find? fun t => t.placed && !t.isOver && t.pre.isSome && (u.slot t.slot).tile == some t.id
          && (u.slot t.slot).st == .fill && (u.slot t.slot).preRegion.isNone, u.freePre with
      | some t, some k => s.updSlot e q t.slot fun x => { x with preRegion := some k }
      | _, _ => s

/-- A scale of a tile: a free value where a tile goes on from HOLD in a larger shape. -/
def scaleAt (l : List W32) (i : Nat) : W32 := (l[i]?).getD (Config.openScale i)

/-- A BF16 pattern as binary32. -/
def bf16To32 (w : Nat) : F32 := BitVec.ofNat 32 (w * 65536)

/-- The outlier sum x of an element (R122): FP32, ascending index, one rounding per addition. -/
def State.outlierSum (s : State) (c : Nat) (d : Pre) (row col : Nat) : F32 :=
  (List.range d.nOut).foldl (fun x j =>
    let a := fieldLe (s.rdVa c (d.outA + row * d.outAStride + 2 * j) 2) 0 2
    let b := fieldLe (s.rdVa c (d.outB + j * d.outBStride + 2 * col) 2) 0 2
    ffma (bf16To32 a) (bf16To32 b) x) 0

/-- The outlier term of an element: its value, whether it was clamped, whether it is poisoned (R122). -/
def outlierTerm (x sa sb : F32) : Int × Bool × Bool :=
  let sc := fval (fmul sa sb)
  if !(fval x).isFin || !sc.isFin || sc.isZero then (0, false, true)
  else
    let q := roundInt (Fv.div (fval x) sc) .rne
    let c := clampInt (-(2 ^ 31)) (2 ^ 31 - 1) q
    (c, decide (c ≠ q), false)

/-- The memory that the outlier terms of row r read (R122). -/
def Pre.outlierReads (d : Pre) (r n : Nat) : List (Nat × Nat) :=
  (d.outA + r * d.outAStride, 2 * d.nOut) :: (List.range d.nOut).map fun j => (d.outB + j * d.outBStride, 2 * n)

/-- The outlier terms of row r of a preload (R122). -/
def State.outlierTerms (s : State) (t : Tile) (d : Pre) (r : Nat) : List (Int × Bool × Bool) :=
  let pois := fun (a n : Nat) => (s.firstPoison t.ctx a n).isSome
  let badA := pois (d.outA + r * d.outAStride) (2 * d.nOut)
  (List.range t.n).map fun c =>
    let x := outlierTerm (s.outlierSum t.ctx d r c) (scaleAt t.scaleA r) (scaleAt t.scaleB c)
    (x.1, x.2.1, x.2.2 || badA || (List.range d.nOut).any fun j => pois (d.outB + j * d.outBStride + 2 * c) 2)

/-- The terms of a row are kept for its preload; a poisoned input is consumed (R122, R230). -/
def State.outlierRow (s : State) (e q : Nat) (t : Tile) (d : Pre) (r : Nat) : State :=
  let s := s.loadAll t.flight t.ctx (d.outlierReads r t.n)
  let terms := s.outlierTerms t d r
  s.updSlot e q t.slot fun y => { y with outliers := y.outliers ++ [(r, terms)] }

/-- A preload term of an element, with its poison (R123, R229). -/
def State.preTerm (s : State) (id c a : Nat) : Int × Bool × State :=
  let x := s.load id c a 4
  ((BitVec.ofNat 32 (ofLeBytes x.1)).toInt, x.2.1, x.2.2)

/-- Mark an element poisoned. -/
def State.markPois (s : State) (e q j r c : Nat) (b : Bool) : State :=
  if b then s.updSlot e q j fun x => { x with pois := NatSet.ins (markOf r c) x.pois } else s

/-- Bias, residual and outlier are added to an element's cleared word, in that order (R123). -/
def State.preElem (s : State) (e q : Nat) (t : Tile) (d : Pre) (r c : Nat) : State :=
  let j := t.slot
  let term := fun (s : State) (use : Bool) (a : Nat) =>
    if !use then s
    else
      let x := s.preTerm t.flight t.ctx a
      (x.2.2.addWord e q j r c x.1).markPois e q j r c x.2.1
  let s := term s d.bias (d.biasAddr + 4 * c)
  let s := term s d.resid (d.residAddr + r * d.residStride + 4 * c)
  if !d.outlier then s
  else match ((s.unit e q).slot j).outliers.find? fun o => o.1 == r with
  | some o =>
    let x := nth (0, false, false) o.2 c
    let s := if x.2.1 then s.noteSat e q j r c else s
    (s.addWord e q j r c x.1).markPois e q j r c x.2.2
  | none => s

/-- The staging offset of a quarter engine's preload row (R123). -/
def preStage (e q region r : Nat) : Nat :=
  33554432 * (e / 16) + 16777216 + 524288 * (e % 16) + 0x20000 + q * 0x18000 + region * 16384 + 256 * r

/-- Assemble row r of a preload, copy it through the staging region where there is one, and note it as done (R123). -/
def State.preloadRow (s : State) (e q : Nat) (t : Tile) (d : Pre) (r : Nat) : State :=
  let region := ((s.unit e q).slot t.slot).preRegion
  let qm := (s.eng e).quarter
  let s := (List.range t.n).foldl (fun (s : State) c => s.preElem e q t d r c) s
  let s := match region with
    | some k => s.wr (physSram (preStage e q k r)) (s.rd (physSram (accAddr qm e q t.slot r 0)) (4 * t.n)) false
    | none => s
  let s := s.updSlot e q t.slot fun x =>
    let done := NatSet.ins r x.preDone
    { x with preDone := done, preRegion := if t.m ≤ done.length then none else x.preRegion }
  s.poke e q

/-- A row's preload is assembled into its word row, in quarter mode through its staging region (R123). -/
def execPreloadRowComplete (engine : BitVec 11) (quarter : BitVec 2) (row : BitVec 7) (s : State) : Out :=
  let e := engine.toNat
  let q := quarter.toNat
  let r := row.toNat
  let qm := (s.eng e).quarter
  s.workRow e q <|
    match (s.unit e q).preTile r fun x => !qm || x.preRegion.isSome with
    | some (t, d) =>
      if d.outlier && !((s.unit e q).slot t.slot).outliers.any fun o => o.1 == r then s else s.preloadRow e q t d r
    | none => s

/-! ### Drain and chains (R129 to R132, R140) -/

/-- The link value of an element at drain: SP after the final add where a spill region exists, as R132 has it, of a link that
does not spill too, where R130 says (W, 0) (DESIGN CHOICE, log entry 100); else, and in a raw drain, (W, 0) (R137). -/
def State.linkValue (s : State) (e q : Nat) (t : Tile) (d : Epi) (r c : Nat) : Sp :=
  let w := s.elemSp e q t r c
  if t.region.isEmpty || d.raw then w
  else
    let j := Map.get (fun _ => 0) ((s.unit e q).slot t.slot).spills r
    spAdd (if t.first.spillRuns == 0 then Sp.ofNat 0 else s.spillWord e t r c) w (s.drawOf t.ctx t.first.spillStream (d.elem r c) j)

/-- The largest exponent among values. -/
def maxExp (vs : List Sp) : Nat := vs.foldl (fun n v => max n v.e) 0

def State.updDrain (s : State) (e q id : Nat) (f : DrainS → DrainS) : State :=
  s.updUnit e q fun u => { u with drains := updFirst (fun d => d.tile == id) f u.drains }

/-- Row values leave a drain: to the epilogue, or to the next link (R130). -/
def State.passRow (s : State) (e q : Nat) (t : Tile) (r at' : Nat) (vs : List Sp) : State :=
  if t.first.midLink then
    s.updEng t.first.nextEngine fun x => { x with
      chainIn := x.chainIn ++ [{ fromEngine := e, fromTile := t.id, due := at', target := t.first.nextEngine
                                 queue := t.queue, ctx := t.ctx
                                 chainId := t.first.chainId, chainLen := t.first.chainLen
                                 chainPos := t.first.chainPos, row := r, last := r + 1 == t.m, vals := vs
                                 place := none }] }
  else s.updDrain e q t.id fun d => { d with outs := d.outs ++ [(at' + 12, r, vs)] }

/-- The drain reads the next row of its slot, no earlier than cycle `now` (R105, R140). -/
def State.readRow (s : State) (e q : Nat) (t : Tile) (d : DrainS) (now : Nat) (vs : List Sp) : State :=
  let at' := max now d.readAt
  let rows := unitRows (s.eng e).quarter
  let s := s.updDrain e q t.id fun d => { d with
    next := d.next + 1, readAt := at' + d.per
    freeAt := if d.next + 1 == t.m then some (at' + d.per * (rows - t.m) + 1) else d.freeAt }
  s.passRow e q t d.next at' vs

/-- A tile whose drain cannot go on: its slot is freed and its command ends (R131). -/
def State.refuseChain (s : State) (e q : Nat) (t : Tile) : State :=
  let s := s.orReg .splErr (clusterOfEng e) 4
  let s := s.updUnit e q fun u => { u with drains := u.drains.filter fun d => d.tile != t.id }
  let s := (s.freeSlot e q t.slot).engReject e q t.flight (Err.state St.badField)
  s.poke e q

/-- A chain row meets the drain of its receiving tile: added to the own row and passed on, or refused (R130, R131). The
draws take row_origin, col_origin and ld_elems from the descriptor that names the drain, and the stream from the first
one (R136). -/
def State.chainRow (s : State) (e : Nat) (t : Tile) (x : ChainRow) : State :=
  match s.drainOf e 0 t.id with
  | none => s
  | some d =>
    if !t.follows x then s.refuseChain e 0 t
    else
      let vs := ((nth [] d.rows d.next).zip x.vals).zipIdx.map fun v =>
        spAdd v.1.2 v.1.1 (s.drawOf t.ctx t.first.spillStream (d.desc.elem x.row v.2) (0x80000000 + t.first.chainPos))
      let s := (s.noteExp (clusterOfEng e) (maxExp vs)).deep (e / 256) Dc.chainAdds 0 t.ctx 1
      s.readRow e 0 t d (s.unit e 0).cycle vs

/-- A chain's receiver reads the words in which an early row waits (R130, R230). -/
def State.consumeEarly (s : State) (k : Nat) (t : Tile) (x : ChainRow) : State :=
  (List.range x.vals.length).foldl (fun (s : State) c => match s.chainWord k x c with
    | some a => s.consumeWord t a
    | none => s) s

/-- The rows that wait in a cluster and meet a drain of engine e now, one after another: of a row whose number is not that
of the own row that is next, or lies beyond the receiver's m_rows, no own row is present, and it waits (R130). -/
def State.meetEarly (s : State) (e : Nat) : Nat → State
  | 0 => s
  | n + 1 =>
    let k := clusterOfEng e
    let c := s.clusS k
    match c.chainBuf.findSome? fun x => if x.target == e then (s.chainMeets e x).map fun t => (t, x) else none with
    | some (t, x) =>
      (((s.consumeEarly k t x).setClusS k { c with chainBuf := dropFirst (fun y => y == x) c.chainBuf }).chainRow
        e t x).meetEarly e n
    | none => s

/-- Rows that wait for engine e are met, and what they leave is settled (R130). -/
def State.chainEarly (s : State) (e : Nat) : State :=
  let k := clusterOfEng e
  if (s.clusS k).chainBuf.isEmpty then s
  else
    let s := (s.markEarly k).meetEarly e (s.clusS k).chainBuf.length
    (s.fitEarly k).getD s

/-- A slot whose drain falls due (R105). -/
def UnitS.drainDue (u : UnitS) : Option Tile :=
  u.tiles.find? fun t =>
    let x := u.slot t.slot
    x.tile == some t.id && x.st == .drain && (x.drainAt.any fun n => decide (n ≤ u.cycle))
    && !u.drains.any fun d => d.tile == t.id

/-- A drain reads the spill words of its tile, where it takes its final add from them (R126, R132, R230). -/
def State.drainReads (s : State) (e : Nat) (t : Tile) (raw : Bool) : State :=
  if raw || t.first.spillRuns == 0 then s else (List.range t.m).foldl (fun (s : State) r => s.consumeSpills e t r) s

/-- One cycle after tile end the drain starts: rows are read one per cycle, one per two cycles with a spill region; a
link reads a row once the row of the link before it is there (R105, R130, R140). -/
def State.startDrain (s : State) (e q : Nat) (t : Tile) : State :=
  let u := s.unit e q
  let start := ((u.slot t.slot).drainAt).getD u.cycle
  match t.last with
  | none => s
  | some desc =>
    let rows := (List.range t.m).map fun r => (List.range t.n).map fun c => s.linkValue e q t desc r c
    let d : DrainS := { tile := t.id, slot := t.slot, flight := t.flight, desc := desc
                        per := if t.region.isEmpty then 1 else 2, rows := rows, next := 0, readAt := start, outs := []
                        done := 0, freeAt := none, stats := DrainStats.none }
    let s := (s.drainReads e t desc.raw).updUnit e q fun u => { u with drains := u.drains ++ [d] }
    let s := if t.region.isEmpty || desc.raw then s else s.noteExp (clusterOfEng e) (maxExp (rows.flatMap fun r => r))
    let s := if 1 < t.first.chainLen then s.chainEarly e else s
    if t.first.chainPos == 0 then
      rows.foldl (fun (s : State) vs => match s.drainOf e q t.id with
        | some d => s.readRow e q t d 0 vs
        | none => s) s
    else s

/-- The drain of a tile starts (R105). -/
def execDrainStart (engine : BitVec 11) (quarter : BitVec 2) (s : State) : Out :=
  let e := engine.toNat
  let q := quarter.toNat
  s.workRow e q <| match (s.unit e q).drainDue with
  | some t => s.startDrain e q t
  | none => s

/-- A drain that has output every row and freed its slot is gone. -/
def State.pruneDrains (s : State) (e q : Nat) : State :=
  s.updUnit e q fun u =>
    let u := { u with drains := u.drains.filter fun d =>
      !((u.tile? d.tile).all fun (t : Tile) => decide (t.m ≤ d.done) && t.isOver) }
    u.prune

/-- The next link has taken a row: a link whose last row is sent completes its command (R130). -/
def State.rowTaken (s : State) (x : ChainRow) : State :=
  let e := x.fromEngine
  match s.drainOf e 0 x.fromTile with
  | none => s
  | some d =>
    let s := s.updDrain e 0 x.fromTile fun d => { d with done := d.done + 1 }
    let s := if x.last then s.leaveWindow e 0 d.flight else s
    ((s.pruneDrains e 0).poke e 0)

/-- Receive one chain row: none while it must wait, for its cycle, for the engine's grant or for room (R130, R356). -/
def State.receive (s : State) (e : Nat) (x : ChainRow) : Option State :=
  let s' := s.updEng e fun y => { y with chainIn := dropFirst (fun z => z == x) y.chainIn }
  if (s.unit x.fromEngine 0).cycle < x.due then none
  else match s.chainMeets e x with
  | some t => if s.engGranted e then some (((s'.chainRow e t x).rowTaken x).chainEarly e) else none
  | none => (s'.holdRow (clusterOfEng e) x).map fun s => s.rowTaken x

/-- A chain row reaches its engine (R130, R131). -/
def execChainRowReceive (engine : BitVec 11) (s : State) : Out :=
  let e := engine.toNat
  s.unitRow e 0 <| ((s.eng e).chainIn.findSome? fun x => s.receive e x).getD s

/-! ### The epilogue (R137 to R139) -/

/-- A word of an activation table and whether its line is poisoned: built-in words are the part's own (R138). -/
def State.actWord (s : State) (c : Nat) (d : Epi) (i : Nat) : F32 × Bool :=
  if d.act == 4 then (s.rd32 c (d.actTable + 4 * i), s.vaPoisoned c (d.actTable + 4 * i))
  else (builtinWord d.act i, false)

/-- The segment index: floor(p) held in 0 to 255, 0 for a NaN or a negative product (R138). -/
def segment (p : F32) : Nat :=
  match fval p with
  | .nan => 0
  | .inf neg => if neg then 0 else 255
  | .fin neg m => if neg && !m.isZero then 0 else min 255 m.floor

/-- A tail of a table at an infinity: c when m is zero, else an infinity of the sign of m · y (R138), a free sign where m is
a NaN (DESIGN CHOICE, log entry 104: no rule gives m · y a sign there). -/
def tailInf (neg : Bool) (m c : F32) : F32 :=
  if (fval m).isZero then c
  else if (fval m).isNan then rne32 (.inf (Config.tailSign neg m))
  else rne32 (Fv.mul (fval m) (.inf neg))

/-- Evaluation of a table at y; words read beyond 0 to 6 (R138). -/
def State.evalTable (s : State) (c : Nat) (d : Epi) (y : F32) : F32 × List Nat :=
  let w := fun i => (s.actWord c d i).1
  match fval y with
  | .nan => (y, [])
  | .inf neg => (if neg then tailInf true (w 3) (w 4) else tailInf false (w 5) (w 6), [])
  | v =>
    if v.lt (fval (w 0)) then (ffma (w 3) y (w 4), [])
    else if (fval (w 1)).lt v then (ffma (w 5) y (w 6), [])
    else
      let j := segment (fmul (fsub y (w 0)) (w 2))
      (ffma (ffma (w (10 + 3 * j)) y (w (9 + 3 * j))) y (w (8 + 3 * j)), [8 + 3 * j, 9 + 3 * j, 10 + 3 * j])

/-- Step 3: the activation of y, with the poison of the table lines that it read (R138, R229). -/
def State.activate (s : State) (c : Nat) (d : Epi) (y : F32) : F32 × Bool :=
  if d.act == 1 then
    (match fval y with
      | .nan => y
      | v => if (Fv.fin false ⟨0, 1⟩).lt v then y else 0, false)
  else if d.act == 0 || decide (4 < d.act) then (y, false)
  else if (fval y).isNan then (y, false)
  else
    let r := s.evalTable c d y
    (r.1, d.act == 4 && ((List.range 7 ++ r.2).any fun i => (s.actWord c d i).2))

/-- An output element: its pattern and value, whether it saturated, is non-finite, is poisoned. -/
structure OutElem where
  pat : Nat
  val : Fv
  saturated : Bool
  nonfinite : Bool
  poisoned : Bool
deriving DecidableEq, Repr

/-- The address of an element's bias. -/
def Epi.biasAt (d : Epi) (r c : Nat) : Nat := d.biasAddr + 4 * if d.biasAxis then r else c

/-- Steps 1 and 2 of the epilogue on element (r, c): scaled, with its bias (R137). -/
def State.biased (s : State) (t : Tile) (d : Epi) (r c : Nat) (x : Sp) : F32 :=
  let sc := fmul (scaleAt t.scaleA r) (scaleAt t.scaleB c)
  let y := rne32 (Fv.mul (Fv.mul (Fv.ofInt x.m) (.fin false (pow2 x.e))) (fval sc))
  let y := if x.sat && d.satNan then rne32 .nan else y
  if d.biasEn then fadd y (s.rd32 t.ctx (d.biasAt r c)) else y

/-- Steps 1 to 4 of the epilogue on element (r, c) (R137). -/
def State.outElem (s : State) (t : Tile) (d : Epi) (r c : Nat) (x : Sp) : OutElem :=
  if d.raw then ⟨(BitVec.ofInt 32 x.m).toNat, Fv.ofInt x.m, false, false, x.pois⟩
  else
    let a := s.activate t.ctx d (s.biased t d r c x)
    let rnd := if typeRnd (BitVec.ofNat 16 d.outType) == 1 then Rnd.stoch (s.drawOf t.ctx t.first.outStream (d.elem r c) 0)
      else .rne
    let pois := x.pois || a.2 || (d.biasEn && s.vaPoisoned t.ctx (d.biasAt r c))
    match (typeFmt (BitVec.ofNat 16 d.outType)).bind Fmt.scalar with
    | some l =>
      let w := l.write (fval a.1) rnd
      ⟨w.pat, l.decode w.pat, w.saturated, w.nonfinite, pois⟩
    | none => ⟨0, .nan, false, false, pois⟩

/-- Step 5: a row's counts, without its poisoned elements (R139, R229). -/
def DrainStats.count (st : DrainStats) (row : List (Sp × OutElem)) : DrainStats :=
  row.foldl (fun (st : DrainStats) x =>
    if x.2.poisoned then st
    else
      let b := histBin x.2.val
      { bins := Map.set (fun _ => 0) st.bins b (Map.get (fun _ => 0) st.bins b + 1)
        sat := st.sat + if x.1.sat then 1 else 0
        overflow := st.overflow + if x.2.saturated then 1 else 0
        maxExp := max st.maxExp x.1.e }) st

/-- The record after a tile's counts are added (R139). -/
def DrainStats.addTo (st : DrainStats) (old : List Byte) : List Byte :=
  let add := fun (i v : Nat) => leBytes 4 (satAddNat 0xFFFFFFFF (w32At old i) v)
  let bin := fun i => Map.get (fun _ => 0) st.bins i
  ((List.range 64).flatMap fun i => add i (bin i)) ++ add 64 st.sat ++ add 65 st.overflow ++ add 66 (bin 63)
  ++ leBytes 4 (w32At old 67 / 256 * 256 + max (w32At old 67 % 256) (st.maxExp % 256)) ++ add 68 1
  ++ (old.drop 276).take 44

/-- The tile's counts join its record at the end of the drain, stores of other drains that still wait included (R139). -/
def State.writeDrainStats (s : State) (c : Nat) (d : DrainS) : State :=
  if !d.desc.statsEn then s
  else
    let a := d.desc.statsAddr
    let old := s.load d.flight c a 320
    old.2.2.storeMarked d.flight c a (d.stats.addTo (s.rdPending c a 320)) fun i => s.vaPoisoned c (a + i)

/-- The words of a user table that the evaluation of y reads: none for a NaN (R138, R229). -/
def State.tableReads (s : State) (c : Nat) (d : Epi) (y : F32) : List (Nat × Nat) :=
  if d.act != 4 || (fval y).isNan then []
  else (d.actTable, 28) :: (s.evalTable c d y).2.map fun i => (d.actTable + 4 * i, 4)

/-- The memory that the epilogue of a row reads besides its values. -/
def State.rowReads (s : State) (t : Tile) (d : Epi) (r : Nat) (vs : List Sp) : List (Nat × Nat) :=
  if d.raw then []
  else
    (if d.biasEn then [(d.biasAt r 0, if d.biasAxis then 4 else 4 * t.n)] else [])
    ++ (vs.zipIdx.flatMap fun v => s.tableReads t.ctx d (s.biased t d r v.2 v.1)).eraseDups

/-- A row's outputs are stored, and those stored are counted (R137, R139, R203). -/
def State.putRow (s : State) (e : Nat) (t : Tile) (d : DrainS) (r : Nat) (row : List (Sp × OutElem)) : State :=
  let p := d.desc
  let n := p.elemBytes
  let bad := fun i => (row[i / n]?).any fun x => x.2.poisoned
  let q := s.storeMade d.flight t.ctx (p.outAddr + r * p.outStride) (row.flatMap fun x => leBytes n x.2.pat) bad
  let s := q.2
  let row := row.take (q.1 / n)
  let good := row.filter fun x => !x.2.poisoned
  let s := if good.any fun x => x.2.nonfinite then s.updCtx t.ctx fun x => { x with nonfinite := true } else s
  let s := s.bump .vwmLcSat (e / 256) (good.filter fun x => x.2.saturated).length
  s.deep (e / 256) Dc.epiOut (p.outType % 256) t.ctx row.length

/-- A row leaves the drain: its outputs are written (R105, R137); the last one ends the command (R113). A command that
an access has ended writes no more, and its tile drains on (R203). -/
def State.outputRow (s : State) (e q : Nat) (t : Tile) (d : DrainS) (r : Nat) (vs : List Sp) : State :=
  let s := s.loadAll d.flight t.ctx (s.rowReads t d.desc r vs)
  let row := vs.zipIdx.map fun v => (v.1, s.outElem t d.desc r v.2 v.1)
  let stats := if s.faulted d.flight then d.stats else d.stats.count row
  let s := if s.faulted d.flight then s else s.putRow e t d r row
  let d := { d with outs := d.outs.drop 1, done := d.done + 1, stats := stats }
  let s := s.updDrain e q t.id fun _ => d
  let s := if d.done < t.m then s else (s.writeDrainStats t.ctx d).leaveWindow e q d.flight
  (s.pruneDrains e q).poke e q

/-- Twelve cycles after a slot row is read the epilogue writes its outputs (R105, R137). -/
def execEpilogueRowOutput (engine : BitVec 11) (quarter : BitVec 2) (s : State) : Out :=
  let e := engine.toNat
  let q := quarter.toNat
  let u := s.unit e q
  s.workRow e q <|
    match u.drains.findSome? fun d => (d.outs.head?.filter fun o => decide (o.1 ≤ u.cycle)).map fun o => (d, o) with
    | some (d, o) =>
      match u.tile? d.tile with
      | some t => s.outputRow e q t d o.2.1 o.2.2
      | none => s
    | none => s

/-- The cycle after the read of a slot's last row the slot is FREE, and a waiting tile takes it (R97, R105). -/
def execSlotFree (engine : BitVec 11) (quarter : BitVec 2) (s : State) : Out :=
  let e := engine.toNat
  let q := quarter.toNat
  let u := s.unit e q
  s.workRow e q <|
    match u.drains.find? fun d => (d.freeAt.any fun n => decide (n ≤ u.cycle)) && (u.slot d.slot).tile == some d.tile
        && (u.tile? d.tile).any fun t => !t.first.midLink || decide (t.m ≤ d.done) with
    | some d => ((s.freeSlot e q d.slot).pruneDrains e q).poke e q
    | none => s

/-! ### Held writes (R90) -/

/-- A held write proceeds once no accepted array command reads its bytes, whatever the order of held writes that overlap
(R90, R200; DESIGN CHOICE, log entry 104: no rule orders them). -/
def execDeferredSramWrite (engine : BitVec 11) (s : State) : Out :=
  let e := engine.toNat
  s.unitRow e 0 <| match (s.eng e).deferred.find? fun d => !s.stillRead e d.off d.bytes.length with
  | some d =>
    let off := 33554432 * (e / 16) + 1048576 * (e % 16) + d.off
    (s.wr (physSram off) d.bytes d.poison).updEng e fun x =>
      { x with deferred := dropFirst (fun y => y == d) x.deferred }
  | none => s

end Sys2Proof.Machine
end

