-- ==== Sys2Proof/Machine/Image.lean ====
section
/-! DEFINITION. Checkpoint images (R248 to R257) and Harvest (R258 to R260). -/

namespace Sys2Proof.Machine

open Sys2Proof

/-! ### The size of an image (R254) -/

def segBytes : Nat := 65536

/-- Flash pages of the page table of an image of P pages. -/
def imgTable (p : Nat) : Nat := ceilDiv (16 * p) pageBytes

/-- Segments of region B. -/
def imgSegs (p : Nat) : Nat := 32 * (imgTable p + 3 + p)

/-- Flash pages of region A. -/
def imgClear (p : Nat) : Nat := ceilDiv (4096 + 16 * imgSegs p) pageBytes

/-- Flash pages that an image of P pages takes beside its data pages. -/
def imgExtra (p : Nat) : Nat := imgClear p + imgTable p + 3

def imgQuota (p : Nat) : Nat := imgExtra p + p

/-! ### The CRC tree (R253) -/

/-- The 32 segments of a page at a physical address, as (segment, address). -/
def pageSegs (a : Nat) : List (Nat × Nat) := (List.range 32).map fun i => (i, a + segBytes * i)

/-- The leaves of a page: the CRC of each segment (R253). -/
def State.pageLeaves (s : State) (a : Nat) : List W64 :=
  (pageSegs a).map fun p => BitVec.ofNat 64 (crc64 (s.rdRange p.2 segBytes))

/-- The CRC of a page: that of its leaves (R253). -/
def State.pageCrc (s : State) (a : Nat) : W64 :=
  BitVec.ofNat 64 (crc64 ((s.pageLeaves a).flatMap fun x => leBytes 8 x.toNat))

/-- The root over (page index, page CRC), in ascending index. -/
def rootCrc (ps : List (Nat × W64)) : W64 :=
  BitVec.ofNat 64 (crc64 (ps.flatMap fun p => leBytes 8 p.1 ++ leBytes 8 p.2.toNat))

def ImageS.rootOf (m : ImageS) : W64 := rootCrc (m.pages.map fun p => (p.page, p.crc))

/-! ### Segments in flash (R252, R254) -/

/-- The flash page of an image's k-th page beside its data pages (R254). -/
def ImageS.extraPage (m : ImageS) (k : Nat) : Nat := (nth (0, 0) m.extra k).1

/-- Where byte o of region A lies. -/
def ImageS.clearAt (m : ImageS) (o : Nat) : Nat := physFlash (m.extraPage (o / pageBytes)) (o % pageBytes)

/-- Entry n of the tag table, after the 4 KiB of the header (R252, R254). -/
def ImageS.tagAt (m : ImageS) (n : Nat) : Nat := m.clearAt (4096 + 16 * n)

/-- The first segment of the Almanac region, of the stream table, and of data page i (R254). -/
def ImageS.almSeg (m : ImageS) : Nat := 32 * imgTable m.pages.length
def ImageS.streamSeg (m : ImageS) : Nat := m.almSeg + 64
def ImageS.dataSeg (m : ImageS) (i : Nat) : Nat := m.almSeg + 96 + 32 * i

/-- Where segment n of the pages before the data pages lies in flash. -/
def ImageS.headSegAt (m : ImageS) (n : Nat) : Nat :=
  physFlash (m.extraPage (imgClear m.pages.length + n / 32)) (segBytes * (n % 32))

/-- The 96-bit IV and the associated data of segment n (R252). DESIGN CHOICE (log entry 77): the IV is big-endian, as AES-GCM
reads its counter, and the associated data little-endian, as the part lays out fields. -/
def ImageS.iv (m : ImageS) (n : Nat) : List Nat := Aes.beBytes 4 m.id ++ Aes.beBytes 8 n
def ImageS.ad (m : ImageS) (n : Nat) : List Nat :=
  natsOf (leBytes 4 m.id ++ leBytes 4 (m.epoch.toNat % 2 ^ 32) ++ leBytes 8 n)

/-- The data key of an image. -/
def ImageS.dataKey (m : ImageS) : List Nat := keyBytes (Config.imageKey m.id)

/-- Mark lines poisoned, their content as it stands. -/
def State.markLines (s : State) (ls : List Nat) : State :=
  { s with poison := ls.foldl (fun p l => NatSet.ins l p) s.poison }

/-- Encrypt segment n to a flash address (R252); `bad`: its poisoned lines, counted from its start, whose marks go along (R228,
R229). -/
def State.sealSeg (s : State) (m : ImageS) (n dst : Nat) (plain : List Byte) (bad : List Nat) : State :=
  let ls := bad.map fun l => dst / 64 + l
  ((s.wr dst (bytesOf (Aes.ctr m.dataKey (m.iv n) (natsOf plain))) false).markLines ls).updImage m.id fun (m : ImageS) =>
    { m with marks := m.marks ++ ls }

/-- Where segment n lies in flash (R254). -/
def ImageS.segAt (m : ImageS) (n : Nat) : Nat :=
  if n < m.dataSeg 0 then m.headSegAt n
  else physFlash ((m.pages[(n - m.dataSeg 0) / 32]?.map fun p => p.fpage).getD 0) (segBytes * (n % 32))

/-- Write the tag table, of the segments as they were written (R250, R252). -/
def State.writeTags (s : State) (m : ImageS) : State :=
  (List.range (imgSegs m.pages.length)).foldl (fun (s : State) n =>
    s.wr (m.tagAt n) (bytesOf (Aes.tag m.dataKey (m.iv n) (m.ad n) (natsOf (s.rdRange (m.segAt n) segBytes)))) false) s

/-- Decrypt segment n from a flash address, and check its tag. A line of which flash lost the bytes reads as nothing that
passes; one that the drain marked holds its content. -/
def State.openSeg (s : State) (m : ImageS) (n src : Nat) : List Byte × Bool :=
  let ct := natsOf (s.rdRange src segBytes)
  (bytesOf (Aes.ctr m.dataKey (m.iv n) ct),
   (s.poisonIn src segBytes).all (fun l => m.marks.contains l) && (s.poisonIn (m.tagAt n) 16).isEmpty
     && bytesOf (Aes.tag m.dataKey (m.iv n) (m.ad n) ct) == s.rdRange (m.tagAt n) 16)

/-- Encrypt bytes into consecutive segments from n on, up to 2 MiB pages padded with zeros; `bad`: their poisoned lines. -/
def State.sealHead (s : State) (m : ImageS) (n count : Nat) (bs : List Byte) (bad : List Nat) : State :=
  (List.range count).foldl (fun (s : State) i =>
    let b := (bs.drop (segBytes * i)).take segBytes
    s.sealSeg m (n + i) (m.headSegAt (n + i)) (b ++ List.replicate (segBytes - b.length) 0)
      ((bad.filter fun l => l / 1024 == i).map fun l => l % 1024)) s

/-! ### Taking an image (R248, R249) -/

/-- The protected pages of a context, ascending, with their frames. -/
def State.protPages (s : State) (c : Nat) : List (Nat × PageS) :=
  (s.pagesOf c).filter fun e => s.protPage c e.1 && e.2.st != .unmapped

/-- The part is ready for an image (R236, R254, R257); its quota is held against the pages protected at EXCHANGE (R248; DESIGN
CHOICE, log entry 106). -/
def State.ckptReady (s : State) (c : Nat) : Bool :=
  let mine := s.images.filter fun m => m.ctx == c
  (s.ctx c).ckpt && !(mine.any fun m => m.st == .draining) && decide (mine.length < 16)
  && decide (s.flashUse c + imgQuota (s.protPages c).length ≤ (s.reg .tierQuotaFlash c).toNat)

/-- Which of the 32 segments at an address hold a poisoned line (R256). -/
def State.segPoison (s : State) (a : Nat) : W32 :=
  BitVec.ofNat 32 ((pageSegs a).map fun p => if (s.poisonIn p.2 segBytes).isEmpty then 0 else 2 ^ p.1).sum

/-- Bytes of the Almanac region and of the stream table of a context (R160, R189). -/
def almBytes : Nat := 4194304
def streamBytes : Nat := 524288

/-- A region of a context as it stands; all zeros while its base is zero. -/
def State.regionBytes (s : State) (c : Nat) (base : W64) (n : Nat) : List Byte :=
  if base == 0 then List.replicate n 0 else s.rdVa c base.toNat n

/-- The poisoned lines of a region, counted from its start. -/
def State.regionPoison (s : State) (c : Nat) (base : W64) (n : Nat) : List Nat :=
  if base == 0 then [] else (List.range (n / 64)).filter fun i => (s.firstPoison c (base.toNat + 64 * i) 64).isSome

/-- The record of an image of the committed epoch (R249). Its root_crc is 0 until it is SEALED, which IMAGE_LIST shows (R257;
DESIGN CHOICE, log entry 99). -/
def State.newImage (s : State) (c : Nat) (extra : List (Nat × Nat)) : ImageS :=
  let rank := (s.ownRank c).getD 0
  { id := s.hist.nextImage, ctx := c, st := .draining, epoch := s.epoch c
    pages := (s.protPages c).map fun e =>
      { page := e.1, frame := e.2.frame, drained := false, fpage := 0, chan := 0
        segPoison := s.segPoison (physFrame e.2.frame 0), crc := s.pageCrc (physFrame e.2.frame 0)
        leaves := s.pageLeaves (physFrame e.2.frame 0) }
    extra := extra, partId := s.ownPart, replica := (s.member c rank).1, rank := rank
    streamTab := (s.ctx c).streams, seed := s.reg .cfgRngSeed c, step := s.reg .cfgRngStep c
    cfgDigest := s.cfgDigest c, root := 0
    almCrc := BitVec.ofNat 64 (crc64 (s.regionBytes c (s.reg .almBase c) almBytes))
    streamCrc := BitVec.ofNat 64 (crc64 (s.regionBytes c (s.reg .cfgStreamBase c) streamBytes))
    key := true, wrappedUnder := none, quota := imgQuota (s.protPages c).length, header := []
    marks := [] }

/-- The page table (R256). -/
def ImageS.pageTable (m : ImageS) : List Byte :=
  m.pages.flatMap fun p => leBytes 4 p.page ++ leBytes 4 p.segPoison.toNat ++ leBytes 8 p.crc.toNat

/-- The tag table follows the last segment of region B (R250). -/
def State.endDrain (s : State) (id : Nat) : State :=
  match s.image id with
  | some m =>
    if m.st != .draining || m.pages.any fun p => !p.drained then s
    else (s.writeTags m).nandWrite (imgClear m.pages.length * pageBytes - 4096) (imgClear m.pages.length * pageBytes - 4096)
  | none => s

/-- Take an image of the committed epoch: the frames of every protected page are held until drained, and the drain writes
the first segments at once: the page table, whose CRCs the held frames fix, then the Almanac region and the stream table,
which no step copy keeps, as they stand (R248 to R250, R256). Without a working channel, or with flash read-only, the drain
fails at once (R251). -/
def State.takeImage (s : State) (c : Nat) : State :=
  let t := s.takeFpages (imgExtra (s.protPages c).length)
  let m := s.newImage c ((t.map fun r => r.1).getD [])
  let s := (t.map fun r => r.2).getD s
  let s := { s with hist := { s.hist with nextImage := (m.id + 1) % 2 ^ 32 }, images := s.images ++ [m] }
  let s := s.updCtx c fun x => { x with sealImage := some m.id }
  if t.isNone || s.ftl.readOnly then s.failImage m.id
  else
    let region := fun (s' : State) (n count : Nat) (r : Reg) (len : Nat) =>
      s'.sealHead m n count (s.regionBytes c (s.reg r c) len) (s.regionPoison c (s.reg r c) len)
    let n := (imgTable m.pages.length + 3) * pageBytes
    let s' := region (s.sealHead m 0 m.almSeg m.pageTable []) m.almSeg 64 .almBase almBytes
    ((region s' m.streamSeg 32 .cfgStreamBase streamBytes).nandWrite n n).endDrain m.id

/-! ### The drain (R250, R256) -/

/-- The pages that may be drained next: one with a waiting write, or else the first in order (R247, R250). -/
def State.drainNext (s : State) (m : ImageS) : List Nat :=
  let left := m.pages.filter fun p => !p.drained
  let waiting := left.filter fun p =>
    let x := s.page m.ctx p.page
    x.creditWait && x.frame == p.frame
  if waiting.isEmpty then (left.take 1).map fun p => p.page else waiting.map fun p => p.page

/-- Write data page i of an image: 32 segments, a poisoned line's content as it stands and its mark with it (R228, R250, R253,
R256). -/
def State.drainPage (s : State) (m : ImageS) (i : Nat) (p : ImgPage) (fpage chan : Nat) : State :=
  let src := physFrame p.frame 0
  let q := { p with drained := true, fpage := fpage, chan := chan }
  let s := (List.range 32).foldl (fun (s : State) k =>
    s.sealSeg m (m.dataSeg i + k) (physFlash fpage (segBytes * k)) (s.rdRange (src + segBytes * k) segBytes)
      ((s.poisonIn (src + segBytes * k) segBytes).map fun l => l - (src + segBytes * k) / 64)) s
  let s := s.updImage m.id fun (m : ImageS) => { m with
    pages := updFirst (fun (x : ImgPage) => x.page == p.page) (fun _ => q) m.pages }
  (s.imageLets m.ctx p.frame).nandWrite pageBytes pageBytes

/-- A page of a draining image is written to flash; after the last the tag table follows (R250). A drain that finds flash
read-only fails (R251), and after a part fault no response that waited goes (R370). -/
def execCkptPageDrained (imageId : W32) (page : BitVec 24) (s : State) : Out :=
  match s.image imageId.toNat with
  | none => .next s
  | some m =>
    match m.pages.findIdx? fun p => p.page == page.toNat, m.pages.find? fun p => p.page == page.toNat, s.takeFpage with
    | some i, some p, some t =>
      if m.st != .draining || p.drained || !(s.drainNext m).contains p.page then .next s
      else if s.ftl.readOnly then .next (s.failImage m.id)
      else
        let s := ((t.2.2.drainPage m i p t.1 t.2.1).endDrain m.id).retryCredits m.ctx
        .next (if s.boot.partFault then s else s.sendLate)
    | _, _, _ => .next s

/-! ### Sealing (R252, R255, R378) -/

/-- The data key of an image wrapped under a KEK (R252). -/
def ImageS.wrapped (m : ImageS) (kek : BitVec 256) : List Byte := bytesOf (Aes.wrap (keyBytes kek.toNat) m.dataKey)

/-- The header's words 0 to 45 (R255). -/
def ImageS.head (m : ImageS) (kek : BitVec 256) : List Byte :=
  leBytes 4 0x4C56494D ++ leBytes 4 (0x10000 + 48) ++ leBytes 4 m.id
  ++ leBytes 4 (m.partId * 65536 + m.ctx * 256) ++ leBytes 8 m.epoch.toNat ++ leBytes 8 m.seed.toNat
  ++ leBytes 8 m.step.toNat ++ leBytes 4 m.pages.length ++ leBytes 4 (imgTable m.pages.length)
  ++ leBytes 8 m.root.toNat ++ leBytes 8 m.almCrc.toNat ++ leBytes 8 m.streamCrc.toNat
  ++ (m.cfgDigest ++ List.replicate 32 0).take 32 ++ (m.wrapped kek ++ List.replicate 40 0).take 40
  ++ leBytes 4 (m.replica * 65536 + m.rank) ++ List.replicate 36 0

/-- A drained image with a KEK present writes its header and becomes SEALED (R249, R250, R378). -/
def execCkptSeal (imageId : W32) (s : State) : Out :=
  match s.image imageId.toNat, s.sec.kek with
  | some m, some kek =>
    if m.st != .draining || !m.key || (m.pages.any fun p => !p.drained) then .next s
    else if s.ftl.readOnly then .next (s.failImage m.id)
    else
      let m := { m with root := m.rootOf }
      let head := m.head kek
      let m := { m with st := .sealed, wrappedUnder := some kek, header := head ++ leBytes 8 (crc64 head) }
      let s := (s.wr (m.clearAt 0) m.header false).updImage m.id fun _ => m
      .next (((s.nandWrite 4096 4096).orReg .eqxFlags m.ctx 4).raise 0x0406 0 (some m.ctx) anchorDie [])
  | _, _ => .next s

/-! ### IMAGE_LIST and IMAGE_RELEASE (R257) -/

def ImageSt.code : ImageSt → Nat
  | .draining => 1 | .sealed => 2 | .failed => 3

def ImageS.record (m : ImageS) : List Byte :=
  leBytes 4 m.id ++ leBytes 4 m.st.code ++ leBytes 8 m.epoch.toNat ++ leBytes 4 m.pages.length ++ leBytes 8 m.root.toNat
  ++ leBytes 4 0

/-- Insert in ascending image_id. -/
def insImage (m : ImageS) : List ImageS → List ImageS
  | [] => [m]
  | x :: t => if m.id < x.id then m :: x :: t else x :: insImage m t

/-- The images of a context, in ascending image_id. -/
def State.imagesOf (s : State) (c : Nat) : List ImageS :=
  (s.images.filter fun m => m.ctx == c).foldr insImage []

/-- The records that IMAGE_LIST writes, in ascending image_id. -/
def State.imageRecords (s : State) (c : Nat) : List Byte := (s.imagesOf c).flatMap ImageS.record

/-- The checks of IMAGE_LIST. -/
def State.imageListErr (s : State) (c : Nat) (dst : W64) : Option Err :=
  let bs := s.imageRecords c
  firstErr [chkAlign 4 dst 64, if bs.isEmpty then none else s.chkWrite c 4 dst bs.length]

/-- IMAGE_LIST writes one record per image of the context (R257). -/
def execImageList (h : Hdr) (dst : W64) (s : State) : Out :=
  s.packet s.txnScopes h ⟨0x513, 0, .context, true⟩ fun id c s =>
    s.guarded id (s.imageListErr c dst) fun s =>
      let bs := s.imageRecords c
      ((s.names id c [] [(dst.toNat, bs.length)] []).store id c dst.toNat bs false).finishNow id

/-- The flash pages of an image go. -/
def State.dropImagePages (s : State) (m : ImageS) : State :=
  let fps := (m.pages.filter fun p => p.drained).map fun p => p.fpage
  (fps ++ m.extra.map fun e => e.1).foldl (fun (s : State) f => s.zero (physFlash f 0) pageBytes) s

/-- Release an image: its drain stops, its frames and flash pages and its record go (R257). One that has failed holds no
frame any more. -/
def State.releaseImage (s : State) (m : ImageS) : State :=
  let frames := if m.st == .draining then (m.pages.filter fun p => !p.drained).map fun p => p.frame else []
  let s := { s with images := s.images.filter fun x => x.id != m.id }
  let s : State := frames.foldl (fun (s : State) f => s.imageLets m.ctx f) s
  ((s.dropImagePages m).retryCredits m.ctx).sendLate

/-- IMAGE_RELEASE releases an image of the context (R257). -/
def execImageRelease (h : Hdr) (imageId : W32) (s : State) : Out :=
  s.packet s.txnScopes h ⟨0x514, 0, .context, true⟩ fun id c s =>
    match (s.imagesOf c).find? fun m => m.id == imageId.toNat with
    | none => s.reject id (Err.word St.badField 4)
    | some m => (s.releaseImage m).finishNow id

/-! ### Harvest (R258 to R260, R377, R378) -/

/-- The header holds its CRC. -/
def headerOk (h : List Byte) : Bool := ofLeBytes ((h.drop 184).take 8) == crc64 (h.take 184)

/-- The header of an image can be read from flash and holds its CRC (R226, R258). -/
def State.imageHeadOk (s : State) (m : ImageS) : Bool :=
  (s.poisonIn (m.clearAt 0) 192).isEmpty && headerOk m.header

/-- The current mapping of a page is released: its frames and its flash page (R259). -/
def State.releaseMapping (s : State) (c p : Nat) : State :=
  let x := s.page c p
  let s := s.setPage c p { PageS.none with waits := x.waits }
  let frames := (if x.st == .hbm || x.st == .down || x.st == .up then [x.frame] else [])
    ++ x.stepStart.toList ++ x.prevStart.toList ++ x.copying.toList
  let s : State := frames.foldl (fun (s : State) f => s.freeFrame c f) s
  if x.st == .flash || x.st == .up then s.zero (physFlash x.fpage 0) pageBytes else s

/-- HBM use once the listed pages have been released and mapped to fresh frames (R258). -/
def State.harvestUse (s : State) (c : Nat) (m : ImageS) : Nat :=
  let t := { s with pages := m.pages.foldl (fun (ps : Map PageS) (p : ImgPage) =>
    Map.set (fun _ => PageS.none) ps (pageKey c p.page) PageS.none) s.pages }
  t.hbmUse c + m.pages.length

/-- The context enters HELD. -/
def State.enterHeld (s : State) (c : Nat) : State :=
  (s.updCtx c fun x => { x with phase := .held }).orReg .eqxFlags c 2

/-- An image of the context by its number. -/
def State.imageOf (s : State) (c : Nat) (imageId : W32) : Option ImageS :=
  (s.imagesOf c).find? fun m => m.id == imageId.toNat

/-- The Almanac region and the stream table, which HARVEST restores where they lie (R259). -/
def State.harvestRegions (s : State) (c : Nat) : List (Nat × Nat) :=
  [((s.reg .almBase c).toNat, almBytes), ((s.reg .cfgStreamBase c).toNat, streamBytes)]

/-- What HARVEST writes: every page that the image lists, and the two regions (R432). -/
def State.harvestWrites (s : State) (c : Nat) (m : ImageS) : List (Nat × Nat) :=
  (m.pages.map fun p => (pageBytes * p.page, pageBytes)) ++ s.harvestRegions c

/-- Why HARVEST cannot write one of the two regions: a page of them, other than those that it maps afresh, is not mapped or is
sealed (R203, R212). -/
def State.regionFault (s : State) (c : Nat) (m : ImageS) : Option Nat :=
  (s.harvestRegions c).findSome? fun r =>
    match s.place c r.1, s.place c (r.1 + r.2 - 1) with
    | .page _ _, .page _ _ =>
      let ps := (pagesTouched r.1 r.2).filter fun p => !m.pages.any fun x => x.page == p
      if ps.any fun p => (s.page c p).st == .unmapped then some St.unmapped
      else if ps.any fun p => (s.page c p).sealed then some St.sealed else none
    | .hole, _ => some St.unmapped
    | _, .hole => some St.unmapped
    | _, _ => none

/-- The checks of HARVEST (R203, R212, R258); its pages are judged after what R258 states (DESIGN CHOICE, log entry 106). -/
def State.harvestErr (s : State) (id c : Nat) (imageId : W32) : Option Err :=
  let busy := (s.ctx c).phase != .held && (s.ctxFlights c).any fun f => f.id != id
  match s.imageOf c imageId with
  | none => some (if busy then Err.state St.ctxBusy else Err.word St.badField 4)
  | some m => firstErr [errIf busy (Err.state St.ctxBusy), errIf (m.st != .sealed) (Err.word St.badField 4),
      errIf (s.reg .almBase c == 0 || s.reg .cfgStreamBase c == 0 || !s.imageHeadOk m) (Err.state St.badField),
      errIf (s.sec.kek.isNone || s.sec.kek != m.wrappedUnder) (Err.state St.noKey),
      errIf (decide ((s.reg .tierQuotaHbm c).toNat < s.harvestUse c m)) (Err.state St.quota),
      (s.regionFault c m).map Err.state]

/-- HARVEST starts the restore of a SEALED image (R258). -/
def execHarvest (h : Hdr) (imageId : W32) (s : State) : Out :=
  s.packet s.txnScopes h ⟨0x515, 0, .context, true⟩ fun id c s =>
    s.guarded id (s.harvestErr id c imageId) fun s =>
      let s := s.names id c [] (((s.imageOf c imageId).map fun m => s.harvestWrites c m).getD []) []
      (if (s.ctx c).phase == .held then s else s.enterHeld c).updFlight id fun f =>
        { f with work := .harvest imageId.toNat }

/-- Poison every line of a run. -/
def State.poisonRun (s : State) (a n : Nat) : State :=
  { s with poison := (List.range (n / 64)).foldl (fun p i => NatSet.ins (a / 64 + i) p) s.poison }

/-- Restore segments, given as (number, physical address): those whose tag fails, or their leaf where `leaf` gives one, are
poisoned (R259), and the lines that the drain marked in the others (R228); the numbers of the failed ones. -/
def State.harvestSegs (s : State) (m : ImageS) (segs : List (Nat × Nat)) (bad : Nat → Bool) (leaf : Nat → Option W64) :
    List Nat × State :=
  segs.foldl (fun (a : List Nat × State) e =>
    let o := a.2.openSeg m e.1 (m.segAt e.1)
    let s := a.2.wr e.2 o.1 false
    let carried := (a.2.poisonIn (m.segAt e.1) segBytes).map fun l => e.2 / 64 + (l - m.segAt e.1 / 64)
    let fits := (leaf e.1).all fun x => BitVec.ofNat 64 (crc64 o.1) == x
    if o.2 && fits && !bad e.1 then (a.1, s.markLines carried) else (a.1 ++ [e.1], s.poisonRun e.2 segBytes)) ([], s)

/-- Restore one page: a fresh frame, its bytes, and the segments poisoned that failed or held a poisoned line (R259); true
when a check failed, a seg_poison bit being none. -/
def State.harvestPage (s : State) (c : Nat) (m : ImageS) (i : Nat) (p : ImgPage) (bad : Nat → Bool) : Bool × State :=
  let t := (s.releaseMapping c p.page).takeFrame
  let dst := physFrame t.1 0
  let r := t.2.harvestSegs m ((List.range 32).map fun k => (m.dataSeg i + k, dst + segBytes * k)) bad
    fun n => p.leaves[n - m.dataSeg i]?
  let wrong := r.2.pageCrc dst != p.crc
  let s := ((List.range 32).filter fun k => p.segPoison.getLsbD k).foldl
    (fun (s : State) k => s.poisonRun (dst + segBytes * k) segBytes) r.2
  let s := s.updPage c p.page fun x => { x with st := .hbm, frame := t.1 }
  (!r.1.isEmpty || wrong, s.landWaits c p.page)

/-- Where the segments of a region of the context lie in memory, from a local address on, as (number, physical address),
the first numbered n: those on pages that are not mapped have no place. -/
def State.regionSegs (s : State) (c : Nat) (base : W64) (n count : Nat) : List (Nat × Nat) :=
  if base == 0 then []
  else (List.range count).filterMap fun i => (s.readPhys c (base.toNat + segBytes * i)).map fun a => (n + i, a)

/-- Restore a region from the head segments from n on; true when a tag failed. -/
def State.harvestRegion (s : State) (c : Nat) (m : ImageS) (base : W64) (n count : Nat) (bad : Nat → Bool) :
    Bool × State :=
  let r := s.harvestSegs m (s.regionSegs c base n count) bad fun _ => none
  (!r.1.isEmpty, r.2)

/-- The page table's segments pass their tags. -/
def State.tableOk (s : State) (m : ImageS) : Bool :=
  (List.range m.almSeg).all fun n => (s.openSeg m n (m.headSegAt n)).2

/-- The page table and the listed pages are restored (R259, steps 2 to 4); true when a check failed. -/
def State.harvestPages (s : State) (c : Nat) (m : ImageS) (badSegs : List Nat) : Bool × State :=
  (m.pages.zipIdx).foldl (fun (a : Bool × State) e =>
    let q := a.2.harvestPage c m e.2 e.1 fun n => badSegs.contains n
    (a.1 || q.1, q.2)) (!s.tableOk m, s)

/-- The restore itself (R259); true when every check passed. -/
def State.harvestRun (s : State) (c : Nat) (m : ImageS) (badSegs : List Nat) : Bool × State :=
  let bad := fun n => badSegs.contains n
  let r := s.harvestPages c m badSegs
  let al := r.2.harvestRegion c m (s.reg .almBase c) m.almSeg 64 bad
  let st := al.2.harvestRegion c m (s.reg .cfgStreamBase c) m.streamSeg 8 bad
  let s := st.2.updCtx c fun x => { x with streams := m.streamTab, attempt := 0, phase := .held }
  let s := ((s.setReg .cfgRngSeed c m.seed).setRngStep c m.step).setReg .eqxEpoch c m.epoch
  let crcs := m.pages.map fun p => (p.page, s.pageCrc (physFrame (s.page c p.page).frame 0))
  let alm := BitVec.ofNat 64 (crc64 (s.regionBytes c (s.reg .almBase c) almBytes))
  (!r.1 && !al.1 && !st.1 && badSegs.isEmpty && rootCrc crcs == m.root && alm == m.almCrc, s)

/-- A HARVEST that finds a page of its regions gone or sealed ends there, its listed pages restored (R203, R212). -/
def State.harvestStops (s : State) (c id : Nat) (m : ImageS) (badSegs : List Nat) (st : Nat) : State :=
  ((s.harvestPages c m badSegs).2.madeAccess id).failFlight id st 0

/-- Harvest finishes: it compares the roots and completes in HELD (R259, R260). -/
def execHarvestComplete (ctx : BitVec 6) (badSegments : List Nat) (s : State) : Out :=
  let c := ctx.toNat
  match (s.ctxFlights c).find? fun f => match f.work with | .harvest _ => !f.finished | _ => false with
  | none => .next s
  | some f =>
    match f.work with
    | .harvest n =>
      (match s.image n with
      | none => .next ((s.failFlight f.id St.badField 0xFFFFFFFF).finishLater f.id)
      | some m => match s.regionFault c m with
      | some st => .next ((s.harvestStops c f.id m badSegments st).sendLate.finishLater f.id)
      | none =>
        let r := s.harvestRun c m badSegments
        let s := r.2
        let s := if s.cfgDigest c == m.cfgDigest then s else s.orReg .eqxFlags c 64
        let s := if r.1 then s
          else ((s.outcome f.id St.imageCorrupt 0 0).orReg .eqxFlags c 32).raise 0x0408 2 (some c) anchorDie []
        .next (s.sendLate.finishLater f.id))
    | _ => .next s

end Sys2Proof.Machine
end

