-- ==== Sys2Proof/Machine/Equinox.lean ====
section
/-! DEFINITION. The Equinox: EQX_BARRIER and its phases (R234 to R241), commit and rollback (R193, R237, R238), step
protection (R242), HELD (R239) and the replica digests (R261, R262). -/

namespace Sys2Proof.Machine

open Sys2Proof

/-! ### Leaving an Equinox (R316, R326, R327) -/

/-- The counters of a context, as stored entries. -/
def State.ctrEntries (m : Map W32) (c : Nat) : Map W32 := m.filter fun e => e.1 / 4096 == c

/-- Entries of one context in `m` replaced by those of `n`. -/
def putCtrs (m n : Map W32) (c : Nat) : Map W32 :=
  (m.filter fun e => decide (e.1 / 4096 < c)) ++ State.ctrEntries n c ++ m.filter fun e => decide (c < e.1 / 4096)

/-- The calendars whose members belong to a context. -/
def State.calsOf (s : State) (c : Nat) : List Nat := (List.range 64).filter fun n => s.calCtx n == some c

/-- The context leaves an Equinox: counters and fetch indices are recorded, and its calendars start again (R316, R326,
R327). -/
def State.leaveEqx (s : State) (c : Nat) : State :=
  let s := { s with
    ctrSnap := putCtrs s.ctrSnap s.ctrs c
    queues := s.queues.map fun (e : Nat × QueueS) =>
      (e.1, if e.2.ctx == c then { e.2 with recFetch := e.2.fetch, fetched := 0 } else e.2) }
  (s.calsOf c).foldl (fun (s : State) n => s.setCal n (s.cal n).start) s

/-- At a rollback the counters and the fetch indices of calendar members return to the recorded values (R316, R327). -/
def State.rewind (s : State) (c : Nat) : State :=
  { s with
    ctrs := putCtrs s.ctrs s.ctrSnap c
    queues := s.queues.map fun (e : Nat × QueueS) =>
      (e.1, if e.2.ctx == c && e.2.calMember then
        { e.2 with fetch := e.2.recFetch, published := e.2.published + e.2.fetched, fetched := 0 } else e.2) }

/-! ### Engine slots (R193) -/

/-- The HOLD slots of a context's tiles: (engine, unit, slot). -/
def State.heldSlots (s : State) (c : Nat) : List (Nat × Nat × Nat) :=
  s.engs.flatMap fun e => e.2.units.flatMap fun u => (u.2.slots.filter fun j =>
    j.2.st == .hold && u.2.tiles.any fun t => t.ctx == c && j.2.tile == some t.id).map fun j => (e.1, u.1, j.1)

/-- Engine slots in HOLD are freed as by ARR_DRAIN with discard (R193). -/
def State.discardHeld (s : State) (c : Nat) : State :=
  (s.heldSlots c).foldl (fun (s : State) t => s.freeSlot t.1 t.2.1 t.2.2) s

/-! ### Protected pages at a commit and a rollback (R193, R235, R238, R247) -/

/-- Release frames of a context. -/
def State.freeFrames (s : State) (c : Nat) (fs : List Nat) : State :=
  fs.foldl (fun (s : State) f => s.freeFrame c f) s

/-- Update every page of a context. -/
def State.mapPages (s : State) (c : Nat) (f : PageS → PageS) : State :=
  (s.pagesOf c).foldl (fun (s : State) e => s.setPage c e.1 (f e.2)) s

/-- The step's new pages are the live pages; the step-start frames stay until the end of the Equinox (R235, R238). -/
def State.commitPages (s : State) (c : Nat) : State :=
  let s := s.mapPages c fun x => { x with prevStart := x.stepStart, stepStart := none }
  s.updCtx c fun y => { y with creditPages := [] }

/-- The step-start frames of the committed step are released (R235). -/
def State.releasePrev (s : State) (c : Nat) : State :=
  let fs := (s.pagesOf c).flatMap fun e => e.2.prevStart.toList
  ((s.mapPages c fun x => { x with prevStart := none }).freeFrames c fs).retryCredits c

/-- Protected pages return to their step-start frames, and every credit that the step took returns (R193, R238, R247). A page
that has come to hold the Almanac region in the step is left as it stands (R160). -/
def State.restorePages (s : State) (c : Nat) : State :=
  let ps := (s.pagesOf c).filter fun e => e.2.stepStart.isSome
  let gone := ps.flatMap fun e => if s.almPage c e.1 then e.2.stepStart.toList else [e.2.frame]
  let back := (s.ctx c).creditPages.map fun p => let x := s.page c p; x.stepStart.getD x.frame
  let s := (s.pagesOf c).foldl (fun (t : State) e => t.setPage c e.1 (match e.2.stepStart with
    | some f => { e.2 with frame := if s.almPage c e.1 then e.2.frame else f, stepStart := none }
    | none => e.2)) s
  let s := s.freeFrames c gone
  (s.updCtx c fun y => { y with
    creditPages := [], creditsHeld := y.creditsHeld.filter fun f => !back.contains f }).retryCredits c

/-- The commit is withdrawn: pages return to the frames with which the withdrawn step began, those first written after it
among them, and the credits of both steps return (R247); a page that has come to hold the Almanac region is left as it stands
(R160, R262). -/
def State.withdrawPages (s : State) (c : Nat) : State :=
  let back := fun (e : Nat × PageS) => if s.almPage c e.1 then none else e.2.prevStart.orElse fun _ => e.2.stepStart
  let ps := s.pagesOf c
  let all := fun (e : Nat × PageS) => e.2.frame :: e.2.stepStart.toList ++ e.2.prevStart.toList
  let gone := ps.flatMap fun e => (all e).filter fun f => f != (back e).getD e.2.frame
  let s := ps.foldl (fun (s : State) e =>
    s.setPage c e.1 { e.2 with frame := (back e).getD e.2.frame, stepStart := none, prevStart := none }) s
  ((s.freeFrames c gone).updCtx c fun y => { y with
    creditPages := [], creditsHeld := y.creditsHeld.filter fun f => !(ps.flatMap all).contains f }).retryCredits c

/-! ### Staged changes (R189, R242) -/

/-- The part of a range outside [lo, hi). -/
def ProtRange.minus (r : ProtRange) (lo hi : Nat) : List ProtRange :=
  let e := r.first + r.count
  (if r.first < min e lo then [{ r with count := min e lo - r.first }] else [])
  ++ if max r.first hi < e then [{ r with first := max r.first hi, count := e - max r.first hi }] else []

/-- The ranges that a change leaves. A page that is protected again lies in both ranges, which count apart, and is in the
digest range where one of them has digest 1 (R242; DESIGN CHOICE, log entry 98). -/
def ProtChange.apply (rs : List ProtRange) (ch : ProtChange) : List ProtRange :=
  if ch.unprotect then rs.flatMap fun r => r.minus ch.range.first (ch.range.first + ch.range.count) else rs ++ [ch.range]

/-- The ranges once the staged changes are in force. -/
def CtxS.nextRanges (x : CtxS) : List ProtRange := x.stagedProt.foldl ProtChange.apply x.ranges

/-- The part keeps registrations in the stream table of a context, in a layout that the manual does not give: the region's
bytes are free values from then on (R189; log entry 88). -/
def State.keepTable (s : State) (c : Nat) : State :=
  match s.place c (s.reg .cfgStreamBase c).toNat with
  | .page p off => if (s.page c p).st == .hbm then s.freeRun (physFrame (s.page c p).frame off) 524288 else s
  | _ => s

/-- Staged protection and stream changes take effect (R189, R242); without a table there is nothing to register in. A page
that has left HBM, or is unmapped, since its EQX_PROTECT is protected where it is (R243; DESIGN CHOICE, log entry 98). -/
def State.applyStaged (s : State) (c : Nat) : State :=
  let table := s.reg .cfgStreamBase c != 0
  let s := if table && !(s.ctx c).stagedStreams.isEmpty then s.keepTable c else s
  s.updCtx c fun x => { x with
    ranges := x.nextRanges, stagedProt := [], streams := if table then x.nextStreams else [], stagedStreams := [] }

/-- The pending transactions due at this APPLY (R335). -/
def State.applyDue (s : State) (c : Nat) : State :=
  s.applyAll (s.txns.filter fun t => t.ctx == c && t.st == .pending && !t.idle)

/-! ### The exchange record (R236) -/

/-- The Almanac part of a record: the current block of every slot that is not empty (R164). -/
def State.almRecord (s : State) (c : Nat) : List (Nat × StatSum) :=
  if s.fld .almCtrl c 1 1 == 0 || s.reg .almBase c == 0 then []
  else ((List.range almSlots).map fun n => (n, currentOf (s.almSlot c n))).filter fun p => p.2 != StatSum.ofBytes []

/-- The part's own exchange record. -/
def State.ownRecord (s : State) (c : Nat) : ExRec :=
  let x := s.ctx c
  { epoch := s.epoch c, digest := s.digestValue c, nonfinite := x.nonfinite, poison := x.poison
    reductionMissing := x.reductionMissing, copyQuota := x.copyQuota, ckptReady := s.ckptReady c, alm := s.almRecord c }

/-- The block of slot n that the Equinox evaluates: summed over the records, or the part's own (R164). -/
def State.almSum (s : State) (c : Nat) (recs : List ExRec) (n : Nat) : StatSum :=
  if s.fld .almCtrl c 1 1 == 0 || recs.isEmpty then currentOf (s.almSlot c n)
  else (recs.flatMap fun r => (r.alm.filter fun p => p.1 == n).map fun p => p.2).foldl StatSum.add StatSum.zero

/-! ### DECIDE (R237) -/

/-- What DECIDE concludes: the cause bits of EQX_LAST, the event of its row, the ranks to fence. -/
structure Verdict where
  commit : Bool
  held : Bool
  cause : Nat
  event : Option Nat
  fence : List Nat
deriving DecidableEq, Repr

/-- The epoch that most records hold, the lower one at a tie. -/
def majorityEpoch (es : List Nat) : Nat :=
  es.foldl (fun b e =>
    let n := fun x => (es.filter fun y => y == x).length
    if n b < n e || (n b == n e && decide (e < b)) then e else b) (es.headD 0)

/-- The lowest rank whose item differs from that of the lowest rank (DESIGN CHOICE, log entry 59: R236 does not say from what
the lowest rank that differs does so). -/
def firstDiffers {α : Type} [DecidableEq α] (l : List (Nat × α)) : Option Nat :=
  let low := fun (l : List (Nat × α)) => l.foldl (fun (o : Option (Nat × α)) p =>
    match o with | some q => if p.1 < q.1 then some p else o | none => some p) none
  match low l with
  | none => none
  | some p => (low (l.filter fun q => q.2 != p.2)).map fun q => q.1

/-- The combined record (R236); `recs`: records by rank. -/
def combine (recs : List (Nat × ExRec)) : Combined :=
  let any := fun (f : ExRec → Bool) => recs.any fun p => f p.2
  { count := recs.length, epochRank := firstDiffers (recs.map fun p => (p.1, p.2.epoch))
    digestRank := firstDiffers (recs.map fun p => (p.1, p.2.digest)), nonfinite := any fun r => r.nonfinite
    poison := any fun r => r.poison, reductionMissing := any fun r => r.reductionMissing
    copyQuota := any fun r => r.copyQuota, ckptReady := recs.all fun p => p.2.ckptReady }

/-- The step flags as bits of EQX_LAST. -/
def Combined.flags (x : Combined) : Nat :=
  (if x.nonfinite then 2 else 0) + (if x.poison then 4 else 0) + (if x.reductionMissing then 8 else 0)
    + if x.copyQuota then 16 else 0

/-- The first row of R237 whose condition holds; `recs`: records by rank. -/
def State.verdict (s : State) (c : Nat) (recs : List (Nat × ExRec)) (lost : Bool) : Verdict :=
  let m := majorityEpoch (recs.map fun p => p.2.epoch.toNat)
  let x := combine recs
  if lost then ⟨false, true, 128, some 0x0402, []⟩
  else if x.epochRank.isSome then
    ⟨false, true, 64, some 0x0403, (recs.filter fun p => p.2.epoch.toNat != m).map fun p => p.1⟩
  else if x.digestRank.isSome then ⟨false, true, 32, some 0x0404, []⟩
  else if x.flags != 0 then
    ⟨false, decide (s.fld .eqxCtrl c 3 0 ≤ (s.ctx c).attempt + 1), x.flags, none, []⟩
  else ⟨true, false, 0, none, []⟩

/-! ### The end of an Equinox -/

/-- The EQX_BARRIER completes with a status (R234). -/
def State.endBarrier (s : State) (c st : Nat) : State :=
  match (s.ctx c).barrier with
  | none => s
  | some id =>
    let s := s.updCtx c fun x => { x with barrier := none, ckpt := false, records := [], roots := [], sealImage := none }
    (s.outcome id st 0 0).complete id

/-- The context goes to IDLE, or to HELD. -/
def State.leaveTo (s : State) (c : Nat) (held : Bool) (st : Nat) : State :=
  if held then (s.enterHeld c).endBarrier c st
  else ((s.updCtx c fun x => { x with phase := .idle }).leaveEqx c).endBarrier c st

/-- The Equinox pulse at the SEAL of sync_ctx (R241). -/
def State.syncPulse (s : State) (c : Nat) : State :=
  if s.fld .eqxSyncCfg 0 0 0 == 1 && s.fld .eqxSyncCfg 0 13 8 == c then
    { s with clk := { s.clk with syncEnd := some (s.now + 64) } }
  else s

/-- The step is rolled back: DECIDE fences, APPLY restores and applies, SEAL pulses and the next step begins (R193, R235,
R237, R238, R241). Staged stream changes are applied before pending transactions, of which one that writes CFG_STREAM_BASE
then drops them (DESIGN CHOICE, log entry 97). ALM_EPOCH shows EQX_EPOCH, which has not advanced (R166; DESIGN CHOICE, log
entry 101). -/
def State.rollbackEqx (s : State) (c : Nat) (v : Verdict) (recs : List ExRec) : State :=
  let s := (s.fenceRanks c v.fence).restorePages c
  let s := s.almEqx c (s.almSum c recs) false (s.epoch c).toNat
  let s := (s.applyStaged c).applyDue c
  let s := s.updCtx c fun x => { x.clearFlags with attempt := x.attempt + 1 }
  let s := (((s.collPurge c).rewind c).discardHeld c).syncPulse c
  let s := s.setReg .eqxLast c (BitVec.ofNat 64 (0x2000000 + v.cause))
  let s := (s.orReg .eqxFlags c 1).raise 0x0401 1 (some c) anchorDie []
  let s := match v.event with
    | some e => s.raise e 2 (some c) anchorDie []
    | none => s
  s.leaveTo c v.held (if v.held then St.held else St.rolledBack)

/-- The commit stands: step-start frames go, and the context leaves (R235). -/
def State.endCommit (s : State) (c : Nat) (held : Bool) : State :=
  (s.releasePrev c).leaveTo c held (if held then St.held else St.ok)

/-- The root over the digest range as it stands. -/
def State.digestRoot (s : State) (c : Nat) : W64 :=
  rootCrc (((s.pagesOf c).filter fun e => s.digestPage c e.1 && e.2.st == .hbm).map fun e =>
    (e.1, s.pageCrc (physFrame e.2.frame 0)))

/-- The step commits; a digest Equinox goes on to DIGEST with the root of its range as it stands (R238, R248, R261). A slot in
HOLD stays as it is, since R97 names no such change (R175; DESIGN CHOICE, log entry 106). -/
def State.commitEqx (s : State) (c : Nat) (recs : List ExRec) : State :=
  let s := s.commitPages c
  let e := s.epoch c + 1
  let s := s.updCtx c fun x => { x with before := (s.epoch c, s.reg .cfgRngStep c) }
  let s := (s.setReg .eqxEpoch c e).setRngStep c (s.reg .cfgRngStep c + 1)
  let s := s.almEqx c (s.almSum c recs) true (e.toNat % 2 ^ 32)
  let s := (s.applyStaged c).applyDue c
  let s := (s.updCtx c fun x => { x.clearFlags with attempt := 0 }).collPurge c
  let image := recs.all fun r => r.ckptReady
  let s := if image then s.takeImage c else s
  let s := s.syncPulse c
  let s := s.setReg .eqxLast c (BitVec.ofNat 64 (0x1000000 + if image then 65536 else 0))
  let n := s.fld .eqxCtrl c 15 8
  if n != 0 && e.toNat % n == 0 then s.updCtx c fun x => { x with phase := .digest, ownRoot := s.digestRoot c }
  else s.endCommit c false

/-- DECIDE, APPLY and SEAL: at once when the combined record is complete, or when the timeout expires; the records that are then
missing are late (R340). -/
def State.decideEqx (s : State) (c : Nat) (lost : Bool) : State :=
  let recs := (s.ctx c).records.filter fun p => !(s.ctx c).fence.contains p.1
  let v := s.verdict c recs lost
  let due := if lost then (s.unfenced c).filter fun r => s.ownRank c != some r && !(s.ctx c).tardy.contains r
      && !recs.any fun p => p.1 == r
    else []
  let s := s.updCtx c fun x => { x with
    records := [], combined := combine recs, lateRecs := x.lateRecs ++ due, tardy := [] }
  let rs := recs.map fun p => p.2
  if v.commit then s.commitEqx c rs else s.rollbackEqx c v (if lost then [] else rs)

/-- Every expected record is present (R299). -/
def State.recordsDone (s : State) (c : Nat) : Bool :=
  (s.unfenced c).all fun r => (s.ctx c).records.any fun p => p.1 == r

/-- DECIDE when the record is complete. -/
def State.tryEqx (s : State) (c : Nat) : State :=
  if (s.ctx c).phase == .exchange && s.recordsDone c then s.decideEqx c false else s

/-! ### The commands -/

/-- The group table's bytes lie on mapped pages (R232). -/
def State.groupMapped (s : State) (c : Nat) : Bool :=
  let a := (s.reg .eqxGroupBase c).toNat
  inUnified a (8 * s.members c) && s.allMapped c a (8 * s.members c)

/-- The checks of EQX_BARRIER (R232). -/
def State.barrierErr (s : State) (c : Nat) : Option Err :=
  firstErr [errIf (!s.groupMapped c) (Err.state St.unmapped), errIf (s.ownRank c).isNone (Err.state St.badField)]

/-- EQX_BARRIER opens an Equinox: the context enters DRAIN (R232, R234, R235). -/
def execEqxBarrier (h : Hdr) (ckpt : Bool) (s : State) : Out :=
  s.packet s.txnScopes h ⟨0x510, 0, .context, false⟩ fun id c s =>
    s.guarded id (s.barrierErr c) fun s =>
      (s.updFlight id fun f => { f with work := .barrier ckpt }).updCtx c fun x =>
        { x with phase := .drain, barrier := some id, ckpt := ckpt }

/-- The change that EQX_PROTECT stages. -/
def ProtectP.change (p : ProtectP) : ProtChange := ⟨p.unprotect, ⟨p.va.toNat / pageBytes, p.count.toNat, p.digest⟩⟩

/-- The checks of EQX_PROTECT (R199, R242, R243): an unprotection that would leave more than 1,024 ranges is refused as a
protection is (DESIGN CHOICE, log entry 98). -/
def State.protectErr (s : State) (c : Nat) (p : ProtectP) : Option Err :=
  let first := p.va.toNat / pageBytes
  let n := p.count.toNat
  let notHbm := (List.range n).any fun i => (s.page c (first + i)).st != .hbm
  let full := decide (1024 < (ProtChange.apply (s.ctx c).nextRanges (ProtectP.change p)).length)
  firstErr [s.chkPages c 5 p.va n, errIf (n == 0) (Err.word St.badField 7),
    errIf (full || (!p.unprotect && notHbm)) (Err.state St.badField)]

/-- EQX_PROTECT stages a protection change (R242, R243). -/
def execEqxProtect (h : Hdr) (p : ProtectP) (s : State) : Out :=
  s.packet s.txnScopes h ⟨0x511, 0, .context, false⟩ fun id c s =>
    s.guarded id (s.protectErr c p) fun s =>
      (s.updCtx c fun x => { x with stagedProt := x.stagedProt ++ [ProtectP.change p] }).finishNow id

/-- The context leaves HELD for the IDLE of a next step (R239). -/
def State.resumeStep (s : State) (c : Nat) : State :=
  let fs := (s.pagesOf c).flatMap fun e => e.2.stepStart.toList
  let s := (s.mapPages c fun x => { x with stepStart := none }).freeFrames c fs
  (s.updCtx c fun x => { x with phase := .idle, attempt := 0 }).leaveEqx c

/-- EQX_RESUME leaves HELD: the next step starts from what HELD leaves (R239). -/
def execEqxResume (h : Hdr) (s : State) : Out :=
  s.packet s.txnScopes h ⟨0x512, 0, .context, true⟩ fun id c s =>
    s.guarded id (errIf ((s.ctx c).phase != .held) (Err.state St.badField)) fun s => (s.resumeStep c).finishNow id

/-! ### The events -/

/-- The context's earlier commands and their fabric transactions are over (R235). -/
def State.drained (s : State) (c : Nat) : Bool :=
  ((s.ctxFlights c).all fun f => some f.id == (s.ctx c).barrier) && !(s.fab.txns.any fun t => t.ctx == c)

/-- DRAIN ends: the part builds its record and enters EXCHANGE (R235, R236, R337). -/
def execEqxDrainDone (ctx : BitVec 6) (s : State) : Out :=
  let c := ctx.toNat
  if (s.ctx c).phase != .drain || !s.drained c then .next s
  else
    let s := s.showDigest c
    let r := s.ownRecord c
    let rank := (s.ownRank c).getD 0
    let s := { s with out := { s.out with records := s.out.records ++ [(c, r)] } }
    let s := s.updCtx c fun x => { x with
      phase := .exchange, enteredAt := s.now, records := (x.records.filter fun p => p.1 != rank) ++ [(rank, r)] }
    .next (s.tryEqx c)

/-- The exchange timeout of a context (R240). -/
def State.eqxExpiry (s : State) (c : Nat) : Nat := (s.ctx c).enteredAt + 1000 * (s.reg .eqxTimeout c).toNat

/-- A member's record is combined; when all are there DECIDE, APPLY and SEAL run (R236 to R238). One that comes after the
expiry is discarded and counted (R340). -/
def State.joinRecord (s : State) (c r : Nat) (rec : ExRec) : State :=
  let x := s.ctx c
  if x.phase == .exchange && decide (s.eqxExpiry c < s.now) then
    (s.updCtx c fun x => { x with tardy := NatSet.ins r x.tardy }).lateDrop
  else
    let tie := x.phase == .exchange && s.now == s.eqxExpiry c
    let s := s.updCtx c fun x => { x with records := x.records ++ [(r, rec)] }
    let s := if tie && s.recordsDone c then s.lateClose else s
    s.tryEqx c

/-- A member's record arrives. Of a rank whose record EQX_TIMEOUT did not wait for, it is that record, discarded and counted
whenever it comes (R340), or the rank's first one since: a free choice (log entry 56). -/
def State.takeRecord (s : State) (c r : Nat) (rec : ExRec) : State :=
  let x := s.ctx c
  if !s.answers c || s.ownRank c == some r || !(s.unfenced c).contains r || x.records.any (fun p => p.1 == r) then s
  else if x.lateRecs.contains r then
    let f := s.nextFree
    let s := f.2.updCtx c fun x => { x with lateRecs := dropFirst (fun y => y == r) x.lateRecs }
    if Config.isLate f.1 then s.lateDrop else s.joinRecord c r rec
  else s.joinRecord c r rec

/-- The exchange timeout of a context is running out. -/
def State.eqxDue (s : State) (c : Nat) : Bool :=
  (s.ctx c).phase == .exchange && !s.boot.partFault && decide (s.eqxExpiry c ≤ s.now)

/-- The record is incomplete at the timeout (R237, R240). -/
def State.eqxExpired (s : State) (c : Nat) : State := if s.eqxDue c then s.decideEqx c true else s

/-- A row that brings a record for a context. -/
def isRecordOf (c : BitVec 6) : Instr → Bool
  | .eqxRecordReceive d _ _ => d == c
  | _ => false

/-- A member's record arrives (R236, R340). -/
def execEqxRecordReceive (ctx : BitVec 6) (rank : BitVec 16) (rec : ExRec) (s : State) : Out :=
  .next ((s.takeRecord ctx.toNat rank.toNat rec).untie (.eqxTimeout ctx) (isRecordOf ctx) fun s => s.eqxExpired ctx.toNat)

/-- EQX_TIMEOUT expires with the record incomplete (R237, R240); a record of the same cycle is combined first (R340). -/
def execEqxTimeout (ctx : BitVec 6) (s : State) : Out :=
  let c := ctx.toNat
  if s.eqxDue c then .next (s.expire (.eqxTimeout ctx) (s.eqxExpiry c) (isRecordOf ctx) fun s => s.eqxExpired c)
  else .next s

/-- The Equinox pulse ends after 64 timebase cycles (R241). -/
def execEqxSyncPulseEnd (s : State) : Out :=
  match s.clk.syncEnd with
  | none => .next s
  | some t => if s.now < t then .next s else .next { s with clk := { s.clk with syncEnd := none } }

/-! ### Digests (R261, R262) -/

/-- The commit is withdrawn (R262). -/
def State.withdraw (s : State) (c : Nat) : State :=
  let s := s.withdrawPages c
  let s := (s.setReg .eqxEpoch c (s.ctx c).before.1).setRngStep c (s.ctx c).before.2
  let s := match (s.ctx c).sealImage.bind s.image with
    | some m => s.releaseImage m
    | none => s
  let s := (((s.rewind c).discardHeld c).setReg .eqxLast c (BitVec.ofNat 64 (0x3000000 + 256))).orReg .eqxFlags c 1
  (s.raise 0x0401 1 (some c) anchorDie []).leaveTo c true St.held

/-- The roots of a replica set, by rank. -/
def State.setRoots (s : State) (c rs : Nat) : List (Nat × W64) :=
  (s.ctx c).roots.filter fun p => (s.member c p.1).1 == rs && !(s.ctx c).fence.contains p.1

/-- The root that a strict majority of a set of 3 or more holds. -/
def majorityRoot (ps : List (Nat × W64)) : Option W64 :=
  if ps.length < 3 then none
  else (ps.find? fun p => decide (ps.length < 2 * (ps.filter fun q => q.2 == p.2).length)).map fun p => p.2

/-- The digests are compared, and a mismatch acts as the policy gives (R262). -/
def State.decideDigest (s : State) (c : Nat) : State :=
  let sets := ((s.unfenced c).map fun r => (s.member c r).1).eraseDups
  let bad := sets.filter fun k => let ps := s.setRoots c k; ps.any fun p => ps.any fun q => p.2 != q.2
  if bad.isEmpty then s.endCommit c false
  else
    let policy := s.fld .eqxCtrl c 7 6
    let major := fun (k : Nat) => if policy == 2 then majorityRoot (s.setRoots c k) else none
    let losers := fun (k : Nat) => if (major k).isNone then []
      else ((s.setRoots c k).filter fun p => some p.2 != major k).map fun p => p.1
    let named := fun (k : Nat) => match losers k with
      | [] => [BitVec.ofNat 32 k]
      | r :: rs => [BitVec.ofNat 32 k, BitVec.ofNat 32 (rs.length + 1), BitVec.ofNat 32 (rs.foldl min r)]
    let t := bad.foldl (fun (t : State) k => t.raise 0x0409 2 (some c) anchorDie (named k)) s
    let t := (t.orReg .eqxFlags c 16).orReg .eqxLast c 256
    if policy == 0 then t.endCommit c true
    else if policy == 1 || bad.any fun k => (major k).isNone then t.withdraw c
    else
      let t := t.fenceRanks c (bad.flatMap losers)
      if t.ownFenced c then
        let t := match (t.ctx c).sealImage.bind t.image with
          | some m => t.releaseImage m
          | none => t
        t.endCommit c true
      else t.endCommit c false

/-- Every root is there. -/
def State.tryDigest (s : State) (c : Nat) : State :=
  if (s.ctx c).phase == .digest && (s.unfenced c).all fun r => (s.ctx c).roots.any fun p => p.1 == r then s.decideDigest c
  else s

/-- The own root is computed and sent (R261). -/
def execDigestComputeDone (ctx : BitVec 6) (s : State) : Out :=
  let c := ctx.toNat
  match s.ownRank c with
  | none => .next s
  | some r =>
    if (s.ctx c).phase != .digest || (s.ctx c).roots.any fun p => p.1 == r then .next s
    else
      let w := (s.ctx c).ownRoot
      let s := { s with out := { s.out with roots := s.out.roots ++ [(c, w)] } }
      .next ((s.updCtx c fun x => { x with roots := x.roots ++ [(r, w)] }).tryDigest c)

/-- A member's root arrives (R262). -/
def execDigestRootReceive (ctx : BitVec 6) (rank : BitVec 16) (root : W64) (s : State) : Out :=
  let c := ctx.toNat
  let r := rank.toNat
  let x := s.ctx c
  if !s.answers c || s.ownRank c == some r || !(s.unfenced c).contains r || x.phase == .held
      || x.roots.any (fun p => p.1 == r) then .next s
  else .next ((s.updCtx c fun x => { x with roots := x.roots ++ [(r, root)] }).tryDigest c)

end Sys2Proof.Machine
end

