-- ==== Sys2Proof/Machine/Mgmt.lean ====
section
/-! DEFINITION. Vexward's management interfaces (R385 to R389, R392, R393, R424): PLDM, SPDM, MCTP, the SGMII port and the
update of management firmware. -/

namespace Sys2Proof.Machine

open Sys2Proof

/-! ### Answering -/

/-- The IPv4 address of the SGMII port: a static one first (R388). -/
def State.address (s : State) : Option W32 := match s.hist.staticIp with
  | some a => some a
  | none => s.mgmt.ip

/-- Vexward answers on a binding: it runs, and the SGMII port has an address (R386, R388, R424). -/
def State.answersOn (s : State) (b : Binding) : Bool :=
  s.boot.aon && s.mgmt.running && (b != .sgmii || s.address.isSome)

/-- Send a response. -/
def State.mgmtRespond (s : State) (b : Binding) (bs : List Byte) : State :=
  { s with out := { s.out with mgmt := s.out.mgmt ++ [.response b bs] } }

/-- A request is answered, or lost while Vexward does not answer. -/
def State.answer (s : State) (b : Binding) (f : State → State) : Out :=
  if s.answersOn b then .next (f s) else .next s

/-- PLDM Type 0: discovery (R387); its answer reports fw_version (R412; DESIGN CHOICE, log entry 103). -/
def execPldmBaseRequest (binding : Binding) (s : State) : Out :=
  s.answer binding fun s => s.mgmtRespond binding (Config.baseBody s.boot.fwVersion)

/-- MCTP Set Endpoint ID: one EID serves all three bindings (R386). -/
def execMctpSetEndpointId (binding : Binding) (eid : BitVec 8) (s : State) : Out :=
  s.answer binding fun s => { s with mgmt := { s.mgmt with eid := eid } }.mgmtRespond binding (Config.mgmtBody 1)

/-! ### Sensors (R385, R387, R424) -/

/-- The sensors of the Trinaosh dies report from phase BRINGUP on, which a part in FAILED has reached once its boot ROM had
accepted an image (R413, R424). -/
def State.diesReport (s : State) : Bool :=
  match s.boot.phase with
  | .bringup | .ready => true
  | .failed => !s.boot.fwDigest.isEmpty
  | _ => false

/-- A numeric sensor of R387. -/
inductive Sensor where
  | thermal (n : Nat)
  | rail (r : Nat)
  | current (d : Nat)
  | power
deriving DecidableEq, Repr

/-- The supply rails, in the order of R419 (the number of a rail is the model's). -/
def supplyRails : Nat := 19

/-- The sensor of an ID (R387); none: the part has no such sensor. -/
def State.sensorOf (s : State) (id : Nat) : Option Sensor :=
  let n := id % 256
  if id / 256 == 1 && decide (n < 96) && (decide (88 ≤ n) || decide (n / 11 < s.dies)) then some (.thermal n)
  else if id / 256 == 2 && decide (n < supplyRails) && (decide (8 ≤ n) || decide (n < s.dies)) then some (.rail n)
  else if id / 256 == 3 && decide (n < s.dies) then some (.current n)
  else if id == 0x0400 then some .power
  else none

/-- The limit of a die's core current (R359), in A. -/
def coreLimit : Nat := 720

/-- A sensor reads: the last sample of a thermal sensor, in 0.25 °C (R385); other readings are what the monitors measure, a
free value. The core current is the one that R359 compares with its limit: beyond it while an emergency release is due. -/
def State.sensorReading (s : State) : Sensor → Option Nat × State
  | .thermal n =>
    if decide (n < 88) && !s.diesReport then (none, s) else (some (nth 0 s.temps n), s)
  | .current d =>
    let f := s.nextFree
    let v := Config.freeNat f.1
    if !s.diesReport then (none, s)
    else (some (if (s.govOf d).emergDue then coreLimit + 1 + v else v % (coreLimit + 1)), f.2)
  | .rail _ | .power => let f := s.nextFree; (some (Config.freeNat f.1), f.2)

/-- PLDM Type 2: read a numeric sensor or the boot phase, or register the event receiver (R387, R393, R415). -/
def execPldmMonitorRequest (binding : Binding) (req : MonReq) (s : State) : Out :=
  s.answer binding fun s =>
    match req with
    | .bootPhase => s.mgmtRespond binding [0, BitVec.ofNat 8 s.boot.phase.code]
    | .setReceiver eid => { s with mgmt := { s.mgmt with receiver := some eid } }.mgmtRespond binding (Config.mgmtBody 2)
    | .readSensor id =>
      match s.sensorOf id.toNat with
      | none => s.mgmtRespond binding (Config.mgmtBody 3)
      | some x =>
        let r := s.sensorReading x
        r.2.mgmtRespond binding (match r.1 with | some v => 0 :: leBytes 4 v | none => [1])

/-! ### Identification (R421) -/

/-- The SMBus slave address of the part: 0b1010 above the strap pins SMB_ADDR. -/
def State.smbusAddress (s : State) : BitVec 7 := 0b1010#4 ++ s.smbAddr

/-- The IDCODE of a variant. -/
def idcodeOf : Variant → W32
  | .m8 => 0x10801C5B | .m4 => 0x10401C5B | .m2 => 0x10201C5B

/-- The IDCODE that the debug port shifts out on TDO. A port that a Class C alarm of sensor 5 has disabled answers nothing, and
TDO is high-impedance, until PORST_N is low (R377, R422 case 4). -/
def State.jtagIdcode (s : State) : Option W32 := if s.sec.debugLocked then none else some (idcodeOf s.variant)

/-! ### Management firmware (R389) -/

/-- The firmware version and image of a bank. -/
def MgmtS.version (m : MgmtS) (b : Bool) : BitVec 16 := if b then m.versions.2 else m.versions.1
def MgmtS.image (m : MgmtS) (b : Bool) : List Byte := if b then m.images.2 else m.images.1

/-- Write an image into the bank that is not running. -/
def MgmtS.writeIdle (m : MgmtS) (v : BitVec 16) (img : List Byte) : MgmtS :=
  if m.bank then { m with versions := (v, m.versions.2), images := (img, m.images.2), verified := false }
  else { m with versions := (m.versions.1, v), images := (m.images.1, img), verified := false }

/-- A bank is abandoned: the event carries its version (R405). -/
def State.fwFail (s : State) (v : BitVec 16) : State := s.raise 0x0907 2 none anchorDie [v.setWidth 32]

/-- The idle bank's image verifies against the fused key hash (R377, R389). -/
def State.idleOk (s : State) (key sig : List Byte) : Bool :=
  sha384 key == Config.fusedKeyHash && ecdsaVerify key (sha384 (s.mgmt.image !s.mgmt.bank)) sig

/-- PLDM Type 5: write, verify or activate the idle bank (R389); the core restarts from it. -/
def execPldmFwUpdate (binding : Binding) (req : FwReq) (s : State) : Out :=
  s.answer binding fun s =>
    match req with
    | .write v img => { s with mgmt := s.mgmt.writeIdle v img }.mgmtRespond binding (Config.mgmtBody 4)
    | .verify key sig =>
      let ok := s.idleOk key sig
      let s := { s with mgmt := { s.mgmt with verified := ok } }.mgmtRespond binding (Config.mgmtBody (if ok then 5 else 6))
      if ok then s else s.fwFail (s.mgmt.version !s.mgmt.bank)
    | .activate =>
      if s.mgmt.verified then
        let s := s.mgmtRespond binding (Config.mgmtBody 7)
        { s with mgmt := { s.mgmt with
            bank := !s.mgmt.bank, verified := false, restart := some s.now, running := false } }
      else s.mgmtRespond binding (Config.mgmtBody 8)

def twoSeconds : Nat := 2000000000

/-- The core runs again: the events that the hardware held are delivered in their order (R389). -/
def State.coreRuns (s : State) : State :=
  let held := s.evt.held
  let s := { s with evt := { s.evt with held := [] }, mgmt := { s.mgmt with restart := none, running := true } }
  held.foldl (fun (s : State) r => s.deliver r.code r.sev r.ctx r.origin r.time r.detail) s

/-- The new bank starts within 2 s (R389). -/
def execMgmtFwBankStart (s : State) : Out :=
  match s.mgmt.restart with
  | none => .next s
  | some t =>
    if !s.boot.aon || (s.boot.running && decide (t + twoSeconds < s.now)) then .next s
    else
      let s := s.coreRuns
      .next (s.raise 0x0906 0 none anchorDie [(s.mgmt.version s.mgmt.bank).setWidth 32])

/-- A bank that does not start within 2 s is abandoned, and the core starts from the other (R389). -/
def execMgmtFwStartTimeout (s : State) : Out :=
  match s.mgmt.restart with
  | none => .next s
  | some t =>
    if !s.boot.aon || (s.boot.running && decide (s.now < t + twoSeconds)) then .next s
    else
      let v := s.mgmt.version s.mgmt.bank
      let s := { s with mgmt := { s.mgmt with bank := !s.mgmt.bank } }.coreRuns
      .next (s.fwFail v)

/-! ### PLDM Type 63 and SPDM (R361, R387) -/

/-- The words of the platform power descriptor (R361): word 4 is the largest ramp limit in force. -/
def State.powerWords (s : State) : List Nat :=
  let ramp := ((List.range s.dies).map fun d => s.fld .govCtrl d 7 0).foldl max 0
  let v : Nat × Nat := match s.variant with
    | .m8 => (4000, 4500) | .m4 => (2050, 2260) | .m2 => (1050, 1140)
  [v.1, 650, v.2, 560, ramp, 250, 720, 1600, 20, 1000]

/-- What a PLDM Type 63 request reads. -/
def State.oemBody (s : State) : OemReq → List Byte
  | .capTable => wordsToBytes s.capTable
  | .powerDescriptor => wordsToBytes (s.powerWords.map fun n => BitVec.ofNat 32 n)
  | .eventLog => s.evt.log.flatMap fun r => r.bytes
  | .vigilRecords => s.vigil.record

/-- PLDM Type 63: the capability table, the power descriptor, the event log, Vigil's records (R387). -/
def execPldmOemRequest (binding : Binding) (req : OemReq) (s : State) : Out :=
  s.answer binding fun s => s.mgmtRespond binding (s.oemBody req)

/-- What an SPDM request returns: the certificate chain carries the device identity public key, measurement 1 is the digest of the runtime firmware, 2 that of the management firmware
that runs (R387). -/
def State.spdmBody (s : State) : SpdmReq → List Byte
  | .getCertificate => Config.certHead ++ deviceKey ++ Config.certTail
  | .challenge => Config.challengeBody deviceKey s.freeCount
  | .getMeasurements i =>
    if i == 1 then s.boot.fwDigest
    else if i == 2 then sha384 (s.mgmt.image s.mgmt.bank)
    else Config.mgmtBody (256 + i.toNat)

/-- SPDM under the device identity key (R387). -/
def execSpdmRequest (binding : Binding) (req : SpdmReq) (s : State) : Out :=
  s.answer binding fun s =>
    (match req with | .challenge => s.nextFree.2 | _ => s).mgmtRespond binding (s.spdmBody req)

/-! ### The SGMII port (R388) -/

/-- ARP and ICMP echo are answered once the port has an address; datagrams to other ports than 7171 are discarded, and so
is any other protocol (R388). MCTP datagrams have their own rows. -/
def execArpIcmpEchoRequest (frame : NetFrame) (s : State) : Out :=
  s.answer .sgmii fun s =>
    let send := fun (bs : List Byte) => { s with out := { s.out with mgmt := s.out.mgmt ++ [.network bs] } }
    match frame with
    | .arp => send (Config.mgmtBody 32)
    | .icmpEcho => send (Config.mgmtBody 33)
    | .udp _ => s
    | .other => s

/-- The port takes its address by DHCP, unless the history store holds a static one (R388). -/
def execDhcpAddressAssign (address : W32) (s : State) : Out :=
  if s.boot.aon && s.mgmt.running && s.hist.staticIp.isNone then
    .next { s with mgmt := { s.mgmt with ip := some address } }
  else .next s

/-! ### The event ring's message (R392) -/

/-- A coalesced MSI-X message goes out 10 µs after the last (R392). -/
def execEvtMsixCoalesce (s : State) : Out :=
  let ripe := match s.evt.msixLast with
    | some t => decide (t + 10000 ≤ s.now)
    | none => true
  if s.evt.msixDue && ripe then .next s.evtMsix else .next s

end Sys2Proof.Machine
end

