-- ==== Sys2Proof/Machine/Quant.lean ====
section
/-! DEFINITION. The quantisers (R144 to R159, R169 to R172): conversion, scales, statistics, block codes, outlier lists
and scale registers. -/

namespace Sys2Proof.Machine

open Sys2Proof

/-! ### Scales (R148, R149) -/

def State.scaleReg (s : State) (u i : Nat) : W32 := Map.get (fun _ => 0) s.scales (32768 * u + i)
def State.setScaleReg (s : State) (u i : Nat) (v : W32) : State :=
  { s with scales := Map.set (fun _ => 0) s.scales (32768 * u + i) v }

/-- The scale of a channel whose largest magnitude is m (R148). -/
def chooseScale (m : Mag) (q : Nat) : F32 :=
  if m.isZero then 0x3F800000
  else
    let b := BitVec.ofNat 32 (fp32.write (.fin false (m.div (Mag.ofNat q))) .up).pat
    if scaleOk b then b else 0x00800000

/-! ### Elements -/

/-- A source element: its value, its value with subnormals flushed (R46), its pattern, and whether it lay in a poisoned
line. -/
structure QElem where
  x : Fv
  xf : Fv
  raw : Nat
  bad : Bool
deriving DecidableEq, Repr

def QElem.none : QElem := ⟨.fin false ⟨0, 1⟩, .fin false ⟨0, 1⟩, 0, false⟩

/-- A decoded value beyond the largest finite FP32 value counts as infinite (R154). -/
def capInf (v : Fv) : Fv :=
  match v with
  | .fin n m => if Mag.lt (Mag.mul ⟨16777215, 1⟩ (pow2 104)) m then .inf n else v
  | _ => v

/-- Bytes of a source row of n elements. -/
def srcBytes (f : Fmt) (n : Nat) : Nat := f.ebits * n / 8

/-- One source row (R49, R53): the scale bytes of an MX row lie row by row, one per 32 elements. -/
def State.srcRow (s : State) (c : Nat) (f : Fmt) (a n mx : Nat) : List QElem :=
  let bs := s.rdVa c a (srcBytes f n)
  let w := f.ebits
  (List.range n).map fun i =>
    let raw := if f.isMx then streamGet bs w i else fieldLe bs (i * w / 8) (w / 8)
    let lo := i * w / 8
    let hi := (i * w + w - 1) / 8
    let sc := mx + i / 32
    let x := if f.isMx then capInf (f.mxValue raw (ofLeBytes (s.rdVa c sc 1))) else f.value raw
    ⟨x, f.flush x, raw, s.vaPoisoned c (a + lo) || s.vaPoisoned c (a + hi) || (f.isMx && s.vaPoisoned c sc)⟩

/-! ### The command's shape -/

def ConvertP.axis (p : ConvertP) : Bool := csiAxis p.typeOut.toNat
def ConvertP.signed (p : ConvertP) : Bool := csiSigned p.typeOut.toNat
def ConvertP.w (p : ConvertP) : Nat := csiWidth p.typeOut.toNat
def ConvertP.fmt (p : ConvertP) : Fmt := (typeFmt p.typeIn).getD .bf16
/-- Channels, and the extent along the unscaled axis (R40, R147). -/
def ConvertP.chans (p : ConvertP) : Nat := if csiAxis p.typeOut.toNat then p.n1.toNat else p.n0.toNat
def ConvertP.extent (p : ConvertP) : Nat := if csiAxis p.typeOut.toNat then p.n0.toNat else p.n1.toNat
def ConvertP.elemBytes (p : ConvertP) : Nat := max 1 (((typeFmt p.typeIn).getD .bf16).ebits / 8)
def ConvertP.blocks (p : ConvertP) : Nat := ceilDiv (if csiAxis p.typeOut.toNat then p.n0.toNat else p.n1.toNat) 32

def ConvertP.srcRows (p : ConvertP) : List (Nat × Nat) :=
  (List.range p.n0.toNat).map fun r =>
    (p.srcAddr.toNat + r * p.srcStride.toNat, srcBytes ((typeFmt p.typeIn).getD .bf16) p.n1.toNat)
def ConvertP.dstRows (p : ConvertP) : List (Nat × Nat) :=
  (List.range p.n0.toNat).map fun r =>
    (p.dstAddr.toNat + r * p.dstStride.toNat, packedBytes (csiWidth p.typeOut.toNat) p.n1.toNat)

/-- A command of the quantiser with its parameters as functions of Syntax.lean's structures. -/
structure Conv where
  p : ConvertP
  fmt : Fmt
  w : Nat
  signed : Bool
  axis : Bool
  chans : Nat
  extent : Nat
deriving DecidableEq, Repr

def Conv.of (p : ConvertP) : Conv :=
  ⟨p, ConvertP.fmt p, ConvertP.w p, ConvertP.signed p, ConvertP.axis p, ConvertP.chans p, ConvertP.extent p⟩

/-- The channel and the place along the unscaled axis of an element. -/
def Conv.place (v : Conv) (r j : Nat) : Nat × Nat := if v.axis then (j, r) else (r, j)

/-- The element of channel ch at place k. -/
def Conv.elem (v : Conv) (rows : List (List QElem)) (ch k : Nat) : QElem :=
  if v.axis then nth QElem.none (nth [] rows k) ch else nth QElem.none (nth [] rows ch) k

/-- The index k is extracted (R156). -/
def Conv.extracted (v : Conv) (lst : List Nat) (k : Nat) : Bool := v.p.outMode == 1 && lst.contains k

/-- The magnitude of a finite value. -/
def finMag : Fv → Mag
  | .fin _ m => m
  | _ => ⟨0, 1⟩

/-- The largest magnitude of a channel (R148). -/
def Conv.maxAbs (v : Conv) (rows : List (List QElem)) (lst : List Nat) (ch : Nat) : Mag :=
  (List.range v.extent).foldl (fun m k =>
    let x := finMag (v.elem rows ch k).xf
    if !v.extracted lst k && m.lt x then x else m) ⟨0, 1⟩

/-! ### Pass two (R150 to R154) -/

/-- What the conversion of one element gives: its code, whether it saturated, t and the error terms of R151. -/
structure QCode where
  code : Int
  sat : Bool
  err : Nat
  sig : Nat
deriving DecidableEq, Repr

def QCode.none : QCode := ⟨0, false, 0, 0⟩

/-- t of R151. -/
def clampT (x : Fv) (scale : F32) : F32 :=
  let t := rne32 (Fv.div x (fval scale))
  let lim := Mag.ofNat 32768
  match fval t with
  | .fin n m => if lim.lt m then rne32 (.fin n lim) else t
  | .inf n => rne32 (.fin n lim)
  | .nan => t

/-- floor(rne32(v · v) · 2^16). -/
def sqTerm (v : F32) : Nat := (Mag.mul (finMag (fval (fmul v v))) (Mag.ofNat 65536)).floor

/-- Convert one element with its scale and draw (R150, R151). -/
def quantise (signed : Bool) (w : Nat) (x : Fv) (scale : F32) (rnd : Rnd) : QCode :=
  if !x.isFin then QCode.none
  else
    let lims := clampRange signed w
    let neg := !signed && x.neg? && !x.isZero
    let n := roundInt (Fv.div x (fval scale)) rnd
    let code := if neg then 0 else clampInt lims.1 lims.2 n
    let t := clampT x scale
    let r := rne32 (Fv.add (fval t) (Fv.ofInt code).negate)
    ⟨code, neg || code != n, sqTerm r, sqTerm t⟩

/-- The codes of the region, row by row; `scales` by channel. -/
def State.convCodes (s : State) (c : Nat) (v : Conv) (rows : List (List QElem)) (lst : List Nat) (scales : List F32) :
    List (List QCode) :=
  (List.range v.p.n0.toNat).map fun r => (List.range v.p.n1.toNat).map fun j =>
    let at_ := v.place r j
    if v.extracted lst at_.2 then QCode.none
    else
      let e := (v.p.elemBase.toNat + r * v.p.ldElems.toNat + j) % 2 ^ 64
      let rnd : Rnd := if typeRnd v.p.typeOut == 1 then .stoch (s.drawOf c v.p.rndStream e 0) else .rne
      quantise v.signed v.w (nth QElem.none (nth [] rows r) j).xf (nth 0x3F800000 scales at_.1) rnd

/-- The code of channel ch at place k. -/
def Conv.codeAt (v : Conv) (codes : List (List QCode)) (ch k : Nat) : QCode :=
  if v.axis then nth QCode.none (nth [] codes k) ch else nth QCode.none (nth [] codes ch) k

/-- The block code of block b of channel ch (R153), judged over the elements that `takes` admits. -/
def Conv.blockCode (v : Conv) (rows : List (List QElem)) (codes : List (List QCode)) (lst : List Nat)
    (takes : QElem → Bool) (ch b : Nat) : Nat :=
  let el := fun k => v.elem rows ch k
  let ks := ((List.range (min 32 (v.extent - 32 * b))).map (· + 32 * b)).filter fun k =>
    !v.extracted lst k && takes (el k)
  let co := fun k => v.codeAt codes ch k
  if ks.isEmpty then 0
  else if ks.any fun k => !(el k).x.isFin then 3
  else if ks.all fun k => (co k).sat then 2
  else if (ks.all fun k => (co k).code == 0) && ks.any fun k => !(el k).x.isZero then 1
  else 0

/-- One more value in bin b of a histogram. -/
def bumpBin (h : List Nat) (b : Nat) : List Nat := setNth h b (nth 0 h b + 1)

/-- The statistics of the elements (R151, R152); an element of a poisoned line is left out (R229). A NaN or an infinity, which
receives code 0 unclamped, counts as nonfinite and not as zeroed too (DESIGN CHOICE, log entry 105). -/
def Conv.sums (v : Conv) (rows : List (List QElem)) (codes : List (List QCode)) (lst : List Nat) : StatSum :=
  (List.range v.chans).foldl (fun (t : StatSum) ch => (List.range v.extent).foldl (fun (t : StatSum) k =>
    let e := v.elem rows ch k
    let q := v.codeAt codes ch k
    let zero := !e.x.isZero && q.code == 0 && !q.sat
    if e.bad then t
    else
      let t := { t with hist := bumpBin t.hist (histBin e.x) }
      if !e.x.isFin then { t with nonfinite := t.nonfinite + 1 }
      else if v.extracted lst k then t
      else
        { t with elements := t.elements + 1, sat := t.sat + (if q.sat then 1 else 0)
                 zeroed := t.zeroed + (if zero then 1 else 0), errSum := t.errSum + q.err, sigSum := t.sigSum + q.sig })
    t) { StatSum.zero with hist := List.replicate 64 0 }

/-! ### What the command writes -/

/-- Channels with an element in a poisoned line (R229). -/
def Conv.badChan (v : Conv) (rows : List (List QElem)) (ch : Nat) : Bool :=
  (List.range v.extent).any fun k => (v.elem rows ch k).bad

/-- The packed streams (R150). -/
def State.writeCodes (s : State) (id c : Nat) (v : Conv) (bad : Nat → Bool) (codes : List (List QCode)) : State :=
  (List.range v.p.n0.toNat).foldl (fun (s : State) r =>
    let bs := streamPack v.w (padCodes ((nth [] codes r).map fun q => q.code))
    s.storeMarked id c (v.p.dstAddr.toNat + r * v.p.dstStride.toNat) bs fun i =>
      if v.axis then (List.range v.chans).any fun ch => bad ch && decide (ch * v.w < 8 * i + 8) && decide (8 * i < ch * v.w + v.w)
      else bad r) s

/-- A side value in BF16: a BF16 source is copied exactly, and an FP16 subnormal is written as the source holds it, not
flushed (R46, R156; DESIGN CHOICE, log entry 105). -/
def Conv.sideVal (v : Conv) (e : QElem) : Wrote := if v.fmt == .bf16 then ⟨e.raw, false, !e.x.isFin⟩ else toBf16 e.x

/-- The side tensor (R156, R157). -/
def State.writeSide (s : State) (id c : Nat) (v : Conv) (bad : Nat → Bool) (rows : List (List QElem)) (lst : List Nat) :
    State :=
  let st := v.p.sideStride.toNat
  let a := v.p.sideAddr.toNat
  let val := fun ch k => leBytes 2 (v.sideVal (v.elem rows ch k)).pat
  if v.p.outMode == 1 then
    (List.range v.chans).foldl (fun (s : State) ch =>
      s.storeMarked id c (a + ch * st) (lst.flatMap fun k => val ch k) fun _ => bad ch) s
  else if v.p.outMode == 2 then
    (List.range lst.length).foldl (fun (s : State) j =>
      s.storeMarked id c (a + j * st) ((List.range v.chans).flatMap fun ch => val ch (nth 0 lst j)) fun i => bad (i / 2)) s
  else s

/-- The colmax vector by atomic maximum, stores that still wait included (R158). A BF16 or FP16 subnormal enters it as zero
(R46; DESIGN CHOICE, log entry 107). -/
def State.writeColmax (s : State) (id c : Nat) (v : Conv) (rows : List (List QElem)) : State :=
  if !v.p.colmaxEn then s
  else (List.range v.extent).foldl (fun (s : State) k =>
    let fins := (List.range v.chans).filter fun ch => (v.elem rows ch k).xf.isFin
    let m := fins.foldl (fun m ch => let x := finMag (v.elem rows ch k).xf; if m.lt x then x else m) (⟨0, 1⟩ : Mag)
    let new := (rne32 (.fin false m)).toNat
    let a := v.p.colmaxAddr.toNat + 4 * k
    let old := ofLeBytes (s.rdPending c a 4)
    if fins.isEmpty || decide (new ≤ old) then s else s.store id c a (leBytes 4 new) false) s

/-- The block-code map (R153). -/
def State.writeBlocks (s : State) (id c : Nat) (v : Conv) (code : Nat → Nat → Nat) : State :=
  let nb := ceilDiv v.extent 32
  let words := ceilDiv nb 16
  if v.p.blkAddr == 0 then s
  else (List.range v.chans).foldl (fun (s : State) ch =>
    s.store id c (v.p.blkAddr.toNat + 4 * ch * words) ((List.range words).flatMap fun i =>
      leBytes 4 ((List.range 16).map fun j => if 16 * i + j < nb then code ch (16 * i + j) * 4 ^ j else 0).sum) false) s

/-! ### Granules (R146) -/

/-- Free granules of the outlier partition. -/
def State.freeOutl (s : State) (k : Nat) : List Nat :=
  let ends := s.partEnds k
  (List.range ends.2.2).filter fun g => decide (ends.2.1 ≤ g) && !(s.clusS k).outl.contains g

/-- Granules of the quantiser partition in ascending order. -/
def State.qntGranules (s : State) (k n : Nat) : List Nat := (List.range n).map (· + (s.partEnds k).1)

/-- `n` bytes in granules of a cluster, one granule after another, take values that the manual does not give: a
quantiser keeps there what it holds, in a layout of its own (R146, R200; log entry 85). -/
def State.fillGranules (s : State) (k : Nat) (gs : List Nat) (n : Nat) : State :=
  gs.zipIdx.foldl (fun (s : State) g =>
    s.freeRun (physSram (granuleOff k g.1)) (min granuleBytes (n - granuleBytes * g.2))) s

/-- A conversion takes its granules: those of the largest batch of its source, which then holds source bytes, and one
outlier granule, which buffers its side values (R146). `side`: bytes of the side tensor. A channel of an MX source counts
by its element bytes alone, its block scales not (DESIGN CHOICE, log entry 95). -/
def State.takeQnt (s : State) (u id : Nat) (v : Conv) (side : Nat) : State :=
  let room := s.fld .splStageQuota u 15 8 * granuleBytes
  let per := ceilDiv (v.extent * v.fmt.ebits) 8
  let bytes := if v.p.scaleSrc == 0 && decide (per ≤ room) && per != 0 then min v.chans (room / per) * per else 0
  let n := ceilDiv bytes granuleBytes
  let gs := pickGranules n s.freeCount (s.qntGranules u (room / granuleBytes))
  let os := if v.p.outMode == 0 then [] else pickGranules 1 (s.freeCount + n) (s.freeOutl u)
  let x := s.clusS u
  let s := { s with freeCount := s.freeCount + n + os.length }.setClusS u
    { x with qnt := gs.foldl (fun l g => NatSet.ins g l) [], qntHeld := if gs.isEmpty then [] else [(id, gs)]
             outl := os.foldl (fun l g => NatSet.ins g l) x.outl
             outlHeld := if os.isEmpty then x.outlHeld else x.outlHeld ++ [(id, os)] }
  (s.fillGranules u gs bytes).fillGranules u os (min granuleBytes side)

/-! ### QNT_CONVERT (R169, R170) -/

/-- Indices that an outlier list may hold (R155). -/
def Conv.listMax (v : Conv) : Nat := v.extent / 64

/-- The outlier list: none when it breaks R155. -/
def State.readList (s : State) (c : Nat) (v : Conv) : Option (List Nat) :=
  if v.p.outMode == 0 then some []
  else
    let a := v.p.listAddr.toNat
    let n := (s.rd32 c a).toNat
    if v.listMax < n then none
    else
      let l := (List.range n).map fun i => (s.rd32 c (a + 4 + 4 * i)).toNat
      if (l.zip (l.drop 1)).all (fun q => decide (q.1 < q.2)) && l.all fun k => decide (k < v.extent) then some l else none

/-- The ranges of the side tensor for n listed indices. -/
def Conv.sideRows (v : Conv) (n : Nat) : List (Nat × Nat) :=
  let a := v.p.sideAddr.toNat
  let st := v.p.sideStride.toNat
  if n == 0 then []
  else if v.p.outMode == 1 then (List.range v.chans).map fun ch => (a + ch * st, 2 * n)
  else if v.p.outMode == 2 then (List.range n).map fun j => (a + j * st, 2 * v.chans)
  else []

/-- The scales that the command starts with: none for scale_src 0 (R149). -/
def State.givenScales (s : State) (c u : Nat) (v : Conv) : Option (List F32) :=
  if v.p.scaleSrc == 1 then some ((List.range v.chans).map fun i => s.scaleReg u (v.p.scaleRegBase.toNat + i))
  else if v.p.scaleSrc == 2 then some ((List.range v.chans).map fun i => s.rd32 c (v.p.scaleAddr.toNat + 4 * i))
  else none

/-- What a conversion has found when it ends: events, flags and counters (R146, R151 to R154, R394, R395). -/
def State.convNotes (s : State) (id c u : Nat) (v : Conv) (t : StatSum) (nonfinite sideNf : Bool) : State :=
  let d := u / 16
  let n := v.p.n0.toNat * v.p.n1.toNat
  let det := fun (k : Nat) => [BitVec.ofNat 32 u, BitVec.ofNat 32 v.p.almSlot.toNat, BitVec.ofNat 32 k]
  let s := ((s.bump .qntCntElems u n).deep d Dc.qntElems (v.p.typeIn.toNat % 256) c n).bump .vwmLcSat d t.sat
  let per := ceilDiv (v.extent * v.fmt.ebits) 8
  let s := if v.p.scaleSrc == 0 && decide (s.fld .splStageQuota u 15 8 * 65536 < per) then
    s.bump .qntCntReread u v.chans else s
  let s := if nonfinite || sideNf then s.updCtx c fun x => { x with nonfinite := true } else s
  let s := if nonfinite then (s.orReg .qntErr u 8).raise 0x0203 2 (some c) d [] else s
  let s := if t.blocksZero != 0 then (s.orReg .qntErr u 2).raise 0x0201 0 (some c) d (det t.blocksZero) else s
  let s := if t.blocksSat != 0 then (s.orReg .qntErr u 4).raise 0x0202 1 (some c) d (det t.blocksSat) else s
  if v.p.statsEn then s.updFlight id fun f => { f with stats := [⟨v.p.almSlot.toNat, t⟩] } else s

/-- The scale vector that a conversion reads. -/
def Conv.scaleRange (v : Conv) : List (Nat × Nat) := if v.p.scaleSrc == 2 then [(v.p.scaleAddr.toNat, 4 * v.chans)] else []

/-- What a conversion reads besides its list: source, MX scales, scale vector, colmax vector. -/
def Conv.reads (v : Conv) : List (Nat × Nat) :=
  ConvertP.srcRows v.p
  ++ (if v.fmt.isMx then [(v.p.mxScaleAddr.toNat, v.p.n0.toNat * (v.p.n1.toNat / 32))] else [])
  ++ v.scaleRange ++ if v.p.colmaxEn then [(v.p.colmaxAddr.toNat, 4 * v.extent)] else []

/-- The outlier list of n indices. -/
def Conv.listRange (v : Conv) (n : Nat) : List (Nat × Nat) :=
  if v.p.outMode == 0 then [] else [(v.p.listAddr.toNat, 4 + 4 * n)]

/-- The outputs of a conversion that has read its source, with its list and scales in hand. -/
def State.convert (s : State) (id c u : Nat) (v : Conv) (lst : List Nat) (given : Option (List F32)) : State :=
  let n1 := v.p.n1.toNat
  let rows := (List.range v.p.n0.toNat).map fun r =>
    s.srcRow c v.fmt (v.p.srcAddr.toNat + r * v.p.srcStride.toNat) n1 (v.p.mxScaleAddr.toNat + r * (n1 / 32))
  let scales := match given with
    | some l => l
    | none => (List.range v.chans).map fun ch => chooseScale (v.maxAbs rows lst ch) (qmax v.signed v.w)
  let scaleBad := fun ch => v.p.scaleSrc == 2 && s.vaPoisoned c (v.p.scaleAddr.toNat + 4 * ch)
  let bad := fun ch => v.badChan rows ch || scaleBad ch
  let codes := s.convCodes c v rows lst scales
  let block := v.blockCode rows codes lst fun _ => true
  -- the statistics leave elements of poisoned lines out (R229)
  let all := (List.range v.chans).flatMap fun ch => (List.range (ceilDiv v.extent 32)).map fun b =>
    v.blockCode rows codes lst (fun e => !e.bad) ch b
  let t := { v.sums rows codes lst with
    blocksZero := all.count 1, blocksSat := all.count 2, blocksNonfinite := all.count 3 }
  let s := s.writeCodes id c v bad codes
  let s := if v.p.scaleSrc == 0 then
      s.storeMarked id c v.p.scaleAddr.toNat (scales.flatMap fun x => leBytes 4 x.toNat) fun i => bad (i / 4)
    else s
  let s := if v.p.scaleSrc == 0 && v.p.capture then
      (List.range v.chans).foldl (fun (s : State) i => s.setScaleReg u (v.p.scaleRegBase.toNat + i) (nth 0 scales i)) s
    else s
  let s := ((s.writeSide id c v bad rows lst).writeColmax id c v rows).writeBlocks id c v block
  let nonfinite := rows.any fun r => r.any fun e => !e.x.isFin
  let sideNf := v.p.outMode != 0 && (List.range v.chans).any fun ch =>
    lst.any fun k => (v.sideVal (v.elem rows ch k)).nonfinite
  s.convNotes id c u v t nonfinite sideNf

/-- The scales that a conversion takes are not all allowed (R149). -/
def State.badScales (s : State) (c u : Nat) (v : Conv) : Bool :=
  ((s.givenScales c u v).getD []).any fun x => !scaleOk x

/-- A conversion with its list in hand: it reads its source, and unless a read has ended it, takes its granules and
converts (R203). -/
def State.runList (s : State) (id c u : Nat) (v : Conv) (lst : List Nat) : State :=
  let n := lst.length
  let side := v.sideRows n
  match firstErr ((v.listRange n).map (s.chkNamed c false) ++ side.map (s.chkNamed c true)) with
  | some e => s.qntFail u id e
  | none =>
    let given := s.givenScales c u v
    let s := s.loadAll id c (v.listRange n ++ v.reads)
    if s.faulted id then s.qntEnd u id
    else ((s.takeQnt u id v ((side.map fun r => r.2).sum)).convert id c u v lst given).qntEnd u id

/-- The indices of its list that a conversion reads: none where their number breaks R155. -/
def State.listCount (s : State) (c : Nat) (v : Conv) : Nat :=
  let n := (s.rd32 c v.p.listAddr.toNat).toNat
  if v.listMax < n then 0 else n

/-- A conversion at the front of its quantiser: it waits for an outlier granule, ends with a fault, or runs. It judges
scales and list once it has read them, each read checked when it is made (R146, R149, R155, R170, R203). -/
def State.runConvert (s : State) (id c u : Nat) (p : ConvertP) : State :=
  let v := Conv.of p
  if p.outMode != 0 && s.fld .splStageQuota u 23 16 == 0 then s.qntFail u id (Err.state St.spillQuota)
  else if p.outMode != 0 && (s.freeOutl u).isEmpty then s
  else
    let s := s.loadAll id c v.scaleRange
    if s.faulted id then s.qntEnd u id
    else if s.badScales c u v then s.qntRefuse u id (Err.state St.badScale)
    else
      let s := s.loadAll id c (v.listRange 0 ++ v.listRange (s.listCount c v))
      if s.faulted id then s.qntEnd u id
      else match s.readList c v with
      | none => s.qntRefuse u id (Err.state St.badField)
      | some lst => s.runList id c u v lst

/-! ### QNT_SCALE_LOAD (R171) -/

def State.runScaleLoad (s : State) (id c u : Nat) (p : ScaleLoadP) : State :=
  let n := p.count.toNat
  let b := p.regBase.toNat
  let a := p.addr.toNat
  if p.store then
    (s.store id c a (wordsToBytes ((List.range n).map fun i => s.scaleReg u (b + i))) false).qntEnd u id
  else
    let x := s.load id c a (4 * n)
    if x.2.2.faulted id then x.2.2.qntEnd u id
    else
      ((List.range n).foldl (fun (s : State) i =>
        s.setScaleReg u (b + i) (BitVec.ofNat 32 (w32At x.1 i))) x.2.2).finishLater id

/-! ### QNT_OUTLIER_SELECT (R159, R172) -/

/-- Insert in ascending order. -/
def insAsc (x : Int) : List Int → List Int
  | [] => [x]
  | y :: t => if x ≤ y then x :: y :: t else y :: insAsc x t

/-- Insert a candidate by falling colmax, ties to the lower index (a later one comes behind its equals). -/
def insCand (x : Nat × Nat) : List (Nat × Nat) → List (Nat × Nat)
  | [] => [x]
  | y :: t => if y.2 < x.2 then x :: y :: t else y :: insCand x t

/-- E_k; none for an entry outside nz. -/
def colExp (w : W32) : Option Int :=
  match fval w with
  | .nan => none
  | .inf n => if n then none else some 128
  | .fin n m => if n || m.isZero then none else some m.log2

/-- The candidates of R159 as (index, pattern). -/
def candidates (ws : List W32) (gap : Nat) : List (Nat × Nat) :=
  let es := ws.filterMap colExp
  let sorted := es.foldl (fun l e => insAsc e l) []
  let med := nth 0 sorted ((es.length - 1) / 2)
  ((List.range ws.length).zip ws).filterMap fun q =>
    match colExp q.2 with
    | some e => if med + gap ≤ e then some (q.1, q.2.toNat) else none
    | none => none

/-- The list of R159, ascending. -/
def outlierList (cand : List (Nat × Nat)) (cap : Nat) : List Nat :=
  ((cand.foldl (fun l q => insCand q l) []).take cap).foldl (fun l q => NatSet.ins q.1 l) []

def OutlierP.cap_ (p : OutlierP) : Nat := min p.cap.toNat (p.length.toNat / 64)

/-- The list of a selection is written and its events are raised (R159). -/
def State.putOutlier (s : State) (id c u : Nat) (p : OutlierP) (ws : List W32) : State :=
  let cand := candidates ws p.gap.toNat
  let cap := OutlierP.cap_ p
  let lst := outlierList cand cap
  let s := s.store id c p.listAddr.toNat (leBytes 4 lst.length ++ lst.flatMap fun k => leBytes 4 k) false
  let s := if cap < cand.length then (s.orReg .qntErr u 16).raise 0x0204 0 (some c) (u / 16) [] else s
  if p.statsEn then
    s.updFlight id fun f => { f with stats := [⟨p.almSlot.toNat, { StatSum.zero with outlierCand := cand.length }⟩] }
  else s

def State.runOutlier (s : State) (id c u : Nat) (p : OutlierP) : State :=
  let n := p.length.toNat
  let x := s.load id c p.colmaxAddr.toNat (4 * n)
  if x.2.2.faulted id then x.2.2.qntEnd u id
  else (x.2.2.putOutlier id c u p ((List.range n).map fun i => BitVec.ofNat 32 (w32At x.1 i))).qntEnd u id

/-! ### The window (R144) -/

/-- Execute a command of the quantiser. -/
def State.runQnt (s : State) (u : Nat) (f : Flight) : State :=
  match f.cmd with
  | some (.qntConvert _ p) => s.runConvert f.id f.ctx u p
  | some (.qntScaleLoad _ p) => s.runScaleLoad f.id f.ctx u p
  | some (.qntOutlierSelect _ p) => s.runOutlier f.id f.ctx u p
  | _ => s

/-- The command that the quantiser may start or goes on with: the oldest delivered one, once the one before it has
completed, the pages it reads from flash are there and the quantiser holds its grant (R144, R223, R356). -/
def State.qntFront (s : State) (u : Nat) : Option Flight :=
  (((s.qntList u).head?).bind s.flightOf).filter fun f =>
    !f.finished && !s.reading f.id && s.grantedTo (u / 16) (.qnt (u % 16))

/-- The quantiser starts what it may. -/
def State.pokeQnt (s : State) (u : Nat) : State :=
  match s.qntFront u with
  | some f => s.runQnt u f
  | none => s

/-- Deliver a command to its quantiser: the pages that it reads from flash are asked for, and the quantiser's grant (R144,
R223, R354). -/
def State.toQnt (s : State) (id c u : Nat) (cmd : Instr) (reads : List (Nat × Nat)) : State :=
  let s := { s with qnts := Map.set (fun _ => []) s.qnts u (s.qntList u ++ [id]) }
  let s := (s.updFlight id fun f => { f with cmd := some cmd }).queueReads id c reads
  (s.giveWork (u / 16) (.qnt (u % 16))).pokeQnt u

/-! ### Acceptance -/

/-- A command is refused at its dispatch. -/
def State.qntReject (s : State) (u id : Nat) (e : Err) : State := (s.qntFlags u e.st).reject id e

/-- No command in flight writes the list of a conversion: its contents stand (R159). -/
def State.listStands (s : State) (c : Nat) (v : Conv) : Bool :=
  !s.flight.any fun f => f.ctx == c && f.writes.any fun w =>
    overlaps v.p.listAddr.toNat (4 + 4 * v.listMax) w.1 w.2

/-- The side tensor of a conversion whose list stands is checked with its other fields; else when it starts (R203). -/
def State.chkSide (s : State) (c : Nat) (v : Conv) (late : Option Err → Option Err) : Option Err :=
  match s.readList c v with
  | some l =>
    let e := firstErr ((v.sideRows l.length).map fun r => s.chkWrite c 19 (vaOf r.1) r.2)
    if s.listStands c v then e else late e
  | none => none

/-- The checks of QNT_CONVERT, in word order (R17, R18, R41, R43, R170, R309); `late` names those of what lies behind a
field, the scales and the list, which the quantiser judges when the command starts. Alignments that R169 does not state are
those of the element: the source's own, 4 bytes of an FP32 or 32-bit word, 2 of a BF16 side value, and an address or a
stride that the command does not use need not be aligned (DESIGN CHOICE, log entry 92). -/
def State.convertChecks (s : State) (c : Nat) (p : ConvertP) (late : Option Err → Option Err) : List (Option Err) :=
  let v := Conv.of p
  let src := fun k => p.scaleSrc.toNat == k
  let out := p.outMode != 0
  let badScale := late (errIf (s.badScales c p.quantiser.toNat v) (Err.state St.badScale))
  let scaleWord := if src 1 then [] else
    [chkAlign 15 p.scaleAddr 4,
     if src 0 then s.chkWrite c 15 p.scaleAddr (4 * v.chans) else s.chkRead c 15 p.scaleAddr (4 * v.chans),
     if src 2 then badScale else none]
  [s.chkQnt c 4 p.quantiser.toNat, errIf (src 3 || p.outMode == 3) (Err.word St.badField 4),
   errIf ((p.statsEn || p.almCheck) && s.reg .almBase c == 0) (Err.word St.badField 4),
   chkFmt 5 p.typeIn Fmt.quantiserInput, chkCsi 5 p.typeOut,
   if p.statsEn || p.almCheck then s.chkAlmSlot c 6 p.almSlot p.statsEn else none,
   errIf (p.almCheck && (s.almCfg c p.almSlot.toNat).width != v.w) (Err.state St.widthMismatch),
   errIf ((src 1 || p.capture) && decide (32768 < p.scaleRegBase.toNat + v.chans)) (Err.word St.badField 6),
   if src 1 then badScale else none,
   errIf (p.n0 == 0) (Err.word St.badField 7),
   errIf (p.n1 == 0 || (v.fmt.isMx && p.n1.toNat % 32 != 0)) (Err.word St.badField 8),
   chkAlign 9 p.srcAddr (ConvertP.elemBytes p)]
  ++ (ConvertP.srcRows p).map (fun r => s.chkRead c 9 (vaOf r.1) r.2)
  ++ [errIf (p.srcStride.toNat % ConvertP.elemBytes p != 0) (Err.word St.badField 11), chkAlign 12 p.dstAddr 64]
  ++ (ConvertP.dstRows p).map (fun r => s.chkWrite c 12 (vaOf r.1) r.2)
  ++ [errIf (p.dstStride.toNat % 64 != 0) (Err.word St.badField 14)] ++ scaleWord
  ++ (if out then [chkAlign 17 p.listAddr 4, s.chkRead c 17 p.listAddr 4,
        late (errIf (s.readList c v).isNone (Err.state St.badField)), chkAlign 19 p.sideAddr 2, s.chkSide c v late,
        errIf (p.sideStride.toNat % 2 != 0) (Err.word St.badField 21)] else [])
  ++ (if p.colmaxEn then [chkAlign 22 p.colmaxAddr 4, s.chkWrite c 22 p.colmaxAddr (4 * v.extent)] else [])
  ++ (if p.blkAddr == 0 then [] else
      [chkAlign 24 p.blkAddr 4, s.chkWrite c 24 p.blkAddr (4 * v.chans * ceilDiv (ceilDiv v.extent 32) 16)])
  ++ (if v.fmt.isMx then [s.chkRead c 30 p.mxScaleAddr (p.n0.toNat * (p.n1.toNat / 32))] else [])
  ++ [errIf (out && s.fld .splStageQuota p.quantiser.toNat 23 16 == 0) (Err.state St.spillQuota)]

/-- What QNT_CONVERT is refused with at its acceptance: a fault of its packet makes the part report the first fault in word
order, what lies behind the fields included as it then stands (R18; DEDUCED, log entry 86). -/
def State.convertErr (s : State) (c : Nat) (p : ConvertP) : Option Err :=
  if (firstErr (s.convertChecks c p fun _ => none)).isSome then firstErr (s.convertChecks c p id) else none

/-- The ranges that a conversion reads and writes: its list and side tensor as long as R155 lets them be, and its Almanac
slot (R432). -/
def State.convRanges (s : State) (c : Nat) (p : ConvertP) : List (Nat × Nat) × List (Nat × Nat) :=
  let v := Conv.of p
  let sc := (p.scaleAddr.toNat, 4 * v.chans)
  (v.reads ++ v.listRange v.listMax ++ s.almRange c p.almSlot p.almCheck,
   ConvertP.dstRows p ++ (if p.scaleSrc == 0 then [sc] else []) ++ v.sideRows v.listMax
    ++ (if p.colmaxEn then [(p.colmaxAddr.toNat, 4 * v.extent)] else [])
    ++ (if p.blkAddr == 0 then [] else [(p.blkAddr.toNat, 4 * v.chans * ceilDiv (ceilDiv v.extent 32) 16)])
    ++ s.almRange c p.almSlot p.statsEn)

/-- QNT_CONVERT converts a storage tensor into CSI codes (R144 to R158, R169, R170). -/
def execQntConvert (h : Hdr) (p : ConvertP) (s : State) : Out :=
  s.packet s.txnScopes h ⟨0x300, 1, .context, false⟩ fun id c s =>
    let u := p.quantiser.toNat
    match s.convertErr c p with
    | some e => s.qntReject u id e
    | none =>
      let rs := s.convRanges c p
      let s := s.names id c rs.1 rs.2 [u]
      let s := if typeRnd p.typeOut == 1 then s.checkStream c p.rndStream (ConvertP.dstRows p) else s
      s.toQnt id c u (.qntConvert h p) rs.1

/-- The checks of QNT_SCALE_LOAD (R171). -/
def State.scaleLoadErr (s : State) (c : Nat) (p : ScaleLoadP) : Option Err :=
  let n := p.count.toNat
  firstErr [s.chkQnt c 4 p.quantiser.toNat, errIf (decide (32768 < p.regBase.toNat + n)) (Err.word St.badField 5),
    errIf (n == 0 || decide (32768 < n)) (Err.word St.badField 6),
    if p.store then s.chkWrite c 7 p.addr (4 * n) else s.chkRead c 7 p.addr (4 * n)]

/-- QNT_SCALE_LOAD loads scale registers from memory, or stores them (R171). -/
def execQntScaleLoad (h : Hdr) (p : ScaleLoadP) (s : State) : Out :=
  s.packet s.txnScopes h ⟨0x301, 0, .context, false⟩ fun id c s =>
    let u := p.quantiser.toNat
    match s.scaleLoadErr c p with
    | some e => s.qntReject u id e
    | none =>
      let r := [(p.addr.toNat, 4 * p.count.toNat)]
      let rd := if p.store then [] else r
      (s.names id c rd (if p.store then r else []) [u]).toQnt id c u (.qntScaleLoad h p) rd

/-- Bytes of the list that QNT_OUTLIER_SELECT may write. -/
def OutlierP.listBytes (p : OutlierP) : Nat := 4 * (1 + OutlierP.cap_ p)

/-- The checks of QNT_OUTLIER_SELECT (R172). -/
def State.outlierErr (s : State) (c : Nat) (p : OutlierP) : Option Err :=
  let n := p.length.toNat
  firstErr [s.chkQnt c 4 p.quantiser.toNat, errIf (p.statsEn && s.reg .almBase c == 0) (Err.word St.badField 5),
    if p.statsEn then s.chkAlmSlot c 5 p.almSlot true else none,
    errIf (n == 0) (Err.word St.badField 6), chkAlign 8 p.colmaxAddr 4, s.chkRead c 8 p.colmaxAddr (4 * n),
    chkAlign 10 p.listAddr 4, s.chkWrite c 10 p.listAddr (OutlierP.listBytes p)]

/-- QNT_OUTLIER_SELECT builds an outlier list from a colmax vector (R159, R172). -/
def execQntOutlierSelect (h : Hdr) (p : OutlierP) (s : State) : Out :=
  s.packet s.txnScopes h ⟨0x302, 0, .context, false⟩ fun id c s =>
    let u := p.quantiser.toNat
    match s.outlierErr c p with
    | some e => s.qntReject u id e
    | none =>
      let rd := [(p.colmaxAddr.toNat, 4 * p.length.toNat)]
      let wr := (p.listAddr.toNat, OutlierP.listBytes p) :: s.almRange c p.almSlot p.statsEn
      (s.names id c rd wr [u]).toQnt id c u (.qntOutlierSelect h p) rd

/-- A conversion that waits for an outlier granule takes one that became free, or ends when the partition is gone
(R146). -/
def execOutlierGranuleAcquire (quantiser : BitVec 7) (s : State) : Out :=
  let u := quantiser.toNat
  if !inRange u s.nQnt then .fault (.noSuchUnit "quantiser" u)
  else if s.boot.partFault || !s.boot.running then .next s
  else
    let c := (s.qntFront u).map fun f => f.ctx
    let s := s.pokeQnt u
    .next (match c with | some c => s.settle c | none => s)

end Sys2Proof.Machine
end

