-- ==== Sys2Proof/Machine/Vigil.lean ====
section
/-! DEFINITION. Vigil: the wait states of queues (R399), their examination (R400, R401) and the wait-for graphs (R402 to
R404). -/

namespace Sys2Proof.Machine

open Sys2Proof

/-! ### Nodes and wait states (R399, R403) -/

/-- A node of a wait-for graph: its kind and ident (R403). -/
structure VNode where
  kind : Nat
  ident : Nat
deriving DecidableEq, Repr

namespace VNode

def counter (key : Nat) : VNode := ⟨2, key⟩
def word (part a : Nat) : VNode := ⟨3, part * 2 ^ 48 + a⟩
def unit (type n : Nat) : VNode := ⟨4, type * 65536 + n⟩
def remote (part : Nat) : VNode := ⟨5, part⟩
def context (c : Nat) : VNode := ⟨6, c⟩
def governor (d : Nat) : VNode := ⟨7, d⟩
def host : VNode := ⟨8, 0⟩
def fabric : VNode := ⟨9, 0⟩

end VNode

/-- The node of a queue: its number, and its context in bits [21:16]. -/
def State.queueNode (s : State) (q : Nat) : VNode := ⟨1, (s.queue q).ctx % 64 * 65536 + q⟩

/-- A wait state and the node waited on. -/
structure Wait where
  code : Nat
  node : Option VNode
deriving DecidableEq, Repr

def noWait : Wait := ⟨0, none⟩

/-- Tile t of engine e is the link before a tile that `n` describes (R129). -/
def Tile.linkBefore (t : Tile) (e : Nat) (n : Epi) : Bool :=
  t.first.midLink && t.first.nextEngine == e && t.first.chainId == n.chainId && t.first.chainPos + 1 == n.chainPos

/-- The engine that runs the link before a tile of engine e (R131). -/
def State.prevLink (s : State) (e : Nat) (n : Epi) : Option Nat :=
  (s.engs.find? fun x => x.2.units.any fun u => u.2.tiles.any fun t => t.linkBefore e n).map fun x => x.1

/-- A tile's drain waits for a row of the link before (R131). -/
def UnitS.awaitsRow (u : UnitS) (t : Tile) : Bool :=
  decide (0 < t.first.chainPos) && u.drains.any fun d => d.tile == t.id && decide (d.next < t.m)

/-- The slot of a tile is in FILL for it, and its preload has rows to come (R123). -/
def UnitS.preloads (u : UnitS) (t : Tile) : Bool :=
  let x := u.slot t.slot
  t.placed && !t.isOver && t.pre.isSome && x.tile == some t.id && x.st == .fill && decide (x.preDone.length < t.m)

/-- The preload of a quarter engine's tile waits for a staging region (R123). -/
def State.preWaits (s : State) (e : Nat) (u : UnitS) (t : Tile) : Bool :=
  (s.eng e).quarter && u.preloads t && (u.slot t.slot).preRegion.isNone

/-- The preload of a tile waits for outlier terms of an element engine that holds no grant (R122, R356). -/
def State.termsHeld (s : State) (e : Nat) (u : UnitS) (t : Tile) : Bool :=
  let x := u.slot t.slot
  let el := s.termElt (clusterOfEng e)
  u.preloads t && (t.pre.any fun d => d.outlier) && !s.reading t.flight && !s.grantedTo (el / 32) (.elt (el % 32))
  && (List.range t.m).any fun r => !x.preDone.contains r && !x.outliers.any fun o => o.1 == r

/-- Tile t is that of an accepted command: the one that a matmul adds to, the one that an ARR_DRAIN drains. -/
def WCmd.isOf (w : WCmd) (t : Tile) : Bool :=
  match w.cmd with
  | .drain _ => t.flight == w.flight
  | _ => t.id == w.tile

/-- The wait of work on die d for its grant. -/
def grantWait (d : Nat) : Wait := ⟨11, some (.governor d)⟩

/-- What an accepted array command waits for. A command with cont that its engine still reads for waits for no continuation:
only `State.leftOpen` does. -/
def State.tileWait (s : State) (e : Nat) (u : UnitS) (w : WCmd) : Wait :=
  let k := clusterOfEng e
  let mine := u.tiles.filter w.isOf
  if mine.any fun t => t.needGr != 0 || s.preWaits e u t then ⟨12, some (.unit 4 k)⟩
  else if let some t := mine.find? (s.rowStuck e u) then ⟨12, some (.unit 4 (clusterOfEng t.first.nextEngine))⟩
  else if !s.engGranted e || mine.any (s.termsHeld e u) then grantWait (dieOfClus k)
  else match mine.find? u.awaitsRow with
    | some t => ⟨8, (s.prevLink e t.first).map (VNode.unit 1)⟩
    | none => noWait

/-- What a command that its engine has not accepted waits for: the end of another queue's tile; room in the window, or for
an ARR_MODE or a CHECK_TILE, and what stands behind an ARR_MODE, an empty one; of a CHECK_TILE only the engine's grant; or
nothing, of one that may run or enter. -/
def State.inboxWait (s : State) (e : Nat) (m : Nat × Nat × Nat × ArrCmd) : Wait :=
  let x := s.eng e
  let full : Wait := ⟨5, some (.unit 1 e)⟩
  let others := fun (u : UnitS) => u.open?.any fun o => o.queue != m.2.1
  let behind := (x.inbox.takeWhile fun n => n.1 != m.1).any fun n => match n.2.2.2 with | .mode _ => true | _ => false
  let enters := fun (q : Nat) =>
    if others (x.unit q) then ⟨7, some .host⟩
    else if !x.room q || ((x.unit q).open?.isNone && behind) then full
    else noWait
  let first := x.inbox.head?.any fun n => n.1 == m.1
  match m.2.2.2 with
  | .matmul p => enters (if x.quarter then p.quarter.toNat else 0)
  | .drain _ => enters 0
  | .mode _ =>
    if x.units.any fun u => others u.2 then ⟨7, some .host⟩ else if x.modeReady && first then noWait else full
  | .check _ _ =>
    if x.units.any fun u => others u.2 then ⟨7, some .host⟩
    else if !(x.checkReady && first) then full
    else if s.engGranted e then noWait else grantWait (dieOfClus (clusterOfEng e))

/-- What an array command waits for: to be accepted, or what its tile needs. -/
def State.arrayWait (s : State) (e id : Nat) : Wait :=
  let x := s.eng e
  match x.inbox.find? fun m => m.1 == id with
  | some m => s.inboxWait e m
  | none =>
    match x.units.findSome? fun u => (u.2.window.find? fun w => w.flight == id).map fun w => s.tileWait e u.2 w with
    | some w => w
    | none => noWait

/-- The rank that a collective command waits for (R288, R298): at the root, the primary of the first undecided slot of
phase 1; elsewhere the root until the scale is in force; then, at a reducer, the primary of the first undecided slot of
phase 3; in a gather, the reducer of the first shard that is not whole. A part that waits for no rank waits for none. -/
def State.collRank (s : State) (x : CollS) : Option Nat :=
  let slot := fun (taken : Nat → SlotTaken) =>
    ((List.range x.slots.length).find? fun k => taken k == .undecided).map fun k => (nth (0, 0) x.slots k).1
  if x.gather then
    ((List.range x.nRed).find? fun i =>
      !(x.unreduced.contains i || Map.get (fun _ => 0) x.got i == x.shardLen i)).map fun i => nth 0 x.reducers i
  else if !x.sent then
    match s.collRoot x with
    | some i => if x.index == some i then slot fun k => (x.expSlot k).taken else some (nth 0 x.reducers i)
    | none => none
  else if x.index.isSome && !x.written then slot fun k => (x.conSlot k).taken
  else none

/-- The part that a collective command without a deadline waits for. -/
def State.collWait (s : State) (x : CollS) : Wait :=
  match s.collRank x with
  | some r => ⟨9, some (.remote (s.member x.ctx r).2)⟩
  | none => noWait

/-- A collective command waits for its engine's grant: it has not begun, or work of it is at hand (R356). -/
def State.collStalled (s : State) (x : CollS) : Bool :=
  !s.grantedTo x.die .coll
  && (!x.begun || !x.held.isEmpty || !x.redo.isEmpty || ((x.rootDone || x.scaled) && !x.sent)
    || (x.expAt.isSome && !x.undecided1 && !x.rootDone) || (x.conAt.isSome && !x.undecided3 && x.sent && !x.written))

/-- What a collective command waits for: its engine's grant, or a remote part where it has no deadline. -/
def State.reduceWait (s : State) (x : CollS) : Wait :=
  if x.done then noWait
  else if s.collStalled x then grantWait x.die
  else if x.deadlineUs == 0 then s.collWait x else noWait

/-- What a command of a quantiser or element engine waits for: a place in the window, whose size is `room`; at the front of
it, the unit's grant, and then what `front` says. -/
def State.windowWait (s : State) (type n d room : Nat) (u : GovUnit) (l : List Nat) (f : Flight) (front : Wait) : Wait :=
  if f.finished then noWait
  else if !(l.take room).contains f.id then ⟨5, some (.unit type n)⟩
  else if l.head? != some f.id then noWait
  else if !s.grantedTo d u then grantWait d
  else front

/-- What a command of a quantiser, 4 of which its window holds, or of an element engine, whose window holds 8, waits for
(R144, R146, R179). -/
def State.unitWait (s : State) (f : Flight) : Wait :=
  match s.qnts.find? (fun e => e.2.contains f.id), s.elts.find? (fun e => e.2.contains f.id) with
  | some e, _ =>
    s.windowWait 2 e.1 (e.1 / 16) 4 (.qnt (e.1 % 16)) e.2 f (if s.reading f.id then noWait else ⟨12, some (.unit 4 e.1)⟩)
  | none, some e => s.windowWait 3 e.1 (e.1 / 32) 8 (.elt (e.1 % 32)) e.2 f noWait
  | none, none => noWait

/-- What a command in flight waits for (R399). -/
def State.flightWait (s : State) (f : Flight) : Wait :=
  if !s.fenced f.id && !s.txnFree && s.fab.waiting.any (fun w => w.flight == f.id) then ⟨15, some .fabric⟩
  else match f.work with
  | .waitMem a _ => ⟨3, some (.word (s.fld .ngfPartId 0 15 0) (a.toNat % 2 ^ 48))⟩
  | .array e => s.arrayWait e f.id
  | .barrier _ => if (s.ctx f.ctx).phase == .drain then ⟨10, some (.context f.ctx)⟩ else noWait
  | .coll b =>
    match s.colls.find? fun x => x.ctx == f.ctx && x.key == b && x.flight == f.id with
    | some x => s.reduceWait x
    | none => noWait
  | _ => s.unitWait f

/-- The oldest command in flight of a queue that waits. -/
def State.oldestWait (s : State) (q : Nat) : Wait :=
  (((s.queueFlights q).map s.flightWait).find? fun w => w.code != 0).getD noWait

/-- What a queue's CTR_WAIT_MEM waits for, whatever waits ahead of it. -/
def State.memWait (s : State) (q : Nat) : Wait :=
  (((s.queueFlights q).map s.flightWait).find? fun w => w.code == 3).getD ⟨3, none⟩

/-- The queue began a tile that a further command is to continue (R399: cont), whose commands so far have ended, and no
further one has reached the engine. -/
def State.leftOpen (s : State) (q : Nat) : Bool :=
  s.engs.any fun e => !(e.2.inbox.any fun m => m.2.1 == q) && e.2.units.any fun u =>
    u.2.open?.any fun o => o.queue == q && !u.2.window.any fun w => w.tile == o.tile && w.queue == q && !w.readsEnded

/-- The wait state of a queue and its node (R399): its head's, else that of its oldest waiting command in flight, else that
of a tile it left open. -/
def State.queueWait (s : State) (q : Nat) : Wait :=
  let x := s.queue q
  if !x.present || x.stopped then noWait
  else match x.waitState with
  | 0 =>
    let w := s.oldestWait q
    if w.code == 0 && s.leftOpen q then ⟨7, some .host⟩ else w
  | 1 => ⟨1, (s.oldestWait q).node⟩
  | 2 => ⟨2, some (.counter x.waitNode)⟩
  | 3 => s.memWait q
  | 6 =>
    let k := s.cal x.cal
    let m := nth 64 k.entries k.entry
    ⟨6, ((s.calMembers x.cal).find? fun q => (s.queue q).member == m).map s.queueNode⟩
  | 10 => ⟨10, some (.context x.waitNode)⟩
  | 13 => ⟨13, some (.context x.waitNode)⟩
  | n => ⟨n, some .host⟩

/-- Every queue of the part. -/
def State.allQueues (s : State) : List Nat := (s.queues.filter fun e => e.2.present).map fun e => e.1

/-- The wait state noted of a queue, and since when it has been in it (R403). -/
def VigilS.waitOf (v : VigilS) (q : Nat) : Nat × Nat := Map.get (fun _ => (0, 0)) v.waits q

/-- Before the timebase counts on, note each queue that waits, with its wait state and the time since when it has been in
that state (R403). -/
def State.noteWaits (s : State) : State :=
  { s with vigil := { s.vigil with waits := s.allQueues.filterMap fun q =>
      let code := (s.queueWait q).code
      let was := s.vigil.waitOf q
      if code == 0 then none else some (q, code, if was.1 == code then was.2 else s.now) } }

/-- The counter value or memory word that a queue waits on (R401). -/
def State.waitValue (s : State) (q : Nat) (w : Wait) : W64 :=
  match w.code, w.node with
  | 2, some v => (Map.get (fun _ => 0) s.ctrs v.ident).setWidth 64
  | 3, some v => s.rd64 (s.queue q).ctx (v.ident % 2 ^ 48)
  | _, _ => 0

/-! ### Edges (R399) -/

/-- Queues, as nodes, once each. -/
def State.queueNodes (s : State) (qs : List Nat) : List VNode := qs.eraseDups.map s.queueNode

/-- The packets of a queue that are published and not fetched, as (flags word, counters word), read from its ring
(R303, R311). -/
def State.queuedHeads (s : State) (q : Nat) : Nat → Nat → Nat → List (Nat × Nat)
  | 0, _, _ => []
  | fuel + 1, slot, left =>
    if left == 0 then []
    else
      let x := s.queue q
      let a := x.ringBase.toNat + 64 * (slot % 2 ^ x.ringLog2)
      let w := (s.rd32 x.ctx (a + 4)).toNat
      let n := w / 64 % 4 + 1
      (w, (s.rd32 x.ctx (a + 8)).toNat) :: s.queuedHeads q fuel (slot + n) (left - n)

/-- A queue holds a queued or in-flight command that signals a counter. -/
def State.signals (s : State) (q key : Nat) : Bool :=
  let x := s.queue q
  ((s.queueFlights q).any fun f => f.hdr.signalEn && 4096 * f.ctx + f.hdr.signalCtr.toNat == key)
  || (s.queuedHeads q x.published x.fetch x.published).any fun h =>
      h.1 / 8192 % 2 == 1 && 4096 * x.ctx + h.2 % 4096 == key

/-- Queues with commands that a unit accepted: of an engine, those whose tiles still drain too. -/
def State.unitQueues (s : State) (type n : Nat) : List Nat :=
  let of := fun (ids : List Nat) => (s.flight.filter fun f => ids.contains f.id).map fun f => f.queue
  if type == 1 then (s.eng n).units.flatMap fun u => u.2.window.map fun w => w.queue
  else if type == 2 then of ((s.qntList n).take 4)
  else if type == 3 then of ((s.eltList n).take 8)
  else
    -- queues that hold granules of the cluster, or preload staging of one of its engines (R123, R127, R130, R146)
    ((s.engs.filter fun e => clusterOfEng e.1 == n).flatMap fun e => e.2.units.flatMap fun u =>
      (u.2.tiles.filter fun t => !t.region.isEmpty
        || ((u.2.slot t.slot).tile == some t.id && (u.2.slot t.slot).preRegion.isSome)).map fun t => t.queue)
    ++ (if (s.clusS n).chainGr.isEmpty then [] else (s.clusS n).chainBuf.map fun x => x.queue)
    ++ of (((s.clusS n).outlHeld ++ (s.clusS n).qntHeld).map fun w => w.1)

/-- Queues that keep a context waiting: commands accepted before its barrier (R240), and commands in flight of the
contexts that an apply point of the context stops (R335). -/
def State.ctxQueues (s : State) (c : Nat) : List Nat :=
  let before := match (s.ctx c).barrier with
    | some b => (s.ctxFlights c).filter fun f => decide (f.id < b)
    | none => []
  let due := s.txns.filter fun t => t.affects (s.txnScopes t) c
  let apply := s.flight.filter fun f => due.any fun t => t.affects (s.txnScopes t) f.ctx
  (before ++ apply).map fun f => f.queue

/-- A command in flight waits on a node in a wait state. -/
def State.waitedFor (s : State) (code : Nat) (v : VNode) : Bool := s.flight.any fun f => s.flightWait f == ⟨code, some v⟩

/-- The queues that issued the links of an engine whose rows a next link waits for (R131, R399). -/
def State.linkQueues (s : State) (e : Nat) : List Nat :=
  (s.eng e).units.flatMap fun u => (u.2.tiles.filter fun t =>
    (s.eng t.first.nextEngine).units.any fun n => n.2.tiles.any fun r =>
      t.linkBefore t.first.nextEngine r.first && n.2.awaitsRow r).map fun t => t.queue

/-- The queues that a unit's node waits on: of an engine, those with commands that fill its window where one waits for a
place in it, and those that issued a link where one waits for its rows. -/
def State.unitNodes (s : State) (v : VNode) : List Nat :=
  let type := v.ident / 65536
  let n := v.ident % 65536
  if type == 1 then
    (if s.waitedFor 5 v then s.unitQueues 1 n else []) ++ if s.waitedFor 8 v then s.linkQueues n else []
  else s.unitQueues type n

/-- The nodes that a node waits on. -/
def State.nextNodes (s : State) (v : VNode) : List VNode :=
  match v.kind with
  | 1 => (s.queueWait (v.ident % 65536)).node.toList
  | 2 => s.queueNodes (s.allQueues.filter fun q => s.signals q v.ident)
  | 4 => s.queueNodes (s.unitNodes v)
  | 6 => s.queueNodes (s.ctxQueues v.ident)
  | _ => []

/-! ### Graphs (R402, R403) -/

def maxNodes : Nat := 16384
def maxEdges : Nat := 65536

/-- A graph: its nodes, and its edges by node. -/
structure Graph where
  nodes : List VNode
  edges : List (VNode × VNode)
deriving DecidableEq, Repr

/-- Follow edges transitively; `own`: the nodes whose edges are followed. -/
def State.grow (s : State) (own : VNode → Bool) : Nat → List VNode → Graph → Graph
  | 0, _, g => g
  | _, [], g => g
  | fuel + 1, v :: todo, g =>
    let next := if own v then s.nextNodes v else []
    let new := next.filter fun x => !g.nodes.contains x
    s.grow own fuel (todo ++ new) ⟨g.nodes ++ new, g.edges ++ next.map fun x => (v, x)⟩

/-- The graph of the queues that wait; with `only`, of those of one context (R404). -/
def State.graph (s : State) (only : Option Nat) : Graph :=
  let mine := fun q => match only with | some c => (s.queue q).ctx == c | none => true
  let roots := s.queueNodes (s.allQueues.filter fun q => mine q && (s.queueWait q).code != 0)
  s.grow (fun v => v.kind != 1 || mine (v.ident % 65536)) (maxNodes + maxEdges) roots ⟨roots, []⟩

/-- A directed cycle: what is left when nodes without an edge to a remaining node are taken away. -/
def cyclic : Nat → List (VNode × VNode) → Bool
  | 0, es => !es.isEmpty
  | fuel + 1, es => cyclic fuel (es.filter fun e => es.any fun f => f.1 == e.2)

/-- The index of a node. -/
def indexOf (v : VNode) (vs : List VNode) : Nat := vs.findIdx fun x => x == v

/-- The time that a queue has been in its wait state, in ms: none where it entered it since the timebase last counted. -/
def State.waitMs (s : State) (q : Nat) : Nat :=
  let w := s.vigil.waitOf q
  if w.1 == 0 || w.1 != (s.queueWait q).code then 0 else min 0xFFFFFFFF ((s.now - w.2) / 1000000)

/-- A node entry (R403); a queue of another context shows wait state 0 (R404). -/
def State.nodeBytes (s : State) (only : Option Nat) (v : VNode) : List Byte :=
  let q := v.ident % 65536
  let shown := v.kind == 1 && (match only with | some c => (s.queue q).ctx == c | none => true)
  leBytes 4 (v.kind * 2 ^ 28 + if shown then (s.queueWait q).code * 2 ^ 24 else 0) ++ leBytes 8 v.ident
  ++ leBytes 4 (if shown then s.waitMs q else 0)

/-- The largest granularity over the dies. -/
def State.maxGrain (s : State) : Nat := ((List.range s.dies).map fun d => (s.vigilGrain d).2).foldl max 0

/-- The bytes of a graph record (R403); `flags`: beyond the cycle flag and the limits. -/
def State.graphBytes (s : State) (g : Graph) (only : Option Nat) (id : W64) (flags : Nat) : List Byte :=
  let ns := g.nodes.take maxNodes
  let inside := g.edges.filter fun e => ns.contains e.1 && ns.contains e.2
  let es := inside.take maxEdges
  let cut := decide (maxNodes < g.nodes.length) || decide (maxEdges < inside.length)
  let cycle := if cyclic es.length es then 1 else 0
  leBytes 4 0x56474631 ++ leBytes 4 (65536 + s.fld .ngfPartId 0 15 0) ++ leBytes 8 id.toNat ++ leBytes 8 s.now
  ++ leBytes 4 ns.length ++ leBytes 4 es.length ++ leBytes 4 (cycle + (if cut then 2 else 0) ||| flags)
  ++ leBytes 4 s.maxGrain ++ List.replicate 24 0
  ++ ns.flatMap (s.nodeBytes only)
  ++ es.flatMap fun e => leBytes 4 (indexOf e.1 ns) ++ leBytes 4 (indexOf e.2 ns)

/-- A new graph_id: the part identifier and the count of graphs built (R402). -/
def State.newGraphId (s : State) : W64 :=
  BitVec.ofNat 64 (s.fld .ngfPartId 0 15 0 * 2 ^ 48 + (s.vigil.graphs + 1) % 2 ^ 48)

/-- The remote parts of a graph. -/
def Graph.remotes (g : Graph) : List Nat := (g.nodes.filter fun v => v.kind == 5).map fun v => v.ident

/-- Build a graph under an id (R402): the record goes to the collector, with snapshot requests for its remote parts when
`follow` gives their hop count; EV_VIGIL_GRAPH is raised. -/
def State.buildGraph (s : State) (only : Option Nat) (id : W64) (follow : Option Nat) (trunc : Bool) :
    List Byte × State :=
  let g := s.graph only
  let valid := s.fld .vwmVigilCollector 0 31 31 == 1
  let eid := BitVec.ofNat 8 (s.fld .vwmVigilCollector 0 7 0)
  let reqs := match follow with
    | some h => if valid then g.remotes.map fun p => MgmtMsg.snapshotRequest eid p id h else []
    | none => []
  let bytes := s.graphBytes g only id ((if trunc then 2 else 0) + if reqs.isEmpty then 0 else 4)
  let sent := if valid then MgmtMsg.graph eid bytes :: reqs else []
  let s := { s with
    out := { s.out with mgmt := s.out.mgmt ++ sent }
    vigil := { s.vigil with graphs := s.vigil.graphs + 1, ids := s.vigil.ids ++ [id], record := bytes } }
  (bytes, s.raise 0x0902 0 none anchorDie (words64 id))

/-- The size of the record that a graph would have. -/
def State.graphSize (s : State) (only : Option Nat) : Nat := (s.graphBytes (s.graph only) only 0 0).length

/-- Whose waits a snapshot shows: every context's to a privileged queue, else the own context's (R404). -/
def State.snapScope (s : State) (q c : Nat) : Option Nat := if (s.queue q).priv then none else some c

/-- The checks of VIGIL_SNAPSHOT (R404): a destination for the bytes that it writes. -/
def State.snapErr (s : State) (q c : Nat) (dst : W64) (maxBytes : W32) : Option Err :=
  let n := min (s.graphSize (s.snapScope q c)) maxBytes.toNat
  firstErr [chkAlign 5 dst 64, if n == 0 then none else s.chkWrite c 5 dst n]

/-- VIGIL_SNAPSHOT's work: the graph under a new graph_id, as much of it as max_bytes allows, and its full size (R404). -/
def State.runSnapshot (s : State) (id q c : Nat) (follow : Bool) (dst : W64) (maxBytes : W32) : State :=
  let only := s.snapScope q c
  let size := s.graphSize only
  let n := min size maxBytes.toNat
  let gid := s.newGraphId
  let r := s.buildGraph only gid (if follow then some 1 else none) (decide (maxBytes.toNat < size))
  let s := r.2.names id c [] [(dst.toNat, n)] []
  let s := s.store id c dst.toNat (r.1.take n) false
  (s.updFlight id fun f => { f with result := gid, detail := BitVec.ofNat 32 size }).finishNow id

/-- VIGIL_SNAPSHOT builds a graph under a new graph_id and writes it (R404). -/
def execVigilSnapshot (h : Hdr) (follow : Bool) (dst : W64) (maxBytes : W32) (s : State) : Out :=
  s.packet s.txnScopes h ⟨0x701, 0, .any, false⟩ fun id c s =>
    s.guarded id (s.snapErr h.ring.toNat c dst maxBytes) fun s => s.runSnapshot id h.ring.toNat c follow dst maxBytes

/-! ### Examination (R400, R401) -/

/-- An automatic graph, at most one per 10 s (R401). -/
def State.autoGraph (s : State) : State :=
  let late := match s.vigil.lastAuto with
    | some t => decide (t + 10000000000 ≤ s.now)
    | none => true
  if s.fld .vwmVigilCtrl 0 31 31 == 0 || !late || !s.mgmt.running then s
  else
    let s := { s with vigil := { s.vigil with lastAuto := some s.now } }
    (s.buildGraph none s.newGraphId (if s.fld .vwmVigilCtrl 0 30 30 == 1 then some 1 else none) false).2

def State.setVigil (s : State) (q : Nat) (v : VigilQ) : State :=
  { s with vigil := { s.vigil with queues := Map.set (fun _ => VigilQ.none) s.vigil.queues q v } }

/-- A node as one number. -/
def nodeKey (v : Option VNode) : Nat := match v with
  | some v => v.kind * 2 ^ 64 + v.ident
  | none => 0

/-- What Vigil holds of a queue. -/
def State.vigilOf (s : State) (q : Nat) : VigilQ := Map.get (fun _ => VigilQ.none) s.vigil.queues q

/-- What Vigil sees of a queue now (R401). -/
def State.vigilNow (s : State) (q : Nat) : VigilQ :=
  let w := s.queueWait q
  { state := w.code, node := nodeKey w.node, value := s.waitValue q w, since := s.now
    last := s.now
    completed := Map.get (fun _ => 0) s.vigil.completed q
    suspect := (s.vigilOf q).suspect && (s.vigilOf q).state == w.code }

/-- The same wait, node, value and completions (R401). -/
def VigilQ.same (a b : VigilQ) : Bool :=
  a.state == b.state && a.node == b.node && a.value == b.value && a.completed == b.completed

/-- A queue becomes suspect: the event, and an automatic graph (R401). -/
def State.suspectQueue (s : State) (q : Nat) : State :=
  let s := s.setVigil q { s.vigilOf q with last := s.now, suspect := true }
  (s.raise 0x0901 1 (if (s.queue q).ctx == adminCtx then none else some (s.queue q).ctx) anchorDie
    [BitVec.ofNat 32 q, BitVec.ofNat 32 (s.queueWait q).code]).autoGraph

/-- A queue is due for examination: g ms after the last one (R400). -/
def State.vigilDue (s : State) (q : Nat) : Bool :=
  decide ((s.vigilOf q).last + (s.vigilGrain (q / 4096)).2 * 1000000 ≤ s.now)

/-- Vigil examines a queue: the same wait, node, value and completions for hang_ms make it suspect, once (R401). -/
def execVigilExamine (queue : BitVec 15) (s : State) : Out :=
  let q := queue.toNat
  let v := s.vigilOf q
  if !inRange q s.nQueues then .fault (.noSuchUnit "queue" q)
  else if s.boot.phase != .ready || !s.vigilDue q then .next s
  else if (s.queueWait q).code == 0 then .next (s.setVigil q { VigilQ.none with last := s.now })
  else if !v.same (s.vigilNow q) then .next (s.setVigil q (s.vigilNow q))
  else if v.suspect || decide (s.now < v.since + s.fld .vwmVigilCtrl 0 15 0 * 1000000) then
    .next (s.setVigil q { v with last := s.now })
  else .next (s.suspectQueue q)

/-- A snapshot request: a graph under its graph_id, unless the part has built it; its own remote parts are followed
while the hop count is below 4 (R402). -/
def execVigilFollowRequest (graphId : W64) (hops : Nat) (s : State) : Out :=
  if !s.boot.aon || !s.mgmt.running || s.boot.phase != .ready || s.vigil.ids.contains graphId then .next s
  else .next (s.buildGraph none graphId (if hops < 4 then some (hops + 1) else none) false).2

end Sys2Proof.Machine
end

