-- ==== Sys2Proof/Machine/Work.lean ====
section
/-! DEFINITION. The rows on which units that wait go on: COMMAND_COMPLETE, FLASH_READ_COMPLETE, OUTLIER_TERM and GOV_TICK
(R122, R144, R179, R223, R315, R354). -/

namespace Sys2Proof.Machine

open Sys2Proof

/-! ### Units that wait -/

/-- A unit starts what it may: its grant, its flash reads or the work before it may have come to an end. The engines have
rows of their own. -/
def State.wakeUnit (s : State) (d : Nat) : GovUnit → State
  | .engine _ => s
  | .elt i => s.pokeElt (32 * d + i)
  | .qnt i => s.pokeQnt (16 * d + i)
  | .coll => (s.colls.filter fun x => x.die == d).foldl (fun (s : State) x => s.goOnColl x.ctx x.key) s

def State.wakeUnits (s : State) (us : List (Nat × GovUnit)) : State := us.foldl (fun s u => s.wakeUnit u.1 u.2) s

/-- The units of a die but its engines. -/
def dieUnits (d : Nat) : List (Nat × GovUnit) :=
  ((List.range 32).map fun i => (d, GovUnit.elt i)) ++ ((List.range 16).map fun i => (d, GovUnit.qnt i)) ++ [(d, .coll)]

/-! ### COMMAND_COMPLETE -/

/-- COMMAND_COMPLETE: a command whose work is over, none of whose stores wait, completes: every effect is visible, then
its counter is signalled and its record written (R315); its units go on with the commands behind it (R144, R179). -/
def execCommandComplete (id : Nat) (s : State) : Out :=
  match s.flightOf id with
  | none => .next s
  | some f =>
    if !f.finished || s.waitingStores id || !s.boot.running then .next s
    else .next (((s.leave f).map fun t => (t.wakeUnits (s.unitsOf f)).settle f.ctx).getD s)

/-! ### FLASH_READ_COMPLETE -/

/-- A command, or a read of the fabric side, whose flash reads are over goes on (R223). -/
def State.goOn (s : State) (id : Nat) : State :=
  match s.flightOf id with
  | some f => if s.reading id then s else (((s.resume f).wakeUnits (s.unitsOf f))).settle f.ctx
  | none => s.slowDone id

/-- The oldest read of a channel completes; one that fails beyond its retries poisons a line (R223, R226, R367); a command
goes on after its last read. -/
def execFlashReadComplete (channel : BitVec 5) (retries : Nat) (failed : Bool) (s : State) : Out :=
  let k := channel.toNat
  if !inRange k s.nChan then .fault (.noSuchUnit "flash channel" k)
  else match s.ftl.reads.find? fun r => r.chan == k with
  | none => .next s
  | some r =>
    let t := s.endRead r retries failed
    .next (match r.flight with | some id => t.goOn id | none => t)

/-! ### OUTLIER_TERM (R122) -/

/-- The element engine of a cluster computes the outlier terms of a preload's row, under its grant and ahead of every
command of the cluster's element engines that has not started (R122, R356). -/
def execOutlierTerm (engine : BitVec 11) (quarter : BitVec 2) (row : BitVec 7) (s : State) : Out :=
  let e := engine.toNat
  let q := quarter.toNat
  let r := row.toNat
  let k := clusterOfEng e
  let el := s.termElt k
  s.unitRow e q <|
    match (s.unit e q).preTile r fun x => !x.outliers.any fun o => o.1 == r with
    | some (t, d) =>
      if !d.outlier || s.reading t.flight || !s.grantedTo (el / 32) (.elt (el % 32)) then s
      else
        let s := (s.outlierRow e q t d r).eltBusy el (Config.eltCycles 0 t.n)
        ((s.touchUnit (el / 32) (.elt (el % 32))).pokeElt (2 * k)).pokeElt (2 * k + 1)
    | none => s

/-! ### GOV_TICK (R354) -/

/-- The soft brake of a warm reset has ended on every die, or has nothing to brake any more: the part restarts (R358,
R408). -/
def State.warmed (s : State) : State :=
  if s.boot.warming && (!s.boot.running || !s.gov.any fun e => e.2.brake.isSome) then s.restart else s

/-- A tick of a die's governor, once it is due; units that it granted start their work (R354, R356). -/
def execGovTick (die : BitVec 3) (s : State) : Out :=
  let d := die.toNat
  if !inRange d s.dies then .fault (.noSuchUnit "die" d)
  else if !s.tickDue d then .next s.warmed
  else .next (((s.govTick d).wakeUnits (dieUnits d)).settleAll.warmed)

end Sys2Proof.Machine
end

