-- ==== Sys2Proof/Machine/Dispatch.lean ====
section
/-! DEFINITION. One arm per command: the meaning it has. -/

namespace Sys2Proof.Machine

open Sys2Proof

def exec (i : Instr) (s : State) : Host.Outcome State Fault Refusal :=
  match i with
  | .nop h => Sys2Proof.Machine.execNop h s
  | .ctrSet h counter value => Sys2Proof.Machine.execCtrSet h counter value s
  | .capRead h dst maxBytes => Sys2Proof.Machine.execCapRead h dst maxBytes s
  | .ctrRead h first count dst => Sys2Proof.Machine.execCtrRead h first count dst s
  | .ctrWaitMem h addr value => Sys2Proof.Machine.execCtrWaitMem h addr value s
  | .ctrWaitMemRetest queue => Sys2Proof.Machine.execCtrWaitMemRetest queue s
  | .unassignedOpcode h opcode => Sys2Proof.Machine.execUnassignedOpcode h opcode s
  | .memCopy h src dst len ecc => Sys2Proof.Machine.execMemCopy h src dst len ecc s
  | .tbCopy h p => Sys2Proof.Machine.execTbCopy h p s
  | .tbBuild h p => Sys2Proof.Machine.execTbBuild h p s
  | .arrMatmul h p => Sys2Proof.Machine.execArrMatmul h p s
  | .arrDrain h p => Sys2Proof.Machine.execArrDrain h p s
  | .arrMode h engine quarter => Sys2Proof.Machine.execArrMode h engine quarter s
  | .arrMapRead h dst first count => Sys2Proof.Machine.execArrMapRead h dst first count s
  | .qntConvert h p => Sys2Proof.Machine.execQntConvert h p s
  | .qntScaleLoad h p => Sys2Proof.Machine.execQntScaleLoad h p s
  | .qntOutlierSelect h p => Sys2Proof.Machine.execQntOutlierSelect h p s
  | .almSlotWrite h p => Sys2Proof.Machine.execAlmSlotWrite h p s
  | .eltKernel h p found acc => Sys2Proof.Machine.execEltKernel h p found acc s
  | .eltUpdate h p => Sys2Proof.Machine.execEltUpdate h p s
  | .rngStreamReg h p => Sys2Proof.Machine.execRngStreamReg h p s
  | .fabGet h src dst len => Sys2Proof.Machine.execFabGet h src dst len s
  | .fabPut h src dst len => Sys2Proof.Machine.execFabPut h src dst len s
  | .fabAtomic h p => Sys2Proof.Machine.execFabAtomic h p s
  | .fabFence h => Sys2Proof.Machine.execFabFence h s
  | .fabTbCopy h p => Sys2Proof.Machine.execFabTbCopy h p s
  | .collReduceScatter h p => Sys2Proof.Machine.execCollReduceScatter h p s
  | .collAllGather h p => Sys2Proof.Machine.execCollAllGather h p s
  | .fenceClear h rank => Sys2Proof.Machine.execFenceClear h rank s
  | .partRejoin h epoch rngStep => Sys2Proof.Machine.execPartRejoin h epoch rngStep s
  | .tierMap h p => Sys2Proof.Machine.execTierMap h p s
  | .tierUnmap h p => Sys2Proof.Machine.execTierUnmap h p s
  | .tierSeal h p => Sys2Proof.Machine.execTierSeal h p s
  | .tierUnseal h p => Sys2Proof.Machine.execTierUnseal h p s
  | .tierMigrate h p => Sys2Proof.Machine.execTierMigrate h p s
  | .tierQuery h p => Sys2Proof.Machine.execTierQuery h p s
  | .eqxBarrier h ckpt => Sys2Proof.Machine.execEqxBarrier h ckpt s
  | .eqxProtect h p => Sys2Proof.Machine.execEqxProtect h p s
  | .eqxResume h => Sys2Proof.Machine.execEqxResume h s
  | .imageList h dst => Sys2Proof.Machine.execImageList h dst s
  | .imageRelease h imageId => Sys2Proof.Machine.execImageRelease h imageId s
  | .harvest h imageId => Sys2Proof.Machine.execHarvest h imageId s
  | .cfgBegin h => Sys2Proof.Machine.execCfgBegin h s
  | .cfgWrite h p => Sys2Proof.Machine.execCfgWrite h p s
  | .cfgAbort h => Sys2Proof.Machine.execCfgAbort h s
  | .cfgCommit h p => Sys2Proof.Machine.execCfgCommit h p s
  | .calLoad h p => Sys2Proof.Machine.execCalLoad h p s
  | .queueCreate h p => Sys2Proof.Machine.execQueueCreate h p s
  | .queueDestroy h queue => Sys2Proof.Machine.execQueueDestroy h queue s
  | .ctxAssign h p => Sys2Proof.Machine.execCtxAssign h p s
  | .checkTile h engine pattern badGroups => Sys2Proof.Machine.execCheckTile h engine pattern badGroups s
  | .vigilSnapshot h follow dst maxBytes => Sys2Proof.Machine.execVigilSnapshot h follow dst maxBytes s
  | .cntSelect h p => Sys2Proof.Machine.execCntSelect h p s
  | .cfgDbProd queue index => Sys2Proof.Machine.execCfgDbProd queue index s
  | .cfgDbCons queue index => Sys2Proof.Machine.execCfgDbCons queue index s
  | .commandComplete id => Sys2Proof.Machine.execCommandComplete id s
  | .arrAccept engine quarter => Sys2Proof.Machine.execArrAccept engine quarter s
  | .spillRegionAcquire engine => Sys2Proof.Machine.execSpillRegionAcquire engine s
  | .rowIssue engine quarter parity => Sys2Proof.Machine.execRowIssue engine quarter parity s
  | .cellUpdate engine quarter => Sys2Proof.Machine.execCellUpdate engine quarter s
  | .runPromotion engine quarter => Sys2Proof.Machine.execRunPromotion engine quarter s
  | .spillAdd engine quarter => Sys2Proof.Machine.execSpillAdd engine quarter s
  | .drainStart engine quarter => Sys2Proof.Machine.execDrainStart engine quarter s
  | .epilogueRowOutput engine quarter => Sys2Proof.Machine.execEpilogueRowOutput engine quarter s
  | .slotFree engine quarter => Sys2Proof.Machine.execSlotFree engine quarter s
  | .chainRowReceive engine => Sys2Proof.Machine.execChainRowReceive engine s
  | .preloadRegionAcquire engine quarter => Sys2Proof.Machine.execPreloadRegionAcquire engine quarter s
  | .preloadRowComplete engine quarter row => Sys2Proof.Machine.execPreloadRowComplete engine quarter row s
  | .outlierTerm engine quarter row => Sys2Proof.Machine.execOutlierTerm engine quarter row s
  | .deferredSramWrite engine => Sys2Proof.Machine.execDeferredSramWrite engine s
  | .outlierGranuleAcquire quantiser => Sys2Proof.Machine.execOutlierGranuleAcquire quantiser s
  | .eqxDrainDone ctx => Sys2Proof.Machine.execEqxDrainDone ctx s
  | .eqxRecordReceive ctx rank rec => Sys2Proof.Machine.execEqxRecordReceive ctx rank rec s
  | .eqxSyncPulseEnd => Sys2Proof.Machine.execEqxSyncPulseEnd s
  | .eqxTimeout ctx => Sys2Proof.Machine.execEqxTimeout ctx s
  | .digestComputeDone ctx => Sys2Proof.Machine.execDigestComputeDone ctx s
  | .digestRootReceive ctx rank root => Sys2Proof.Machine.execDigestRootReceive ctx rank root s
  | .stepCopyDone ctx page => Sys2Proof.Machine.execStepCopyDone ctx page s
  | .ckptPageDrained imageId page => Sys2Proof.Machine.execCkptPageDrained imageId page s
  | .ckptSeal imageId => Sys2Proof.Machine.execCkptSeal imageId s
  | .harvestComplete ctx badSegments => Sys2Proof.Machine.execHarvestComplete ctx badSegments s
  | .cfgApplyIdle txn => Sys2Proof.Machine.execCfgApplyIdle txn s
  | .txnVote port txnId ballot pkt => Sys2Proof.Machine.execTxnVote port txnId ballot pkt s
  | .txnDecision port txnId pkt => Sys2Proof.Machine.execTxnDecision port txnId pkt s
  | .voteTimeout ctx txnId => Sys2Proof.Machine.execVoteTimeout ctx txnId s
  | .decisionWaitTimeout ctx txnId => Sys2Proof.Machine.execDecisionWaitTimeout ctx txnId s
  | .ngfPortEnable port enable => Sys2Proof.Machine.execNgfPortEnable port enable s
  | .ngfPortRetrain port => Sys2Proof.Machine.execNgfPortRetrain port s
  | .ngfPortEncrypt port encrypt => Sys2Proof.Machine.execNgfPortEncrypt port encrypt s
  | .linkTrainDone port lanes => Sys2Proof.Machine.execLinkTrainDone port lanes s
  | .linkTrainTimeout port => Sys2Proof.Machine.execLinkTrainTimeout port s
  | .alignDone port => Sys2Proof.Machine.execAlignDone port s
  | .alignTimeout port => Sys2Proof.Machine.execAlignTimeout port s
  | .capabilityFlitSend port => Sys2Proof.Machine.execCapabilityFlitSend port s
  | .capabilityFlitReceive port flit => Sys2Proof.Machine.execCapabilityFlitReceive port flit s
  | .negotiateTimeout port => Sys2Proof.Machine.execNegotiateTimeout port s
  | .controlFlitReceive port payload frame => Sys2Proof.Machine.execControlFlitReceive port payload frame s
  | .fecLockLoss port => Sys2Proof.Machine.execFecLockLoss port s
  | .flitDataReceive port flit => Sys2Proof.Machine.execFlitDataReceive port flit s
  | .flitAckReceive port head payload check => Sys2Proof.Machine.execFlitAckReceive port head payload check s
  | .flitNakReceive port flit => Sys2Proof.Machine.execFlitNakReceive port flit s
  | .fabReadRequest port pkt => Sys2Proof.Machine.execFabReadRequest port pkt s
  | .fabWriteRequest port pkt => Sys2Proof.Machine.execFabWriteRequest port pkt s
  | .fabAtomicRequest port pkt => Sys2Proof.Machine.execFabAtomicRequest port pkt s
  | .fabResponse port pkt => Sys2Proof.Machine.execFabResponse port pkt s
  | .e2eAck partner seq => Sys2Proof.Machine.execE2eAck partner seq s
  | .e2eRetxTimeout partner seq => Sys2Proof.Machine.execE2eRetxTimeout partner seq s
  | .eptFill partner => Sys2Proof.Machine.execEptFill partner s
  | .txnSlotFree => Sys2Proof.Machine.execTxnSlotFree s
  | .collExponent port pkt => Sys2Proof.Machine.execCollExponent port pkt s
  | .collScale port pkt => Sys2Proof.Machine.execCollScale port pkt s
  | .collContribution port pkt => Sys2Proof.Machine.execCollContribution port pkt s
  | .collGather port pkt => Sys2Proof.Machine.execCollGather port pkt s
  | .collBusyResend partner seq => Sys2Proof.Machine.execCollBusyResend partner seq s
  | .reduceDeadline ctx bucket => Sys2Proof.Machine.execReduceDeadline ctx bucket s
  | .hbmPatrol ctx addr found => Sys2Proof.Machine.execHbmPatrol ctx addr found s
  | .pageMoveDone ctx page => Sys2Proof.Machine.execPageMoveDone ctx page s
  | .flashReadComplete channel retries failed => Sys2Proof.Machine.execFlashReadComplete channel retries failed s
  | .readDisturbScrub channel active => Sys2Proof.Machine.execReadDisturbScrub channel active s
  | .badBlockDetect channel spareLeft => Sys2Proof.Machine.execBadBlockDetect channel spareLeft s
  | .flashChannelFailure channel => Sys2Proof.Machine.execFlashChannelFailure channel s
  | .ctxStructUe ctx => Sys2Proof.Machine.execCtxStructUe ctx s
  | .partStructUe => Sys2Proof.Machine.execPartStructUe s
  | .dieLinkLoss link => Sys2Proof.Machine.execDieLinkLoss link s
  | .cpHeartbeatTimeout die => Sys2Proof.Machine.execCpHeartbeatTimeout die s
  | .injectedCheckTile engine badGroups => Sys2Proof.Machine.execInjectedCheckTile engine badGroups s
  | .refclkLoss => Sys2Proof.Machine.execRefclkLoss s
  | .pllLock => Sys2Proof.Machine.execPllLock s
  | .pllLockTimeout => Sys2Proof.Machine.execPllLockTimeout s
  | .droopStart cluster => Sys2Proof.Machine.execDroopStart cluster s
  | .droopEnd cluster => Sys2Proof.Machine.execDroopEnd cluster s
  | .clockGate cluster => Sys2Proof.Machine.execClockGate cluster s
  | .ppsEdge => Sys2Proof.Machine.execPpsEdge s
  | .govTick die => Sys2Proof.Machine.execGovTick die s
  | .unitReleaseRequest die unit => Sys2Proof.Machine.execUnitReleaseRequest die unit s
  | .overcurrent die => Sys2Proof.Machine.execOvercurrent die s
  | .emergencyRegrant die => Sys2Proof.Machine.execEmergencyRegrant die s
  | .brakeNAssert => Sys2Proof.Machine.execBrakeNAssert s
  | .brakeNRelease => Sys2Proof.Machine.execBrakeNRelease s
  | .ageingMeasure die => Sys2Proof.Machine.execAgeingMeasure die s
  | .ageingMeasureDone die slackPs vrAck => Sys2Proof.Machine.execAgeingMeasureDone die slackPs vrAck s
  | .thermalSample temps => Sys2Proof.Machine.execThermalSample temps s
  | .securityAlarm sensors => Sys2Proof.Machine.execSecurityAlarm sensors s
  | .alarmRearm sensor => Sys2Proof.Machine.execAlarmRearm sensor s
  | .alarmNRelease => Sys2Proof.Machine.execAlarmNRelease s
  | .vwmKekLoad => Sys2Proof.Machine.execVwmKekLoad s
  | .kekLoadDone => Sys2Proof.Machine.execKekLoadDone s
  | .vwmKekErase => Sys2Proof.Machine.execVwmKekErase s
  | .vwmAlarmClassWrite value => Sys2Proof.Machine.execVwmAlarmClassWrite value s
  | .vwmCheckCtrlWrite value => Sys2Proof.Machine.execVwmCheckCtrlWrite value s
  | .porstNDeassert => Sys2Proof.Machine.execPorstNDeassert s
  | .porstNAssert => Sys2Proof.Machine.execPorstNAssert s
  | .warmReset source => Sys2Proof.Machine.execWarmReset source s
  | .perstNRelease => Sys2Proof.Machine.execPerstNRelease s
  | .romComplete badLink => Sys2Proof.Machine.execRomComplete badLink s
  | .imageBufferWrite offset bytes => Sys2Proof.Machine.execImageBufferWrite offset bytes s
  | .vwmBootLenWrite value => Sys2Proof.Machine.execVwmBootLenWrite value s
  | .vwmBootGo => Sys2Proof.Machine.execVwmBootGo s
  | .vwmBootWarmReset => Sys2Proof.Machine.execVwmBootWarmReset s
  | .verifyDone => Sys2Proof.Machine.execVerifyDone s
  | .bringupDone report => Sys2Proof.Machine.execBringupDone report s
  | .bringupTimeout die => Sys2Proof.Machine.execBringupTimeout die s
  | .aonResetRelease => Sys2Proof.Machine.execAonResetRelease s
  | .aonRailFall => Sys2Proof.Machine.execAonRailFall s
  | .pldmBaseRequest binding => Sys2Proof.Machine.execPldmBaseRequest binding s
  | .pldmMonitorRequest binding req => Sys2Proof.Machine.execPldmMonitorRequest binding req s
  | .pldmFwUpdate binding req => Sys2Proof.Machine.execPldmFwUpdate binding req s
  | .mgmtFwStartTimeout => Sys2Proof.Machine.execMgmtFwStartTimeout s
  | .pldmOemRequest binding req => Sys2Proof.Machine.execPldmOemRequest binding req s
  | .spdmRequest binding req => Sys2Proof.Machine.execSpdmRequest binding req s
  | .evtMsixCoalesce => Sys2Proof.Machine.execEvtMsixCoalesce s
  | .vigilExamine queue => Sys2Proof.Machine.execVigilExamine queue s
  | .vigilFollowRequest graphId hops => Sys2Proof.Machine.execVigilFollowRequest graphId hops s
  | .engCntClear engine value => Sys2Proof.Machine.execEngCntClear engine value s
  | .engRunaheadWrite engine value => Sys2Proof.Machine.execEngRunaheadWrite engine value s
  | .accCtrlClear engine value => Sys2Proof.Machine.execAccCtrlClear engine value s
  | .splStageQuotaWrite cluster value => Sys2Proof.Machine.execSplStageQuotaWrite cluster value s
  | .splCtrlClearWait cluster value => Sys2Proof.Machine.execSplCtrlClearWait cluster value s
  | .splCtrlClearExp cluster value => Sys2Proof.Machine.execSplCtrlClearExp cluster value s
  | .qntCtrlClear quantiser value => Sys2Proof.Machine.execQntCtrlClear quantiser value s
  | .almBaseWrite ctx value => Sys2Proof.Machine.execAlmBaseWrite ctx value s
  | .cfgRngSeedWrite ctx value => Sys2Proof.Machine.execCfgRngSeedWrite ctx value s
  | .cfgRngStepWrite ctx value => Sys2Proof.Machine.execCfgRngStepWrite ctx value s
  | .cfgStreamBaseWrite ctx value => Sys2Proof.Machine.execCfgStreamBaseWrite ctx value s
  | .tierQuotaHbmWrite ctx value => Sys2Proof.Machine.execTierQuotaHbmWrite ctx value s
  | .tierQuotaFlashWrite ctx value => Sys2Proof.Machine.execTierQuotaFlashWrite ctx value s
  | .eqxCtrlWrite ctx value => Sys2Proof.Machine.execEqxCtrlWrite ctx value s
  | .eqxGroupBaseWrite ctx value => Sys2Proof.Machine.execEqxGroupBaseWrite ctx value s
  | .eqxGroupWrite ctx value => Sys2Proof.Machine.execEqxGroupWrite ctx value s
  | .eqxTimeoutWrite ctx value => Sys2Proof.Machine.execEqxTimeoutWrite ctx value s
  | .eqxCreditsWrite ctx value => Sys2Proof.Machine.execEqxCreditsWrite ctx value s
  | .eqxSyncCfgWrite value => Sys2Proof.Machine.execEqxSyncCfgWrite value s
  | .clkPpsCtrlWrite value => Sys2Proof.Machine.execClkPpsCtrlWrite value s
  | .ngfPartIdWrite value => Sys2Proof.Machine.execNgfPartIdWrite value s
  | .ngfFabDigestWrite value => Sys2Proof.Machine.execNgfFabDigestWrite value s
  | .ngfCtxCtrlWrite ctx value => Sys2Proof.Machine.execNgfCtxCtrlWrite ctx value s
  | .ngfCtrlClear value => Sys2Proof.Machine.execNgfCtrlClear value s
  | .cfgCtrlClear value => Sys2Proof.Machine.execCfgCtrlClear value s
  | .govCtrlWrite die value => Sys2Proof.Machine.execGovCtrlWrite die value s
  | .vwmEvtCtrlWrite value => Sys2Proof.Machine.execVwmEvtCtrlWrite value s
  | .vwmEvtConsWrite value => Sys2Proof.Machine.execVwmEvtConsWrite value s
  | .vwmVigilCtrlWrite value => Sys2Proof.Machine.execVwmVigilCtrlWrite value s
  | .vwmLcCtrlClear die value => Sys2Proof.Machine.execVwmLcCtrlClear die value s
  | .lanCtrlWrite value => Sys2Proof.Machine.execLanCtrlWrite value s
  | .lanConsWrite value => Sys2Proof.Machine.execLanConsWrite value s
  | .w1cWrite addr value hwSet => Sys2Proof.Machine.execW1cWrite addr value hwSet s
  | .registerWrite addr wide value => Sys2Proof.Machine.execRegisterWrite addr wide value s
  | .signedMaintenanceRequest kind index key sig => Sys2Proof.Machine.execSignedMaintenanceRequest kind index key sig s
  | .mctpSetEndpointId binding eid => Sys2Proof.Machine.execMctpSetEndpointId binding eid s
  | .arpIcmpEchoRequest frame => Sys2Proof.Machine.execArpIcmpEchoRequest frame s
  | .dhcpAddressAssign address => Sys2Proof.Machine.execDhcpAddressAssign address s
  | .mgmtFwBankStart => Sys2Proof.Machine.execMgmtFwBankStart s

end Sys2Proof.Machine
end

