-- ==== Sys2Proof/Machine/Tick.lean ====
section
/-! DEFINITION. What a nanosecond of the timebase does. -/

namespace Sys2Proof.Machine

open Sys2Proof

/-- One nanosecond: waits are noted (R403), flits that are filled in part leave, the timebase counts, and the grid edges among
its six root periods fall (R266, R342, R351). Nothing moves while the domains are stopped. -/
def State.tick (s : State) : State :=
  if !s.boot.running then s
  else
    let s := s.noteWaits.closeFlits
    let a := s.clk.roots
    let s := { s with clk := { s.clk with timebase := s.clk.timebase + 1, roots := a + 6 } }
    (List.range ((a + 6) / 4 - a / 4)).foldl (fun s i => s.gridEdge (a / 4 + i)) s

end Sys2Proof.Machine
end

