-- ==== Sys2Proof/Safety.lean ====
section
/-! DEFINITION. What the claims speak of: when a packet is dispatched and the state it leaves, when a context is not about
to be terminated, and what is well kept. -/

namespace Sys2Proof.Machine

open Sys2Proof

/-- The outcome is a next state: neither a fault nor a refusal. -/
def Goes (o : Out) : Prop := ∃ t, o = .next t

/-- The memories are in their canonical form: addresses rising, no byte listed that reads as an unlisted one. -/
def State.memWf (s : State) : Prop := Map.wf memDefault s.mem

/-- The register file is in its canonical form. -/
def State.regsWf (s : State) : Prop := Map.wf regDefault s.regs

/-! ### Packets -/

/-- The context of the queue whose ring holds the packet. -/
def State.ctxOf (s : State) (h : Hdr) : Nat := (s.queue h.ring.toNat).ctx

/-- The packet at the head of its ring can be read now: its queue exists and is served, its turn in the round of its die
has come, all its slots are published and intact, on ring pages as R303 asks (R308, R367). -/
structure State.Served (s : State) (h : Hdr) : Prop where
  range : inRange h.ring.toNat s.nQueues = true
  live : s.queueLive h.ring.toNat = true
  turn : s.turn h.ring.toNat = true
  slots : h.size.toNat + 1 ≤ (s.queue h.ring.toNat).published
  ring : (s.visited h.ring.toNat).fetchFault h.ring.toNat (h.size.toNat + 1) = none

/-- The packet at the head of its ring is dispatched now: it can be read, its header has no fault (R312), and nothing makes
it wait (R38, R239, R307, R315, R326, R335). -/
structure State.Ready (s : State) (h : Hdr) (o : Opc) : Prop extends s.Served h where
  header : s.headerFault h.ring.toNat h (some o) = none
  free : s.headWait h.ring.toNat h o (s.applyStops s.txnScopes (s.ctxOf h)) = none

/-- The header and the opcode row of a command that comes as a packet of an assigned opcode: its opcode, its size beyond one
slot, the queues that admit it, and whether it may be dispatched in HELD (R317, R320). No event has one. -/
def packetOf : Instr → Option (Hdr × Opc)
  | .nop h => some (h, ⟨0x000, 0, .any, false⟩)
  | .ctrSet h _ _ => some (h, ⟨0x001, 0, .any, false⟩)
  | .capRead h _ _ => some (h, ⟨0x002, 0, .any, true⟩)
  | .ctrRead h _ _ _ => some (h, ⟨0x003, 0, .any, false⟩)
  | .ctrWaitMem h _ _ => some (h, ⟨0x004, 0, .any, false⟩)
  | .memCopy h _ _ _ _ => some (h, ⟨0x100, 0, .context, true⟩)
  | .tbCopy h _ => some (h, ⟨0x101, 0, .context, true⟩)
  | .tbBuild h _ => some (h, ⟨0x102, 0, .context, true⟩)
  | .arrMatmul h _ => some (h, ⟨0x200, 1, .context, false⟩)
  | .arrDrain h _ => some (h, ⟨0x201, 0, .context, false⟩)
  | .arrMode h _ _ => some (h, ⟨0x202, 0, .context, false⟩)
  | .arrMapRead h _ _ _ => some (h, ⟨0x203, 0, .any, false⟩)
  | .qntConvert h _ => some (h, ⟨0x300, 1, .context, false⟩)
  | .qntScaleLoad h _ => some (h, ⟨0x301, 0, .context, false⟩)
  | .qntOutlierSelect h _ => some (h, ⟨0x302, 0, .context, false⟩)
  | .almSlotWrite h _ => some (h, ⟨0x310, 0, .context, true⟩)
  | .eltKernel h _ _ _ => some (h, ⟨0x320, 1, .context, false⟩)
  | .eltUpdate h _ => some (h, ⟨0x321, 1, .context, false⟩)
  | .rngStreamReg h _ => some (h, ⟨0x330, 0, .context, false⟩)
  | .fabGet h _ _ _ => some (h, ⟨0x400, 0, .context, true⟩)
  | .fabPut h _ _ _ => some (h, ⟨0x401, 0, .context, true⟩)
  | .fabAtomic h _ => some (h, ⟨0x402, 0, .context, true⟩)
  | .fabFence h => some (h, ⟨0x403, 0, .context, true⟩)
  | .fabTbCopy h _ => some (h, ⟨0x404, 0, .context, true⟩)
  | .collReduceScatter h _ => some (h, ⟨0x410, 1, .context, false⟩)
  | .collAllGather h _ => some (h, ⟨0x411, 0, .context, false⟩)
  | .fenceClear h _ => some (h, ⟨0x430, 0, .context, true⟩)
  | .partRejoin h _ _ => some (h, ⟨0x431, 0, .context, true⟩)
  | .tierMap h _ => some (h, ⟨0x500, 0, .context, true⟩)
  | .tierUnmap h _ => some (h, ⟨0x501, 0, .context, true⟩)
  | .tierSeal h _ => some (h, ⟨0x502, 0, .context, true⟩)
  | .tierUnseal h _ => some (h, ⟨0x503, 0, .context, true⟩)
  | .tierMigrate h _ => some (h, ⟨0x504, 0, .context, true⟩)
  | .tierQuery h _ => some (h, ⟨0x505, 0, .context, true⟩)
  | .eqxBarrier h _ => some (h, ⟨0x510, 0, .context, false⟩)
  | .eqxProtect h _ => some (h, ⟨0x511, 0, .context, false⟩)
  | .eqxResume h => some (h, ⟨0x512, 0, .context, true⟩)
  | .imageList h _ => some (h, ⟨0x513, 0, .context, true⟩)
  | .imageRelease h _ => some (h, ⟨0x514, 0, .context, true⟩)
  | .harvest h _ => some (h, ⟨0x515, 0, .context, true⟩)
  | .cfgBegin h => some (h, ⟨0x600, 0, .any, true⟩)
  | .cfgWrite h _ => some (h, ⟨0x601, 0, .any, true⟩)
  | .cfgAbort h => some (h, ⟨0x602, 0, .any, true⟩)
  | .cfgCommit h _ => some (h, ⟨0x603, 0, .any, true⟩)
  | .calLoad h _ => some (h, ⟨0x610, 0, .context, true⟩)
  | .queueCreate h _ => some (h, ⟨0x620, 0, .admin, false⟩)
  | .queueDestroy h _ => some (h, ⟨0x621, 0, .admin, false⟩)
  | .ctxAssign h _ => some (h, ⟨0x622, 0, .admin, false⟩)
  | .checkTile h _ _ _ => some (h, ⟨0x700, 0, .context, false⟩)
  | .vigilSnapshot h _ _ _ => some (h, ⟨0x701, 0, .any, false⟩)
  | .cntSelect h _ => some (h, ⟨0x702, 0, .any, false⟩)
  | _ => none

/-- The unit of a governor's die that an event names exists on every die (R353). -/
def GovUnit.onDie : GovUnit → Bool
  | .engine i => decide (i < 256)
  | .elt i => decide (i < 32)
  | .qnt i => decide (i < 16)
  | .coll => true

/-- The unit, by kind and number, that an event names and the part lacks (R1, R5): an engine, a quantiser, a cluster, a die or a
unit of one, a port, a flash channel, a die link, a queue that Vigil examines, or an instance of a register. -/
def State.absentUnit (s : State) (i : Instr) : Option (String × Nat) :=
  let beyond := fun (kind : String) (n count : Nat) => if inRange n count then none else some (kind, n)
  match i with
  | .arrAccept e _ | .rowIssue e _ _ | .cellUpdate e _ | .runPromotion e _ | .spillAdd e _ | .drainStart e _
  | .epilogueRowOutput e _ | .slotFree e _ | .preloadRegionAcquire e _ | .preloadRowComplete e _ _ | .outlierTerm e _ _
  | .spillRegionAcquire e | .chainRowReceive e | .deferredSramWrite e | .injectedCheckTile e _ =>
    beyond "engine" e.toNat s.nEng
  | .outlierGranuleAcquire u => beyond "quantiser" u.toNat s.nQnt
  | .droopStart k | .droopEnd k | .clockGate k => beyond "cluster" k.toNat s.nClus
  | .govTick d | .overcurrent d | .emergencyRegrant d | .ageingMeasure d | .ageingMeasureDone d _ _ | .cpHeartbeatTimeout d =>
    beyond "die" d.toNat s.dies
  | .unitReleaseRequest d u => if GovUnit.onDie u then beyond "unit" d.toNat s.dies else some ("unit", d.toNat)
  | .ngfPortEnable n _ | .ngfPortRetrain n | .ngfPortEncrypt n _ | .linkTrainDone n _ | .linkTrainTimeout n | .alignDone n
  | .alignTimeout n | .capabilityFlitSend n | .capabilityFlitReceive n _ | .negotiateTimeout n | .controlFlitReceive n _ _
  | .fecLockLoss n | .flitDataReceive n _ | .flitAckReceive n _ _ _ | .flitNakReceive n _ | .fabReadRequest n _
  | .fabWriteRequest n _ | .fabAtomicRequest n _ | .fabResponse n _ | .collExponent n _ | .collScale n _
  | .collContribution n _ | .collGather n _ | .txnVote n _ _ _ | .txnDecision n _ _ => beyond "port" n.toNat s.nPorts
  | .flashReadComplete k _ _ | .readDisturbScrub k _ | .badBlockDetect k _ | .flashChannelFailure k =>
    beyond "flash channel" k.toNat s.nChan
  | .dieLinkLoss l | .romComplete (some l) => if s.hasLink l.toNat then none else some ("die link", l.toNat)
  | .vigilExamine q => beyond "queue" q.toNat s.nQueues
  | .engCntClear e _ | .engRunaheadWrite e _ | .accCtrlClear e _ => beyond "register" e.toNat s.nEng
  | .splStageQuotaWrite k _ | .splCtrlClearWait k _ | .splCtrlClearExp k _ | .qntCtrlClear k _ =>
    beyond "register" k.toNat s.nClus
  | .govCtrlWrite d _ | .vwmLcCtrlClear d _ => beyond "register" d.toNat s.dies
  | _ => none

/-- The packet is taken from its ring and is in flight; its calendar has moved on (R307, R312, R326). -/
def State.dispatched (s : State) (h : Hdr) (code : Nat) : State :=
  let s := s.visited h.ring.toNat
  ((s.addFlight (s.mkFlight h.ring.toNat h code)).take h.ring.toNat (h.size.toNat + 1)).calAdvance h.ring.toNat h

/-- What a dispatched packet leaves: `run` works on the command, by its number and its context; a context that has
consumed poison in its first step is terminated (R368). -/
def State.after (s : State) (h : Hdr) (code : Nat) (run : Nat → Nat → State → State) : State :=
  (run s.nextId (s.ctxOf h) (s.dispatched h code)).settle (s.ctxOf h)

/-- No termination of the context hangs in the air (R368). -/
def State.Calm (s : State) (c : Nat) : Prop := (s.ctx c).consumed = false

/-- A place of `n` bytes is outside `m` bytes at `a`. -/
def Apart (x a n : Nat) : Prop := x < a ∨ a + n ≤ x

/-- An engine's unit takes part in the part's work: the engine exists, the clocks run, and its mode has the unit. -/
def State.UnitLive (s : State) (e q : Nat) : Prop :=
  inRange e s.nEng = true ∧ s.engLive = true ∧ ((s.eng e).quarter = true ∨ q = 0)

end Sys2Proof.Machine
end

