-- ==== Sys2Proof/Certificates/Slice0/Obligations.lean ====
section
/-! DEFINITION. The statements for the provers. A packet's statement says which state answers it once it is dispatched
(State.Ready) and its checks find no fault; an event's statement says which state answers it when its precondition
holds. `State.after` is the state that a dispatched packet leaves. -/

open Sys2Proof Sys2Proof.Machine

/-! ### The block as a whole -/

/-- A step runs the command at the front of the queue, on the state with the queue's rest. -/
def Obligations.StepRunsFront : Prop :=
  ∀ (c : Instr) (s : State), step { s with pending := c :: s.pending } = exec c s

/-- On an empty queue a nanosecond passes: the timebase counts while the clocks run, and the part stands while they do
not (R343, R351; that an idle step is a nanosecond is the model's, log entry 8). -/
def Obligations.IdleStepIsANanosecond : Prop :=
  ∀ (s : State), s.pending = [] →
    ∃ t, step s = .next t ∧ t.pending = [] ∧ t.mem = s.mem ∧ t.queues = s.queues ∧ t.flight = s.flight
      ∧ (s.boot.running = true → t.clk.timebase = s.clk.timebase + 1 ∧ t.clk.roots = s.clk.roots + 6)
      ∧ (s.boot.running = false → t = s)

/-- What reset leaves: phase ROM with the clocks stopped, no queue, no command, no context, no page and no image, empty
memory, an unlocked debug port, no key, and every register of the register maps at the reset value that its row of the
maps holds (R9, R407 to R409; where the manual leaves a value to start-up or gives none, the value is the model's, log
entries 1 to 5). -/
def Obligations.ResetLeaves : Prop :=
  State.reset.memWf ∧ State.reset.regsWf ∧ State.reset.pending = []
  ∧ State.reset.boot.phase = .rom ∧ State.reset.boot.running = false ∧ State.reset.boot.pllLocked = false
  ∧ State.reset.flight = [] ∧ State.reset.queues = [] ∧ State.reset.pages = [] ∧ State.reset.images = []
  ∧ State.reset.clk.timebase = 0 ∧ State.reset.sec.kek = none ∧ State.reset.sec.debugLocked = false
  ∧ State.reset.evt.log = [] ∧ State.reset.mgmt.running = true
  ∧ (∀ a, State.reset.byte a = 0) ∧ (∀ c, (State.reset.ctx c).phase = .idle) ∧ (∀ n, (State.reset.port n).st = .disabled)
  ∧ (∀ r, (r, r.info) ∈ regTable) ∧ (∀ (r : Reg) (i : Nat), State.reset.reg r i = r.info.reset)
  ∧ (∀ i, State.reset.reg .engRunahead i = 8 ∧ State.reset.reg .lanCtrl i = 0x8000A
      ∧ State.reset.reg .vwmBootStatus i = 0x10000000 ∧ State.reset.reg .eqxEpoch i = 0 ∧ State.reset.reg .cfgGen i = 0)

/-- The memories keep their canonical form at every step, whatever the command. -/
def Obligations.MemoryStaysCanonical : Prop :=
  ∀ (s t : State), s.memWf → step s = .next t → t.memWf

/-- Every event that names an engine, a quantiser, a cluster, a die, a unit of a die, a port, a flash channel, a die link, a queue
to examine or an instance of a register that the part's variant does not have (R1, R5) stops with that unit's fault, which is the
model's own stop (log entry 7). -/
def Obligations.AbsentUnitsFault : Prop :=
  ∀ (s : State) (i : Instr) (kind : String) (n : Nat),
    s.absentUnit i = some (kind, n) → exec i s = .fault (.noSuchUnit kind n)

/-! ### The head of a queue (R18, R307, R312, R315) -/

/-- A packet stays in its ring while its queue is not served, its turn has not come or it waits: nothing but the visit and
the queue's own wait fields changes, whatever its opcode; what the fetch finds wrong with the ring stops the queue, ends its
context, or on the admin ring is a part fault (R303, R308, R315, R319 to R321, R367). That a packet not published whole, or
one that waits, uses up its queue's visit is the model's reading (log entry 81), and so is that the slots are read at every
visit (log entry 12). -/
def Obligations.WaitingPacketStays : Prop :=
  ∀ (i : Instr) (h : Hdr) (o : Opc) (s : State), packetOf i = some (h, o) →
    let q := h.ring.toNat
    let seen := s.visited q
    let c := (s.queue q).ctx
    seen = { s with visits := seen.visits }
    ∧ ((inRange q s.nQueues = false ∨ s.queueLive q = false ∨ s.turn q = false) → exec i s = .next s)
    ∧ (inRange q s.nQueues = true → s.queueLive q = true → s.turn q = true →
        ((s.queue q).published < h.size.toNat + 1 → exec i s = .next seen)
        ∧ (h.size.toNat + 1 ≤ (s.queue q).published →
            let slots := (s.queue q).slotAddrs (h.size.toNat + 1)
            ((slots.any fun a => !s.ringOk c a) = true → exec i s = .next (seen.queueStop q))
            ∧ ((slots.all fun a => s.ringOk c a) = true → (slots.any fun a => s.vaPoisoned c a) = true →
                (c ≠ adminCtx → exec i s = .next (seen.terminate c 2))
                ∧ (c = adminCtx → exec i s = .next seen.partFaulted))))
    ∧ (∀ w, s.Served h → s.headerFault q h (some o) = none →
        s.headWait q h o (s.applyStops s.txnScopes (s.ctxOf h)) = some w →
        exec i s = .next (seen.setQueue q { s.queue q with
          waiting := w.1 == 1 || w.1 == 2 || w.1 == 3, waitState := w.1, waitNode := w.2 }))

/-- The order of the header checks: the version of word 0, the opcode, which a queue that does not admit it leaves
unassigned, the queue of word 0, the size of word 1; the first that fails decides (R18, R312). -/
def Obligations.HeaderFaultsInOrder : Prop :=
  ∀ (s : State) (q : Nat) (h : Hdr) (o : Opc),
    let admits := (o.queues = .context → (s.queue q).ctx ≠ adminCtx) ∧ (o.queues = .admin → (s.queue q).ctx = adminCtx)
    (h.pver.toNat ≠ (s.queue q).pver → s.headerFault q h (some o) = some ⟨St.badVersion, 0⟩
      ∧ s.headerFault q h none = some ⟨St.badVersion, 0⟩)
    ∧ (h.pver.toNat = (s.queue q).pver →
        s.headerFault q h none = some ⟨St.badOpcode, 0⟩
        ∧ (¬ admits → s.headerFault q h (some o) = some ⟨St.badOpcode, 0⟩)
        ∧ (admits → h.queue.toNat ≠ q → s.headerFault q h (some o) = some ⟨St.badField, 0⟩)
        ∧ (admits → h.queue.toNat = q → h.size.toNat ≠ o.size → s.headerFault q h (some o) = some ⟨St.badField, 1⟩)
        ∧ (admits → h.queue.toNat = q → h.size.toNat = o.size → s.headerFault q h (some o) = none))

/-- A packet with a header fault, of whatever opcode, assigned or not, completes at the head of its queue with that status, and none
of its flags applies (R312). That it stays while its record has no place (R307), a CTR_WAIT_MEM holds its queue or its calendar
does not stand at it, and that nothing but the visit and the queue's own wait fields changes then, is the model's reading (log
entry 17). -/
def Obligations.HeaderFaultCompletes : Prop :=
  ∀ (h : Hdr) (s : State) (e : Err), s.Served h →
    let q := h.ring.toNat
    let seen := s.visited q
    let done := fun (code : Nat) =>
      (((seen.addFlight (seen.mkFlight q { h with signalEn := false, noCpl := false, irq := false } code)).take q
        (h.size.toNat + 1)).reject s.nextId e)
    let stays := fun (w : Nat × Nat) => seen.setQueue q { s.queue q with
      waiting := w.1 == 1 || w.1 == 2 || w.1 == 3, waitState := w.1, waitNode := w.2 }
    (∀ (i : Instr) (o : Opc), packetOf i = some (h, o) → s.headerFault q h (some o) = some e →
      (s.faultWait q = none → exec i s = .next (done o.code))
      ∧ (∀ w, s.faultWait q = some w → exec i s = .next (stays w)))
    ∧ (∀ op : BitVec 12, assignedOpcodes.contains op.toNat = false → s.headerFault q h none = some e →
        (s.faultWait q = none → exec (.unassignedOpcode h op) s = .next (done op.toNat))
        ∧ (∀ w, s.faultWait q = some w → exec (.unassignedOpcode h op) s = .next (stays w)))
    ∧ (s.faultWait q = none ↔ s.memWaits q = false ∧ s.calAllows q = true ∧ s.limitsAllow q = true)

/-! ### Control commands and doorbells (R305, R321) -/

/-- NOP, CTR_SET, CAP_READ, CTR_READ and CTR_WAIT_MEM run on dispatch; a CTR_WAIT_MEM test, made once the flash reads of its
word are over (R223), ends with ST_UNMAPPED on an unmapped word and with ST_POISONED on a poisoned one, completes on a word
of at least `value`, and else keeps the queue waiting (R229, R321); one that ends a wait after earlier reads leaves effect 1
(R203). -/
def Obligations.ControlCommandsRun : Prop :=
  (∀ (h : Hdr) (s : State),
     (s.Ready h ⟨0x000, 0, .any, false⟩ → exec (.nop h) s = .next (s.after h 0x000 fun id _ t => t.finishNow id))
     ∧ (∀ k v, s.Ready h ⟨0x001, 0, .any, false⟩ →
         exec (.ctrSet h k v) s = .next (s.after h 0x001 fun id c t => (t.setCtr c k.toNat v).finishNow id))
     ∧ (∀ dst n, s.Ready h ⟨0x002, 0, .any, true⟩ → (s.dispatched h 0x002).capReadErr (s.ctxOf h) dst n = none →
         exec (.capRead h dst n) s = .next (s.after h 0x002 fun id c t => t.runCapRead id c dst n))
     ∧ (∀ first n dst, s.Ready h ⟨0x003, 0, .any, false⟩ →
         (s.dispatched h 0x003).ctrReadErr (s.ctxOf h) first n dst = none →
         exec (.ctrRead h first n dst) s = .next (s.after h 0x003 fun id c t =>
           ((t.names id c [] [(dst.toNat, 4 * n.toNat)] []).store id c dst.toNat (t.ctrBytes c first n) false).finishNow id))
     ∧ (∀ a v, s.Ready h ⟨0x004, 0, .any, false⟩ → a.toNat % 8 = 0 →
         exec (.ctrWaitMem h a v) s = .next (s.after h 0x004 fun id c t =>
           (t.names id c [(a.toNat, 8)] [] []).readAndTest id c h a v)))
  ∧ (∀ (s : State) (id c : Nat) (h : Hdr) (a v : W64),
       (s.flashPieces id c [(a.toNat, 8)] = [] → s.readAndTest id c h a v = s.waitTest id c a v)
       ∧ (s.flashPieces id c [(a.toNat, 8)] ≠ [] →
           (s.readAndTest id c h a v).ftl.reads = s.ftl.reads ++ s.flashPieces id c [(a.toNat, 8)]
           ∧ (s.readAndTest id c h a v).mem = s.mem ∧ (s.readAndTest id c h a v).ctrs = s.ctrs))
  ∧ (∀ (s : State) (id c : Nat) (a v : W64) (f : Flight), s.flightOf id = some f →
       (s.chkRead c 4 a 8 = none → s.vaPoisoned c a.toNat = false → v.toNat ≤ (s.rd64 c a.toNat).toNat →
         s.waitTest id c a v
           = (s.complete id).updQueue f.queue fun x => { x with waiting := false, waitState := 0, waitNode := 0 })
       ∧ (∀ e, s.chkRead c 4 a 8 = some e → f.made = true →
         s.waitTest id c a v = ((s.failFlight id e.st e.detail).complete id).updQueue f.queue fun x =>
           { x with waiting := false, waitState := 0, waitNode := 0 })
       ∧ (∀ e, s.chkRead c 4 a 8 = some e → f.made = false →
         s.waitTest id c a v
           = (s.reject id e).updQueue f.queue fun x => { x with waiting := false, waitState := 0, waitNode := 0 })
       ∧ (s.chkRead c 4 a 8 = none → s.vaPoisoned c a.toNat = true →
         s.waitTest id c a v = (((s.consume id c a.toNat).outcome id St.poisoned 0 0).complete id).updQueue f.queue fun x =>
           { x with waiting := false, waitState := 0, waitNode := 0 })
       ∧ (s.chkRead c 4 a 8 = none → s.vaPoisoned c a.toNat = false → (s.rd64 c a.toNat).toNat < v.toNat →
         ((s.waitTest id c a v).queue f.queue).waiting = true ∧ (s.waitTest id c a v).mem = s.mem
         ∧ (s.waitTest id c a v).ctrs = s.ctrs))

/-- The doorbells: a producer index publishes the slots up to it, a consumer index frees the records up to it, an index
beyond the ring sets bad_write and nothing else (R305); a retest looks at the waiting command again (R321). -/
def Obligations.DoorbellsPublishAndFree : Prop :=
  ∀ (s : State) (q : BitVec 15), (s.queue q.toNat).present = true → s.boot.phase = .ready →
    (∀ i : BitVec 16, i.toNat < 2 ^ (s.queue q.toNat).ringLog2 →
      ∃ t, exec (.cfgDbProd q i) s = .next t ∧ (t.queue q.toNat).prod = i.toNat
        ∧ (t.queue q.toNat).published = (s.queue q.toNat).published
            + (i.toNat + 2 ^ (s.queue q.toNat).ringLog2 - (s.queue q.toNat).prod) % 2 ^ (s.queue q.toNat).ringLog2
        ∧ (∀ r, r ≠ q.toNat → t.queue r = s.queue r) ∧ t = { s with queues := t.queues })
    ∧ (∀ i : BitVec 16, 2 ^ (s.queue q.toNat).ringLog2 ≤ i.toNat →
      exec (.cfgDbProd q i) s = .next (s.setQueue q.toNat { s.queue q.toNat with badWrite := true }))
    ∧ (∀ i : BitVec 16, i.toNat < 2 ^ (s.queue q.toNat).cplLog2 →
      ∃ t, exec (.cfgDbCons q i) s = .next t ∧ (t.queue q.toNat).cons = i.toNat
        ∧ (t.queue q.toNat).unread = (s.queue q.toNat).unread
            - (i.toNat + 2 ^ (s.queue q.toNat).cplLog2 - (s.queue q.toNat).cons) % 2 ^ (s.queue q.toNat).cplLog2
        ∧ (∀ r, r ≠ q.toNat → t.queue r = s.queue r) ∧ t = { s with queues := t.queues })
    ∧ (∀ i : BitVec 16, 2 ^ (s.queue q.toNat).cplLog2 ≤ i.toNat →
      exec (.cfgDbCons q i) s = .next (s.setQueue q.toNat { s.queue q.toNat with badWrite := true }))
    ∧ (∀ f a v, (s.queueFlights q.toNat).find? (fun g => match g.work with | .waitMem _ _ => true | _ => false) = some f →
      f.work = .waitMem a v → s.boot.partFault = false → s.boot.running = true →
      (s.reading f.id = false → exec (.ctrWaitMemRetest q) s = .next ((s.readAndTest f.id f.ctx f.hdr a v).settle f.ctx))
      ∧ (s.reading f.id = true → exec (.ctrWaitMemRetest q) s = .next s))

/-! ### Data movement (R208 to R211, R223, R227) -/

/-- MEM_COPY, TB_COPY and TB_BUILD run at once, or once the flash reads that serve them are over (R208 to R211, R223).
A source without a page on flash runs its command at once; one with such pages queues their reads, and nothing of the
command is done before them. The oldest read of a channel completes: its retries are counted, a failed one poisons a line
of those that it read, and the command whose last read it was goes on (R202, R223, R226, R367). The order of a channel's
reads, the one line of a failed read and the wait for them are the model's reading (log entry 52). -/
def Obligations.DataMovementRuns : Prop :=
  (∀ (h : Hdr) (s : State),
     (∀ src dst len ecc, s.Ready h ⟨0x100, 0, .context, true⟩ →
         (s.dispatched h 0x100).memCopyErr (s.ctxOf h) src dst len = none →
         exec (.memCopy h src dst len ecc) s = .next (s.after h 0x100 fun id c t =>
           (t.names id c [(src.toNat, len.toNat)] [(dst.toNat, len.toNat)] []).withReads id c [(src.toNat, len.toNat)]
             (.memCopy h src dst len ecc) fun t => t.runMemCopy id c src dst len ecc))
     ∧ (∀ p, s.Ready h ⟨0x101, 0, .context, true⟩ → (s.dispatched h 0x101).tbCopyErr (s.ctxOf h) p = none →
         exec (.tbCopy h p) s = .next (s.after h 0x101 fun id c t =>
           (t.names id c ((tbBlocks p).map fun b => (b.1, blockBytes)) ((tbBlocks p).map fun b => (b.2, blockBytes))
             []).withReads id c ((tbBlocks p).map fun b => (b.1, blockBytes)) (.tbCopy h p) fun t => t.runTbCopy id c p))
     ∧ (∀ p, s.Ready h ⟨0x102, 0, .context, true⟩ → (s.dispatched h 0x102).tbBuildErr (s.ctxOf h) p = none →
         exec (.tbBuild h p) s = .next (s.after h 0x102 fun id c t =>
           (t.names id c (tbSources p) [(p.dst.toNat, blockBytes)] []).withReads id c (tbSources p) (.tbBuild h p)
             fun t => t.runTbBuild id c p)))
  ∧ (∀ (s : State) (id c : Nat) (rs : List (Nat × Nat)) (cmd : Instr) (body : State → State),
       (s.flashPieces id c rs = [] → s.withReads id c rs cmd body = body s)
       ∧ (s.flashPieces id c rs ≠ [] →
           (s.withReads id c rs cmd body).ftl.reads = s.ftl.reads ++ s.flashPieces id c rs
           ∧ (s.withReads id c rs cmd body).mem = s.mem ∧ (s.withReads id c rs cmd body).regs = s.regs
           ∧ (s.withReads id c rs cmd body).pages = s.pages
           ∧ ∀ f, s.flightOf id = some f → ∃ g, (s.withReads id c rs cmd body).flightOf id = some g ∧ g.cmd = some cmd
               ∧ g.finished = f.finished ∧ g.status = f.status))
  ∧ (∀ (s : State) (k : BitVec 5) (retries : Nat) (failed : Bool), inRange k.toNat s.nChan = true →
       (s.ftl.reads.find? (fun r => r.chan == k.toNat) = none → exec (.flashReadComplete k retries failed) s = .next s)
       ∧ ∀ r : FlashRead, s.ftl.reads.find? (fun r => r.chan == k.toNat) = some r →
           let u := s.endRead r retries failed
           (r.flight = none → exec (.flashReadComplete k retries failed) s = .next u)
           ∧ (∀ id, r.flight = some id →
               (u.reading id = true → exec (.flashReadComplete k retries failed) s = .next (u.goOn id))
               ∧ (∀ f, u.reading id = false → u.flightOf id = some f → exec (.flashReadComplete k retries failed) s
                   = .next (((u.resume f).wakeUnits (u.unitsOf f)).settle f.ctx))
               ∧ (u.reading id = true → u.goOn id = u))
           ∧ u.ftl.reads = dropFirst (fun x => x.chan == r.chan) s.ftl.reads
           ∧ u.reg .ftlReadRetry 0 = Reg.cut .ftlReadRetry (s.reg .ftlReadRetry 0 + BitVec.ofNat 64 retries)
           ∧ u.mem = s.mem ∧ u.flight = s.flight
           ∧ (failed = true → 0 < r.len → ∃ i, i < (r.off % 64 + r.len + 63) / 64
               ∧ u.poison = NatSet.ins (physFlash r.fpage r.off / 64 + i) s.poison)
           ∧ (failed = false → u.poison = s.poison))

/-- The HBM patrol: a clean line changes nothing; a corrected error is counted; an uncorrectable one is counted and
marks its line as poisoned, and no byte changes (R227, R228). -/
def Obligations.PatrolCountsAndPoisons : Prop :=
  ∀ (s : State) (ctx : BitVec 6) (a : W64) (p : Nat), s.readPhys ctx.toNat a.toNat = some p →
    memStride ≤ p → p < 2 * memStride →
    exec (.hbmPatrol ctx a .clean) s = .next s
    ∧ (∃ t, exec (.hbmPatrol ctx a .corrected) s = .next t ∧ t.mem = s.mem ∧ t.poison = s.poison
        ∧ t.reg .tierHbmCe 0 = Reg.cut .tierHbmCe (s.reg .tierHbmCe 0 + 1) ∧ t.reg .tierHbmUe 0 = s.reg .tierHbmUe 0)
    ∧ (∃ t, exec (.hbmPatrol ctx a .uncorrectable) s = .next t ∧ t.mem = s.mem
        ∧ t.poison = NatSet.ins (p / 64) s.poison
        ∧ t.reg .tierHbmUe 0 = Reg.cut .tierHbmUe (s.reg .tierHbmUe 0 + 1) ∧ t.reg .tierHbmCe 0 = s.reg .tierHbmCe 0)

/-! ### Engines (R86 to R116, R119 to R142) -/

/-- An array command that names an engine of its context reaches that engine; ARR_MAP_READ writes the records of a range
of engines, on a queue of any context, the admin queue among them (R110, R111, R114 to R116, R320, R371). -/
def Obligations.ArrayCommandsReachEngines : Prop :=
  ∀ (h : Hdr) (s : State),
    (∀ p, s.Ready h ⟨0x200, 1, .context, false⟩ → (s.dispatched h 0x200).chkEngine (s.ctxOf h) 4 p.engine.toNat = none →
        exec (.arrMatmul h p) s = .next (s.after h 0x200 fun id c t =>
          t.reach p.engine.toNat (if (t.eng p.engine.toNat).quarter then p.quarter.toNat else 0) id c (.matmul p)))
    ∧ (∀ p, s.Ready h ⟨0x201, 0, .context, false⟩ → (s.dispatched h 0x201).chkEngine (s.ctxOf h) 4 p.engine.toNat = none →
        exec (.arrDrain h p) s = .next (s.after h 0x201 fun id c t => t.reach p.engine.toNat 0 id c (.drain p)))
    ∧ (∀ e m, s.Ready h ⟨0x202, 0, .context, false⟩ → (s.dispatched h 0x202).chkEngine (s.ctxOf h) 4 e.toNat = none →
        exec (.arrMode h e m) s = .next (s.after h 0x202 fun id c t => t.reach e.toNat 0 id c (.mode m)))
    ∧ (∀ e pat bad, s.Ready h ⟨0x700, 0, .context, false⟩ →
        (s.dispatched h 0x700).chkEngine (s.ctxOf h) 4 e.toNat = none →
        exec (.checkTile h e pat bad) s = .next (s.after h 0x700 fun id c t =>
          t.reach e.toNat 0 id c (.check pat.toNat bad)))
    ∧ (∀ dst first n, s.Ready h ⟨0x203, 0, .any, false⟩ →
        (s.dispatched h 0x203).mapReadErr (s.ctxOf h) dst first n = none →
        exec (.arrMapRead h dst first n) s = .next (s.after h 0x203 fun id c t =>
          ((t.names id c [] [(dst.toNat, 32 * n.toNat)] []).store id c dst.toNat
            ((List.range n.toNat).flatMap fun i => t.mapRecord (first.toNat + i)) false).finishNow id))

/-- A field that names an engine is checked for range, then ownership, then retirement (R309). -/
def Obligations.EngineFieldChecks : Prop :=
  ∀ (s : State) (c w e : Nat),
    (inRange e s.nEng = false → s.chkEngine c w e = some ⟨St.badField, BitVec.ofNat 32 w⟩)
    ∧ (inRange e s.nEng = true → s.ownerOf (e / 16) ≠ some c → s.chkEngine c w e = some ⟨St.notOwner, BitVec.ofNat 32 w⟩)
    ∧ (inRange e s.nEng = true → s.ownerOf (e / 16) = some c → s.retEng.contains e = true →
        s.chkEngine c w e = some ⟨St.engineRetired, 0⟩)
    ∧ (inRange e s.nEng = true → s.ownerOf (e / 16) = some c → s.retEng.contains e = false → s.chkEngine c w e = none)

/-- The rows of an engine's unit that works: acceptance, row cycles, cell updates, promotions and spills (R87 to R118, R126 to
R133), and those of drains, chains and preloads, and its injected check tile (R119 to R142, R371). Work waits while the
engine holds no grant (R356), and a context that consumed poison in its first step ends after the row (R368). Which element
engine of the cluster computes the outlier terms (R122) is the model's choice (log entry 82). -/
def Obligations.EngineRowsRun : Prop :=
  (∀ (s : State) (e : BitVec 11) (q : BitVec 2), s.UnitLive e.toNat q.toNat →
     let u := s.unit e.toNat q.toNat
     let does := fun (c : Instr) (t : State) => exec c s = .next (t.settleOwner e.toNat)
     ((s.eng e.toNat).modeUntil ≤ s.clusCycles (clusterOfEng e.toNat) →
         (∀ m, s.frontRuns e.toNat = none → (s.eng e.toNat).head q.toNat = some m →
             does (.arrAccept e q) (s.accept e.toNat q.toNat m))
         ∧ (∀ t, s.frontRuns e.toNat = some t → does (.arrAccept e q) t))
     ∧ (s.clusCycles (clusterOfEng e.toNat) < (s.eng e.toNat).modeUntil → does (.arrAccept e q) s)
     ∧ (∀ n t, (s.eng e.toNat).spillWaiter = some (n, t) →
         does (.spillRegionAcquire e) ((s.giveRegion e.toNat n t.id t.needGr).poke e.toNat n))
     ∧ (s.engGranted e.toNat = true →
         (∀ b, u.busy = true → does (.rowIssue e q b) (s.unitCycle e.toNat q.toNat b))
         ∧ (∀ x rest, takeDue (fun (x : Issue) => x.due) u.cycle u.issues = some (x, rest) →
             does (.cellUpdate e q) ((s.updUnit e.toNat q.toNat fun u => u.update x rest).poke e.toNat q.toNat))
         ∧ (∀ x rest, takeDue (fun (x : Promo) => x.due) u.cycle u.promos = some (x, rest) →
             does (.runPromotion e q) ((s.promote e.toNat q.toNat x rest).poke e.toNat q.toNat))
         ∧ (∀ x rest, takeDue (fun (x : SpillDue) => x.due) u.cycle u.spillAdds = some (x, rest) →
             does (.spillAdd e q) ((s.spillRow e.toNat q.toNat x rest).poke e.toNat q.toNat))
         ∧ (∀ t, u.drainDue = some t → does (.drainStart e q) (s.startDrain e.toNat q.toNat t))
         ∧ (∀ d o t, u.drains.findSome? (fun d =>
               (d.outs.head?.filter fun o => decide (o.1 ≤ u.cycle)).map fun o => (d, o)) = some (d, o) →
             u.tile? d.tile = some t →
             does (.epilogueRowOutput e q) (s.outputRow e.toNat q.toNat t d o.2.1 o.2.2))
         ∧ (∀ d, u.drains.find? (fun d =>
               (d.freeAt.any fun n => decide (n ≤ u.cycle)) && (u.slot d.slot).tile == some d.tile
               && (u.tile? d.tile).any fun t => !t.first.midLink || decide (t.m ≤ d.done)) = some d →
             does (.slotFree e q)
               (((s.freeSlot e.toNat q.toNat d.slot).pruneDrains e.toNat q.toNat).poke e.toNat q.toNat)))
     ∧ (s.engGranted e.toNat = false → ∀ c ∈ [Instr.rowIssue e q true, .rowIssue e q false, .cellUpdate e q,
         .runPromotion e q, .spillAdd e q, .drainStart e q, .epilogueRowOutput e q, .slotFree e q], does c s))
  ∧ (∀ (s : State) (e : BitVec 11) (q : BitVec 2) (r : BitVec 7), s.UnitLive e.toNat q.toNat →
       let u := s.unit e.toNat q.toNat
       let does := fun (c : Instr) (t : State) => exec c s = .next (t.settleOwner e.toNat)
       (∀ t, (s.eng e.toNat).chainIn.findSome? (fun x => s.receive e.toNat x) = some t → does (.chainRowReceive e) t)
       ∧ ((s.eng e.toNat).chainIn.findSome? (fun x => s.receive e.toNat x) = none → does (.chainRowReceive e) s)
       ∧ (∀ t k, (s.eng e.toNat).quarter = true → u.freePre = some k →
           u.tiles.find? (fun t => t.placed && !t.isOver && t.pre.isSome && (u.slot t.slot).tile == some t.id
             && (u.slot t.slot).st == .fill && (u.slot t.slot).preRegion.isNone) = some t →
           does (.preloadRegionAcquire e q)
             (s.updSlot e.toNat q.toNat t.slot fun x => { x with preRegion := some k }))
       ∧ (∀ t d, s.engGranted e.toNat = true →
           u.preTile r.toNat (fun x => !(s.eng e.toNat).quarter || x.preRegion.isSome) = some (t, d) →
           (d.outlier = true → ((u.slot t.slot).outliers.any fun o => o.1 == r.toNat) = true) →
           does (.preloadRowComplete e q r) (s.preloadRow e.toNat q.toNat t d r.toNat))
       ∧ (∀ t d, u.preTile r.toNat (fun x => !x.outliers.any fun o => o.1 == r.toNat) = some (t, d) →
           let k := clusterOfEng e.toNat
           let el := s.termElt k
           d.outlier = true → s.reading t.flight = false → s.grantedTo (el / 32) (.elt (el % 32)) = true →
           does (.outlierTerm e q r) ((((((s.outlierRow e.toNat q.toNat t d r.toNat).eltBusy el (Config.eltCycles 0 t.n)).touchUnit
             (el / 32) (.elt (el % 32))).pokeElt (2 * k)).pokeElt (2 * k + 1))))
       ∧ (∀ n bad, 0 < n → s.fld .vwmCheckCtrl 0 15 0 = n → (s.eng e.toNat).checkReady = true →
           s.retEng.contains e.toNat = false → s.boot.phase = .ready →
           (s.eng e.toNat).checkAt + 1000000 * n ≤ s.now →
           let unit := GovUnit.engine (e.toNat % 256)
           (s.engGranted e.toNat = false →
             does (.injectedCheckTile e bad) (s.giveWork (e.toNat / 256) unit))
           ∧ (s.engGranted e.toNat = true →
             does (.injectedCheckTile e bad)
               (((s.touchUnit (e.toNat / 256) unit).runCheck e.toNat (s.eng e.toNat).checkPat bad).2.2.updEng e.toNat
                 fun x => { x with checkAt := s.now, checkPat := (x.checkPat + 1) % 16 }))))

/-- A store to operand SRAM that waited for an array command's reads lands once they have ended: its bytes read back,
every byte outside them is as before, and registers and counters are as before (R90). -/
def Obligations.DeferredStoreLands : Prop :=
  ∀ (s : State) (e : BitVec 11) (d : DeferWrite), s.UnitLive e.toNat 0 →
    (∀ c, s.ownerOf (clusterOfEng e.toNat) = some c → s.Calm c) →
    (s.eng e.toNat).deferred.find? (fun d => !s.stillRead e.toNat d.off d.bytes.length) = some d → d.poison = false →
    let a := physSram (33554432 * (e.toNat / 16) + 1048576 * (e.toNat % 16) + d.off)
    ∃ t, exec (.deferredSramWrite e) s = .next t ∧ (∀ i, (hi : i < d.bytes.length) → t.byte (a + i) = d.bytes[i])
      ∧ (∀ x, Apart x a d.bytes.length → t.byte x = s.byte x) ∧ t.regs = s.regs ∧ t.ctrs = s.ctrs ∧ t.pages = s.pages
      ∧ t.queues = s.queues ∧ t.flight = s.flight

/-! ### Quantisers and element engines (R143 to R191) -/

/-- A quantiser command that names a quantiser of its context enters that quantiser's window, its flash reads and its grant
are asked for, and it runs once it is the oldest there; a conversion that waits for an outlier granule tries again (R144 to
R146, R159, R169 to R172, R223, R356). -/
def Obligations.QuantiserCommandsRun : Prop :=
  (∀ (h : Hdr) (s : State),
    (∀ p, s.Ready h ⟨0x300, 1, .context, false⟩ → (s.dispatched h 0x300).convertErr (s.ctxOf h) p = none →
        exec (.qntConvert h p) s = .next (s.after h 0x300 fun id c t =>
          (if typeRnd p.typeOut == 1 then
            (t.names id c (t.convRanges c p).1 (t.convRanges c p).2 [p.quantiser.toNat]).checkStream c p.rndStream
              (ConvertP.dstRows p)
           else t.names id c (t.convRanges c p).1 (t.convRanges c p).2 [p.quantiser.toNat]).toQnt id c
            p.quantiser.toNat (.qntConvert h p) (t.convRanges c p).1))
    ∧ (∀ p, s.Ready h ⟨0x301, 0, .context, false⟩ → (s.dispatched h 0x301).scaleLoadErr (s.ctxOf h) p = none →
        exec (.qntScaleLoad h p) s = .next (s.after h 0x301 fun id c t =>
          (t.names id c (if p.store then [] else [(p.addr.toNat, 4 * p.count.toNat)])
            (if p.store then [(p.addr.toNat, 4 * p.count.toNat)] else []) [p.quantiser.toNat]).toQnt id c
            p.quantiser.toNat (.qntScaleLoad h p) (if p.store then [] else [(p.addr.toNat, 4 * p.count.toNat)])))
    ∧ (∀ p, s.Ready h ⟨0x302, 0, .context, false⟩ → (s.dispatched h 0x302).outlierErr (s.ctxOf h) p = none →
        exec (.qntOutlierSelect h p) s = .next (s.after h 0x302 fun id c t =>
          (t.names id c [(p.colmaxAddr.toNat, 4 * p.length.toNat)]
            ((p.listAddr.toNat, OutlierP.listBytes p) :: t.almRange c p.almSlot p.statsEn) [p.quantiser.toNat]).toQnt id c p.quantiser.toNat (.qntOutlierSelect h p)
            [(p.colmaxAddr.toNat, 4 * p.length.toNat)]))
    ∧ (∀ u : BitVec 7, inRange u.toNat s.nQnt = true → s.boot.partFault = false → s.boot.running = true →
        (∀ f, s.qntFront u.toNat = some f →
          exec (.outlierGranuleAcquire u) s = .next ((s.runQnt u.toNat f).settle f.ctx))
        ∧ (s.qntFront u.toNat = none → exec (.outlierGranuleAcquire u) s = .next s)))
  ∧ (∀ (s : State) (u id : Nat) (f : Flight), (s.qntList u).head? = some id → s.flightOf id = some f →
      (s.qntFront u = some f ↔ f.finished = false ∧ s.reading f.id = false
        ∧ s.grantedTo (u / 16) (.qnt (u % 16)) = true)
      ∧ ∀ g, s.qntFront u = some g → g = f)

/-- ELT_UPDATE and ELT_KERNEL enter the window of an element engine of their context and run once they are the oldest there,
granted and read from flash, with no outlier term of the cluster due; RNG_STREAM_REG stages its change for the next
Equinox (R122, R179, R182 to R185, R189, R190, R223, R356). -/
def Obligations.ElementCommandsRun : Prop :=
  (∀ (h : Hdr) (s : State),
    (∀ p, s.Ready h ⟨0x321, 1, .context, false⟩ → firstErr ((s.dispatched h 0x321).chkUpdate (s.ctxOf h) p) = none →
        exec (.eltUpdate h p) s = .next (s.after h 0x321 fun id c t =>
          let rs := (updArrays p).map fun a => (a.1, a.2 * p.n.toNat)
          ((t.names id c rs rs.dropLast [clusterOfElt p.elt.toNat]).updStreams c p).toElt id c p.elt.toNat
            (.eltUpdate h p) rs))
    ∧ (∀ p acc, s.Ready h ⟨0x320, 1, .context, false⟩ → (s.dispatched h 0x320).kernelErr (s.ctxOf h) p true = none →
        exec (.eltKernel h p true acc) s = .next (s.after h 0x320 fun id c t =>
          ((p.streams.take p.streamCount.toNat).foldl
            (fun (u : State) st => u.checkStream c st [(p.dstAddr.toNat, p.dstLen.toNat)])
            ((t.names id c [] [] (t.clustersOf c)).updFlight id fun f => { f with kernel := true })).toElt id c
              p.elt.toNat (.eltKernel h p true acc) (acc.flatMap kernelReads)))
    ∧ (∀ p, s.Ready h ⟨0x330, 0, .context, false⟩ → (s.dispatched h 0x330).streamRegErr (s.ctxOf h) p = none →
        exec (.rngStreamReg h p) s = .next (s.after h 0x330 fun id c t =>
          (t.updCtx c fun x => { x with stagedStreams := x.stagedStreams ++ [StreamRegP.change p] }).finishNow id)))
  ∧ (∀ (s : State) (el id : Nat) (f : Flight), (s.eltList el).head? = some id → s.flightOf id = some f →
      (s.eltFront el = some f ↔ f.finished = false ∧ s.reading f.id = false
        ∧ s.termsDue (clusterOfElt el) = false ∧ s.grantedTo (el / 32) (.elt (el % 32)) = true)
      ∧ (∀ g, s.eltFront el = some g → g = f)
      ∧ (s.eltFront el = some f → s.pokeElt el = s.runElt el f))
  ∧ (∀ (s : State) (el : Nat) (f : Flight) (h : Hdr),
      (∀ p, f.cmd = some (.eltUpdate h p) → s.runElt el f = s.runUpdate f.id f.ctx el p)
      ∧ (∀ p b acc, f.cmd = some (.eltKernel h p b acc) → s.runElt el f = s.runKernel f.id f.ctx p acc))

/-! ### The fabric (R272 to R282) -/

/-- The fabric commands send their packets, or serve the own part at once; FAB_PUT first has the flash pages of its source
read; FAB_FENCE waits for the fabric commands of its queue that came before it (R223, R272, R276, R279 to R281). An address on
the own part names its pages as a local one does (R432). That the own part is served without a transaction, and that a checked
FAB_TB_COPY sends one packet at a time, is the model's reading (log entry 65). -/
def Obligations.FabricCommandsRun : Prop :=
  ∀ (h : Hdr) (s : State),
    (∀ src dst len, s.Ready h ⟨0x400, 0, .context, true⟩ →
        firstErr [(s.dispatched h 0x400).chkMove (s.ctxOf h) 6 dst len.toNat, chkFabLen len] = none →
        exec (.fabGet h src dst len) s = .next (s.after h 0x400 fun id c t =>
          ((fabPieces len.toNat).foldl (fun (u : State) p => u.sendGet h id c (src.toNat + p.1) (dst.toNat + p.1) p.2 false)
            (t.fabBegin id c (t.ownRange src.toNat len.toNat) [(dst.toNat, len.toNat)] [])).fabCheck id))
    ∧ (∀ src dst len, s.Ready h ⟨0x401, 0, .context, true⟩ →
        firstErr [(s.dispatched h 0x401).chkRead (s.ctxOf h) 4 src len.toNat, chkFabLen len] = none →
        exec (.fabPut h src dst len) s = .next (s.after h 0x401 fun id c t =>
          (t.fabBegin id c [(src.toNat, len.toNat)] (t.ownRange dst.toNat len.toNat) []).withReads id c
            [(src.toNat, len.toNat)] (.fabPut h src dst len)
            fun u => ((fabPieces len.toNat).foldl (fun (u : State) p =>
              u.sendPut h id c (src.toNat + p.1) (dst.toNat + p.1) p.2) u).fabCheck id))
    ∧ (∀ p, s.Ready h ⟨0x402, 0, .context, true⟩ →
        firstErr [chkAlign 4 p.addr 8, chkAlign 11 p.oldAddr 8, (s.dispatched h 0x402).chkMove (s.ctxOf h) 11 p.oldAddr 8]
          = none →
        exec (.fabAtomic h p) s = .next (s.after h 0x402 fun id c t =>
          ((t.fabBegin id c [] ((p.oldAddr.toNat, 8) :: t.ownRange p.addr.toNat 8) []).fabSend ⟨id, fabPart p.addr.toNat,
            t.reqPkt c 0x03 p.addr.toNat 8 (leBytes 8 p.operand.toNat ++ leBytes 8 p.compare.toNat) 0 p.op.toNat,
            .atomic p.oldAddr.toNat, h.lantern⟩).fabCheck id))
    ∧ (s.Ready h ⟨0x403, 0, .context, true⟩ →
        exec (.fabFence h) s = .next (s.after h 0x403 fun id _ t =>
          (t.updFlight id fun f => { f with work := .fabFence ((t.flight.filter fun g =>
            g.queue == h.ring.toNat && decide (g.id < id) && g.opcode / 16 == 0x40).map fun g => g.id) }).finishLater id))
    ∧ (∀ p, s.Ready h ⟨0x404, 0, .context, true⟩ → (s.dispatched h 0x404).fabTbErr (s.ctxOf h) p = none →
        exec (.fabTbCopy h p) s = .next (s.after h 0x404 fun id c t =>
          let u := t.fabBegin id c ((tbBlocks p).flatMap fun b => t.ownRange b.1 blockBytes)
            ((tbBlocks p).map fun b => (b.2, blockBytes)) (if p.check then tbPackets p else [])
          (if p.check then u.tbNext h id c ((tbPackets p).length + 1)
            else (tbPackets p).foldl (fun (u : State) k => u.sendGet h id c k.1 k.2.1 k.2.2.1 false) u).fabCheck id))

/-- A request that the part takes from a port is performed for a partner whose endpoint context is cached, and waits for that
context otherwise, which is counted; acknowledgement, retransmission, the fill of an endpoint context and a freed
transaction (R274 to R278, R282). An acknowledgement at the expiry of its timer wins (R340); what counts as the same cycle is
the model's choice (log entry 80). -/
def Obligations.FabricRowsRun : Prop :=
  (∀ (s : State) (n : BitVec 5) (k : Pkt), inRange n.toNat s.nPorts = true →
     let rows : List (Instr × Nat × Nat) := [(.fabReadRequest n k, 0, 0x01), (.fabWriteRequest n k, 0, 0x02),
       (.fabAtomicRequest n k, 0, 0x03), (.fabResponse n k, 1, 0x04)]
     let t := s.touchEpt k.srcPart.toNat
     (s.fab.cache.contains k.srcPart.toNat = true →
       (s.takes n.toNat k 0 0x01 = true → exec (.fabReadRequest n k) s = .next (t.serveRead n.toNat k s.now))
       ∧ (s.takes n.toNat k 0 0x02 = true → exec (.fabWriteRequest n k) s = .next (t.serveWrite n.toNat k s.now))
       ∧ (s.takes n.toNat k 0 0x03 = true → exec (.fabAtomicRequest n k) s = .next (t.serveAtomic n.toNat k s.now))
       ∧ (s.takes n.toNat k 1 0x04 = true → exec (.fabResponse n k) s = .next (t.takeAnswer n.toNat k s.now)))
     ∧ (∀ r ∈ rows, s.takes n.toNat k r.2.1 r.2.2 = false → exec r.1 s = .next s)
     ∧ (∀ r ∈ rows, s.takes n.toNat k r.2.1 r.2.2 = true → s.fab.cache.contains k.srcPart.toNat = false →
         ∃ t, exec r.1 s = .next t ∧ t.mem = s.mem ∧ t.flight = s.flight ∧ t.pages = s.pages
           ∧ t.fab.missIn = s.fab.missIn ++ [⟨k.srcPart.toNat, n.toNat, s.now, k⟩]
           ∧ t.reg .ngfEptMiss 0 = Reg.cut .ngfEptMiss (s.reg .ngfEptMiss 0 + 1)))
  ∧ (∀ (s : State) (n : BitVec 16) (q : W32),
       let timer := Instr.e2eRetxTimeout n q
       (exec (.e2eAck n q) s = .next ((s.takeAck n.toNat q.toNat).untie timer (isAckOf n q) fun t =>
         t.retxExpired n.toNat q.toNat))
       ∧ (s.unacked n.toNat q.toNat = none → s.tied.contains timer = false →
           exec (.e2eAck n q) s
             = .next (if (s.ept n.toNat).gone.contains q.toNat then s.lateDrop else s)
           ∧ exec timer s = .next s)
       ∧ (∀ u, s.unacked n.toNat q.toNat = some u →
           (s.now < u.sentAt + retxNs →
             s.takeAck n.toNat q.toNat = (s.endUnacked n.toNat u).collFollow u.flight ∧ exec timer s = .next s)
           ∧ (s.now = u.sentAt + retxNs →
             s.takeAck n.toNat q.toNat = (s.lateClose.endUnacked n.toNat u).collFollow u.flight
             ∧ (s.comes (isAckOf n q) = true → exec timer s = .next { s with tied := s.tied ++ [timer] }))
           ∧ (u.sentAt + retxNs < s.now → 8 ≤ u.retx → s.takeAck n.toNat q.toNat = s.lateDrop)
           ∧ (u.sentAt + retxNs < s.now ∨ (u.sentAt + retxNs = s.now ∧ s.comes (isAckOf n q) = false) →
             (u.retx < 8 → exec timer s = .next (s.resend n.toNat q.toNat true))
             ∧ (8 ≤ u.retx → exec timer s = .next (s.unreachable n.toNat u))))
       ∧ (∀ (f : Instr → Bool) (body : State → State),
           (s.tied.contains timer = false → s.untie timer f body = s)
           ∧ (s.comes f = true → s.untie timer f body = s)
           ∧ (s.tied.contains timer = true → s.comes f = false →
               s.untie timer f body = body { s with tied := s.tied.filter fun r => r != timer })))
  ∧ (∀ (s : State),
       (∀ n : BitVec 16, s.fab.cache.contains n.toNat = false → s.fab.awaits n.toNat = true →
           exec (.eptFill n) s = .next ((s.updFab fun f => f.filled n.toNat).proceed s.fab n.toNat)
           ∧ (s.updFab fun f => f.filled n.toNat).fab.cache = (n.toNat :: s.fab.cache).take 8192
           ∧ (s.boot.partFault = true → s.fab.missOut = [] → s.fab.missRetx = [] →
               exec (.eptFill n) s = .next (s.updFab fun f => f.filled n.toNat)))
       ∧ (∀ n : BitVec 16, (s.fab.cache.contains n.toNat = true ∨ s.fab.awaits n.toNat = false) →
           exec (.eptFill n) s = .next s)
       ∧ (∀ w, s.fab.waiting.find? (fun w => !s.fenced w.flight) = some w → s.txnFree = true →
           let t := s.updFab fun f => { f with waiting := dropFirst (fun x => x == w) f.waiting }
           ((w.partner == s.ownPart && w.kind != .coll) = false → exec .txnSlotFree s = .next (t.launch w))
           ∧ ((w.partner == s.ownPart && w.kind != .coll) = true →
               exec .txnSlotFree s = .next ((t.serveOwn w).fabFollow w.flight)))
       ∧ (s.fab.waiting.find? (fun w => !s.fenced w.flight) = none → exec .txnSlotFree s = .next s))

/-- A remote read serves only mapped pages of the unified range, and a remote write only such pages that are unsealed, outside
the Almanac and the stream table (R160, R189, R272, R277, R282); a refused one changes nothing, and one that reaches a
refused page behind others does not succeed. Atomics are bounded the same way. That a write into the Almanac or the stream
table answers ST_BAD_FIELD is the model's reading (log entries 42 and 66). -/
def Obligations.RemoteAccessesBounded : Prop :=
  ∀ (s : State) (id c a n : Nat) (bs : List Byte) (pois : Nat),
    ((s.remoteRead c a n).1 = St.ok ↔ a + n ≤ 35184372088832 ∧ ∀ p ∈ pagesTouched a n, (s.page c p).st ≠ .unmapped)
    ∧ ((s.remoteRead c a n).1 ≠ St.ok → s.remoteRead c a n = (St.unmapped, [], 0))
    ∧ (35184372088832 < a + bs.length → s.remoteWrite id c a bs pois = (St.unmapped, s))
    ∧ (a + bs.length ≤ 35184372088832 →
        (s.dmForbidden c a bs.length = true → s.remoteWrite id c a bs pois = (St.badField, s))
        ∧ (s.dmForbidden c a bs.length = false → bs ≠ [] →
            ((s.page c (a / 2097152)).st = .unmapped → s.remoteWrite id c a bs pois = (St.unmapped, s))
            ∧ ((s.page c (a / 2097152)).st ≠ .unmapped → (s.page c (a / 2097152)).sealed = true →
                s.remoteWrite id c a bs pois = (St.sealed, s))
            ∧ (∀ p ∈ pagesTouched a bs.length, ((s.page c p).st = .unmapped ∨ (s.page c p).sealed = true) →
                (s.remoteWrite id c a bs pois).1 ≠ St.ok)))
    ∧ (∀ (op operand compare : Nat), a % 8 = 0 →
        let x := s.page c (a / 2097152)
        (35184372088832 < a + 8 → s.remoteAtomic id c a op operand compare = (St.unmapped, 0, 0, s))
        ∧ (a + 8 ≤ 35184372088832 →
            (x.st = .unmapped → s.remoteAtomic id c a op operand compare = (St.unmapped, 0, 0, s))
            ∧ (x.st ≠ .unmapped → s.dmForbidden c a 8 = true →
                s.remoteAtomic id c a op operand compare = (St.badField, 0, 0, s))
            ∧ (x.st ≠ .unmapped → s.dmForbidden c a 8 = false → x.sealed = true →
                s.remoteAtomic id c a op operand compare = (St.sealed, 0, 0, s))))

/-! ### Collectives (R283 to R298) -/

/-- A collective command whose checks pass becomes a bucket of its context, and the roles of the part's rank begin; a packet
that the part takes reaches its bucket or is answered without one; a busy answer brings the packet again after 10 µs; a
deadline decides the slots that a bucket waits for, unless one of them arrives in the same cycle (R284 to R291, R298,
R340); what counts as the same cycle is the model's choice (log entry 80). -/
def Obligations.CollectivesRun : Prop :=
  (∀ (h : Hdr) (s : State),
     (∀ p, s.Ready h ⟨0x411, 0, .context, false⟩ → (s.dispatched h 0x411).gatherErr (s.ctxOf h) p = none →
         exec (.collAllGather h p) s = .next (s.after h 0x411 fun id c t =>
           let rs := [(p.groupAddr.toNat, t.descBytes c p.groupAddr.toNat)]
           (t.names id c rs [] []).withReads id c rs (.collAllGather h p) fun t => t.runGather h id c p))
     ∧ (∀ p, s.Ready h ⟨0x410, 1, .context, false⟩ → (s.dispatched h 0x410).reduceErr (s.ctxOf h) p = none →
         exec (.collReduceScatter h p) s = .next (s.after h 0x410 fun id c t =>
           let rs := [(p.groupAddr.toNat, t.descBytes c p.groupAddr.toNat)]
           (t.names id c rs [] []).withReads id c rs (.collReduceScatter h p) fun t => t.runReduce h id c p))
     ∧ (∀ (u : State) (id c : Nat) (p : GatherP) (d : List Nat × List (Nat × Nat)) (r : Nat),
         u.readDesc c p.groupAddr.toNat = some d → u.ownRank c = some r →
         u.runGather h id c p = (u.updFlight id fun f => { f with cmd := none }).startGather h id c p d r)
     ∧ (∀ (u : State) (id c : Nat) (p : ReduceP) (d : List Nat × List (Nat × Nat)) (r : Nat),
         u.readDesc c p.groupAddr.toNat = some d → u.ownRank c = some r →
         u.runReduce h id c p = (u.updFlight id fun f => { f with cmd := none }).startReduce h id c p d r)
     ∧ (∀ p, (s.dispatched h 0x410).reduceErr (s.ctxOf h) p = none →
         ((s.dispatched h 0x410).readDesc (s.ctxOf h) p.groupAddr.toNat).isSome = true
         ∧ ((s.dispatched h 0x410).ownRank (s.ctxOf h)).isSome = true)
     ∧ (∀ p, (s.dispatched h 0x411).gatherErr (s.ctxOf h) p = none →
         ((s.dispatched h 0x411).readDesc (s.ctxOf h) p.groupAddr.toNat).isSome = true
         ∧ ((s.dispatched h 0x411).ownRank (s.ctxOf h)).isSome = true))
  ∧ (∀ (s : State) (n : BitVec 5) (k : Pkt), inRange n.toNat s.nPorts = true → s.fab.cache.contains k.srcPart.toNat = true →
       let c := k.dstCtx.toNat
       let b := Pkt.bucket k
       let t := ((s.touchEpt k.srcPart.toNat).collArrive n.toNat k s.now).settle c
       let u := t.untie (.reduceDeadline k.dstCtx (BitVec.ofNat 20 b)) (isPhaseOf k.dstCtx b) fun t => t.runDeadline c b
       (s.takes n.toNat k 2 0x10 = true → Pkt.phase k = 1 → exec (.collExponent n k) s = .next u)
       ∧ (s.takes n.toNat k 2 0x11 = true → Pkt.phase k = 2 → exec (.collScale n k) s = .next u)
       ∧ (s.takes n.toNat k 2 0x12 = true → Pkt.phase k = 3 → exec (.collContribution n k) s = .next u)
       ∧ (s.takes n.toNat k 2 0x13 = true → Pkt.phase k = 4 → exec (.collGather n k) s = .next u)
       ∧ (t.tied.contains (.reduceDeadline k.dstCtx (BitVec.ofNat 20 b)) = false → u = t))
  ∧ (∀ (s : State),
       (∀ (n : BitVec 16) (q : W32) (u : Unacked), s.unacked n.toNat q.toNat = some u →
           (u.pkt.cls = 2 → u.sentAt + 10000 ≤ s.now →
             exec (.collBusyResend n q) s = .next (s.resend n.toNat q.toNat false))
           ∧ ((u.pkt.cls ≠ 2 ∨ s.now < u.sentAt + 10000) → exec (.collBusyResend n q) s = .next s))
       ∧ (∀ (c : BitVec 6) (b : BitVec 20),
           (s.deadlineAt c.toNat b.toNat = none → exec (.reduceDeadline c b) s = .next s)
           ∧ ∀ (x : CollS) (e : Nat), s.coll c.toNat b.toNat = some x → e ≤ s.now →
             (e = s.now → s.comes (isPhaseOf c b.toNat) = false) →
             (x.armed1 = true → x.expPassed = false → x.expiry x.expAt = some e →
               exec (.reduceDeadline c b) s = .next ((((s.updColl c.toNat b.toNat fun x => { x with expPassed := true }).rootCheck
                 c.toNat b.toNat).collCheck c.toNat b.toNat).settle c.toNat))
             ∧ (x.expPassed = true → x.armed3 = true → x.conPassed = false → x.expiry x.conAt = some e →
               exec (.reduceDeadline c b) s = .next ((((s.updColl c.toNat b.toNat fun x =>
                 { x with conPassed := true }).reducerCheck c.toNat b.toNat).collCheck c.toNat b.toNat).settle c.toNat))))

/-! ### Memory tiers (R213 to R226) -/

/-- The tier commands whose checks pass change the map as R215 gives; all but TIER_QUERY then wait for their pages to
reach the target (R213 to R217). -/
def Obligations.TierCommandsRun : Prop :=
  ∀ (h : Hdr) (s : State) (p : TierP),
    (s.Ready h ⟨0x500, 0, .context, true⟩ → (s.dispatched h 0x500).tierMapErr (s.ctxOf h) p = none →
        exec (.tierMap h p) s = .next (s.after h 0x500 fun id c t =>
          ((TierP.pages p).foldl (fun (u : State) n => u.mapPage c n) t).tierWork id .map p))
    ∧ (s.Ready h ⟨0x501, 0, .context, true⟩ → (s.dispatched h 0x501).tierRangeErr (s.ctxOf h) p = none →
        exec (.tierUnmap h p) s = .next (s.after h 0x501 fun id _ t => t.tierWork id .unmap p))
    ∧ (s.Ready h ⟨0x502, 0, .context, true⟩ → (s.dispatched h 0x502).tierRangeErr (s.ctxOf h) p = none →
        exec (.tierSeal h p) s = .next (s.after h 0x502 fun id _ t => t.tierWork id .seal p))
    ∧ (s.Ready h ⟨0x503, 0, .context, true⟩ → (s.dispatched h 0x503).tierUnsealErr (s.ctxOf h) p = none →
        exec (.tierUnseal h p) s = .next (s.after h 0x503 fun id c t =>
          ((TierP.pages p).foldl (fun (u : State) n => u.unsealPage c n) t).tierWork id .unseal p))
    ∧ (s.Ready h ⟨0x504, 0, .context, true⟩ → (s.dispatched h 0x504).tierMigrateErr (s.ctxOf h) p = none →
        exec (.tierMigrate h p) s = .next (s.after h 0x504 fun id c t =>
          ((TierP.pages p).foldl (fun (u : State) n => u.migratePage c p.target n) t).tierWork id
            (if p.target then .toFlash else .toHbm) p))
    ∧ (s.Ready h ⟨0x505, 0, .context, true⟩ → (s.dispatched h 0x505).tierQueryErr (s.ctxOf h) p = none →
        exec (.tierQuery h p) s = .next (s.after h 0x505 fun id c t =>
          ((t.names id c [] [(p.dstAddr.toNat, 16 * p.count.toNat)] []).store id c p.dstAddr.toNat
            ((TierP.pages p).flatMap fun n => t.pageRecord c n) false).finishLater id))

/-- The refusals of the tier commands, each with its status and detail, in their order (R199, R203, R213, R214, R219, R309): the
first page and the range of word 5, the count of word 7, then for TIER_MAP a page that is mapped and the quota; for
TIER_UNMAP and TIER_SEAL a protected page; for TIER_UNSEAL and TIER_MIGRATE a page that is unmapped, a protected one, and
the quota, or toward flash an unsealed page, the flash quota and a flash that is read-only. ST_UNMAPPED beyond the unified
range, a first page in the own tier 0 as word 5, and the unmapped page of TIER_UNSEAL and TIER_MIGRATE with its place in the order
are the model's reading (log entry 18). -/
def Obligations.TierChecksDecide : Prop :=
  ∀ (s : State) (c : Nat) (p : TierP),
    let first := p.va.toNat / 2097152
    let n := p.count.toNat
    let all := fun (e : Err) => s.tierMapErr c p = some e ∧ s.tierRangeErr c p = some e ∧ s.tierUnsealErr c p = some e
      ∧ s.tierMigrateErr c p = some e ∧ s.tierQueryErr c p = some e
    let unmapped := ∃ i, i < n ∧ (s.page c (first + i)).st = .unmapped
    let prot := ∃ i, i < n ∧ (s.page c (first + i)).st ≠ .unmapped ∧ s.protPage c (first + i) = true
    let fromFlash := s.countSt c (TierP.pages p) fun t => t == .flash || t == .down
    let noFrames := (s.reg .tierQuotaHbm c).toNat < s.hbmUse c + fromFlash
    (s.place c p.va.toNat = .hole → all ⟨St.unmapped, 0⟩)
    ∧ (∀ o, s.place c p.va.toNat = .sram o →
        (s.ownerOf (o / 33554432) ≠ some c → all ⟨St.notOwner, 5⟩)
        ∧ (s.ownerOf (o / 33554432) = some c → all ⟨St.badField, 5⟩))
    ∧ (c ≠ adminCtx → p.va.toNat < 35184372088832 →
        (p.va.toNat % 2097152 ≠ 0 → all ⟨St.badField, 5⟩)
        ∧ (p.va.toNat % 2097152 = 0 →
          (16777216 < first + n → all ⟨St.unmapped, 0⟩)
          ∧ (first + n ≤ 16777216 →
            (n = 0 → all ⟨St.badField, 7⟩)
            ∧ (n ≠ 0 →
              -- TIER_MAP
              ((∃ i, i < n ∧ (s.page c (first + i)).st ≠ .unmapped) → s.tierMapErr c p = some ⟨St.badField, 0xFFFFFFFF⟩)
              ∧ ((∀ i, i < n → (s.page c (first + i)).st = .unmapped) →
                  s.tierMapErr c p = if (s.reg .tierQuotaHbm c).toNat < s.hbmUse c + n then some ⟨St.quota, 0⟩ else none)
              -- TIER_UNMAP, TIER_SEAL
              ∧ (prot → s.tierRangeErr c p = some ⟨St.badField, 0xFFFFFFFF⟩)
              ∧ (¬ prot → s.tierRangeErr c p = none)
              -- TIER_UNSEAL, TIER_MIGRATE
              ∧ (unmapped → s.tierUnsealErr c p = some ⟨St.unmapped, 0⟩ ∧ s.tierMigrateErr c p = some ⟨St.unmapped, 0⟩)
              ∧ (¬ unmapped → prot → s.tierUnsealErr c p = some ⟨St.badField, 0xFFFFFFFF⟩
                  ∧ s.tierMigrateErr c p = some ⟨St.badField, 0xFFFFFFFF⟩)
              ∧ (¬ unmapped → ¬ prot →
                  (noFrames → s.tierUnsealErr c p = some ⟨St.quota, 0⟩)
                  ∧ (¬ noFrames → s.tierUnsealErr c p = none)
                  ∧ (p.target = false → s.tierMigrateErr c p = s.tierUnsealErr c p)
                  ∧ (p.target = true →
                      let toFlash := s.countSt c (TierP.pages p) fun t => t == .hbm
                      ((∃ i, i < n ∧ (s.page c (first + i)).sealed = false) →
                        s.tierMigrateErr c p = some ⟨St.notSealed, 0⟩)
                      ∧ ((∀ i, i < n → (s.page c (first + i)).sealed = true) →
                        s.tierMigrateErr c p
                          = if (s.reg .tierQuotaFlash c).toNat < s.flashUse c + toFlash then some ⟨St.quota, 0⟩
                            else if s.ftl.readOnly then some ⟨St.flashRo, 0⟩ else none)))
              -- TIER_QUERY
              ∧ (p.dstAddr.toNat % 64 ≠ 0 → s.tierQueryErr c p = some ⟨St.badField, 8⟩)
              ∧ (p.dstAddr.toNat % 64 = 0 → s.tierQueryErr c p = s.chkWrite c 8 p.dstAddr (16 * n))))))

/-- A page that moves keeps its bytes and their marks, the map switches to the target, and every byte outside the two places
stays: up to HBM the flash page is released; down to flash the page lands in a fresh flash page of a working channel, and its
frame is released (R216, R221). That a released place holds zeros and no mark is the model's (log entry 51). A page on its way
to flash stays while an image drains (R222), and any other page stays as it is. -/
def Obligations.PageMovesKeepBytes : Prop :=
  ∀ (s : State) (c : BitVec 6) (p : BitVec 24),
    let x := s.page c.toNat p.toNat
    let moves := fun (t : State) (src dst : Nat) =>
      (∀ i, i < 2097152 → t.byte (dst + i) = s.byte (src + i))
      ∧ (∀ i, i < 32768 → (dst / 64 + i ∈ t.poison ↔ src / 64 + i ∈ s.poison))
    let released := fun (t : State) (src : Nat) =>
      (∀ i, i < 2097152 → t.byte (src + i) = 0) ∧ ∀ i, i < 32768 → src / 64 + i ∉ t.poison
    (x.frame < 2 ^ 40 → x.fpage < 2 ^ 40 → s.nextFpage < 2 ^ 40 →
      (x.st = .up → ∃ t, exec (.pageMoveDone c p) s = .next t
          ∧ (t.page c.toNat p.toNat).st = .hbm ∧ (t.page c.toNat p.toNat).frame = x.frame
          ∧ moves t (physFlash x.fpage 0) (physFrame x.frame 0) ∧ released t (physFlash x.fpage 0)
          ∧ (∀ a, Apart a (physFrame x.frame 0) 2097152 → Apart a (physFlash x.fpage 0) 2097152 → t.byte a = s.byte a)
          ∧ t.regs = s.regs ∧ t.flight = s.flight ∧ t.queues = s.queues)
      ∧ (x.st = .down → s.draining = false → (∃ k, k < 32 ∧ s.chanWorks k = true) →
          ∃ t, exec (.pageMoveDone c p) s = .next t
          ∧ (t.page c.toNat p.toNat).st = .flash ∧ (t.page c.toNat p.toNat).fpage = s.nextFpage
          ∧ s.chanWorks (t.page c.toNat p.toNat).chan = true
          ∧ moves t (physFrame x.frame 0) (physFlash s.nextFpage 0)
          ∧ released t (physFrame x.frame 0)
          ∧ (∀ a, Apart a (physFrame x.frame 0) 2097152 → Apart a (physFlash s.nextFpage 0) 2097152 →
              Apart a (physAdmin 0) 67108864 → t.byte a = s.byte a)
          ∧ t.flight = s.flight))
    ∧ (x.st = .down → s.draining = true → exec (.pageMoveDone c p) s = .next s)
    ∧ (x.st ≠ .up → x.st ≠ .down → exec (.pageMoveDone c p) s = .next s)

/-- The flash translation layer's rows: scrubs are shown while one lasts on any channel and each is counted at its end,
a bad block goes unseen while spare blocks are left and makes the layer read-only else, a lost channel goes with the
pages on it, where the frames that images still hold are frames of HBM (R224 to R226). That no page stays on its way to
flash in a read-only layer is the model's reading (log entry 51). -/
def Obligations.FlashLayerRows : Prop :=
  ∀ (s : State) (k : BitVec 5), inRange k.toNat s.nChan = true →
    (∃ t, exec (.readDisturbScrub k true) s = .next t ∧ t.ftl.scrubs = NatSet.ins k.toNat s.ftl.scrubs
      ∧ t.fld .ftlState 0 1 1 = 1 ∧ t.mem = s.mem ∧ t.pages = s.pages ∧ t.flight = s.flight)
    ∧ (s.ftl.scrubs.contains k.toNat = true →
        ∃ t, exec (.readDisturbScrub k false) s = .next t ∧ t.ftl.scrubs = NatSet.del s.ftl.scrubs k.toNat
        ∧ t.fld .ftlState 0 1 1 = (if (NatSet.del s.ftl.scrubs k.toNat).isEmpty then 0 else 1)
        ∧ t.reg .ftlScrubBlocks 0 = Reg.cut .ftlScrubBlocks (s.reg .ftlScrubBlocks 0 + 1)
        ∧ t.pages = s.pages ∧ t.flight = s.flight)
    ∧ (s.ftl.scrubs.contains k.toNat = false → exec (.readDisturbScrub k false) s = .next s)
    ∧ exec (.badBlockDetect k true) s = .next s
    ∧ exec (.badBlockDetect k false) s = .next s.flashReadOnly
    ∧ s.flashReadOnly.ftl.readOnly = true
    ∧ (s.ftl.readOnly = true → s.flashReadOnly = s)
    ∧ (s.ftl.readOnly = false → ∀ e ∈ s.flashReadOnly.pages, e.2.st ≠ .down)
    ∧ (s.chanWorks k.toNat = true → exec (.flashChannelFailure k) s = .next (s.dropChannel k.toNat)
        ∧ (s.dropChannel k.toNat).chanWorks k.toNat = false
        ∧ ((∀ m ∈ s.images, m.st = .draining → ∀ p ∈ m.pages, p.drained = false → p.frame < 2 ^ 40) →
          ∀ e ∈ s.pages, e.2.chan = k.toNat → (e.2.st = .flash ∨ e.2.st = .up) → ∀ i, i < 32768 →
            physFlash e.2.fpage 0 / 64 + i ∈ (s.dropChannel k.toNat).poison))
    ∧ (s.chanWorks k.toNat = false → exec (.flashChannelFailure k) s = .next s)

/-- A step copy ends: outside the bytes of the stores that waited for it, the page's new frame holds the bytes of its
step-start frame and every other byte stays; the last of those stores, if its command has not ended, has landed, and no store
waits any more (R244). A page without a step copy stays as it is. Responses that waited for the stores go out, but not after a
part fault (R370). -/
def Obligations.StepCopyEnds : Prop :=
  ∀ (s : State) (c : BitVec 6) (p : BitVec 24),
    let x := s.page c.toNat p.toNat
    (∀ f, x.copying = some f → f < 2 ^ 40 → x.frame < 2 ^ 40 → f ≠ x.frame →
      let clear := fun a : Nat => ∀ w ∈ x.waits, Apart a (physFrame f (w.addr % 2097152)) w.bytes.length
      ∃ t : State, exec (.stepCopyDone c p) s = .next (if s.boot.partFault then t else t.sendLate)
        ∧ (t.page c.toNat p.toNat).frame = f ∧ (t.page c.toNat p.toNat).copying = none
        ∧ (t.page c.toNat p.toNat).stepStart = some x.frame ∧ (t.page c.toNat p.toNat).waits = [] ∧ t.regs = s.regs
        ∧ (∀ i, i < 2097152 → clear (physFrame f i) → t.byte (physFrame f i) = s.byte (physFrame x.frame i))
        ∧ (∀ a, Apart a (physFrame f 0) 2097152 → clear a → t.byte a = s.byte a)
        ∧ (∀ ws w, x.waits = ws ++ [w] → w.poison = false →
            (∀ id g, w.flight = some id → s.flightOf id = some g → g.status = St.ok) →
            ∀ i, (hi : i < w.bytes.length) → t.byte (physFrame f (w.addr % 2097152) + i) = w.bytes[i]))
    ∧ (x.copying = none → exec (.stepCopyDone c p) s = .next (if s.boot.partFault then s else s.sendLate))

/-- The first store of a step to a protected page writes no memory: with its frame held by an image and no image credit free
it waits for a credit; else it begins the page's step copy and waits for it, or is refused by the HBM quota, which leaves
every page as it is (R203, R244, R245, R247). -/
def Obligations.FirstWriteMakesAStepCopy : Prop :=
  ∀ (s : State) (id c a : Nat) (bs : List Byte) (b : Bool),
    let x := s.page c (a / 2097152)
    let r := s.storePage (some id) c a bs b
    let y := r.2.page c (a / 2097152)
    let waits := r.1 = none ∧ r.2.mem = s.mem ∧ y.waits = [⟨some id, a, bs, b⟩] ∧ y.frame = x.frame
    let noCredit := s.frameHeld c x.frame = true ∧ (s.reg .eqxCredits c).toNat ≤ (s.ctx c).creditsHeld.length
    x.st = .hbm → x.sealed = false → x.waits = [] → x.copying = none → x.creditWait = false →
    s.needsCopy c (a / 2097152) = true →
    (noCredit → waits ∧ y.creditWait = true ∧ y.copying = none)
    ∧ (¬ noCredit → s.hbmUse c < (s.reg .tierQuotaHbm c).toNat → waits ∧ y.copying = some s.nextFrame)
    ∧ (¬ noCredit → (s.reg .tierQuotaHbm c).toNat ≤ s.hbmUse c →
      r.1 = some St.quota ∧ (r.2.ctx c).copyQuota = true ∧ r.2.pages = s.pages
      ∧ ∀ a, Apart a (physAdmin 0) 67108864 → r.2.byte a = s.byte a)

/-! ### The Equinox (R231 to R262) -/

/-- EQX_BARRIER opens an Equinox in DRAIN, EQX_PROTECT stages its change, EQX_RESUME leaves HELD (R232, R234, R239, R242).
DRAIN ends with the part's own record, a member's record or root is taken once, the timeout decides without the missing
records unless one arrives in the same cycle, and the pulse on EQX_SYNC ends (R235 to R237, R240, R241, R261, R262,
R340). What counts as the same cycle is the model's choice (log entry 80); whether a record of a rank that owed one when
the timeout decided is that record, and late, or the rank's first one since, is a free choice (log entry 56). -/
def Obligations.EquinoxRuns : Prop :=
  (∀ (h : Hdr) (s : State),
     (∀ k, s.Ready h ⟨0x510, 0, .context, false⟩ → (s.dispatched h 0x510).barrierErr (s.ctxOf h) = none →
         exec (.eqxBarrier h k) s = .next (s.after h 0x510 fun id c t =>
           (t.updFlight id fun f => { f with work := .barrier k }).updCtx c fun x =>
             { x with phase := .drain, barrier := some id, ckpt := k }))
     ∧ (∀ p, s.Ready h ⟨0x511, 0, .context, false⟩ → (s.dispatched h 0x511).protectErr (s.ctxOf h) p = none →
         exec (.eqxProtect h p) s = .next (s.after h 0x511 fun id c t =>
           (t.updCtx c fun x => { x with stagedProt := x.stagedProt ++ [ProtectP.change p] }).finishNow id))
     ∧ (s.Ready h ⟨0x512, 0, .context, true⟩ → ((s.dispatched h 0x512).ctx (s.ctxOf h)).phase = .held →
         exec (.eqxResume h) s = .next (s.after h 0x512 fun id c t => (t.resumeStep c).finishNow id))
     ∧ (s.Ready h ⟨0x512, 0, .context, true⟩ → ((s.dispatched h 0x512).ctx (s.ctxOf h)).phase ≠ .held →
         exec (.eqxResume h) s = .next (s.after h 0x512 fun id _ t => t.reject id (Err.state St.badField))))
  ∧ (∀ (s : State) (c : BitVec 6),
       ((s.ctx c.toNat).phase = .drain → s.drained c.toNat = true →
         ∃ t : State, exec (.eqxDrainDone c) s = .next (t.tryEqx c.toNat) ∧ (t.ctx c.toNat).phase = .exchange
           ∧ (t.ctx c.toNat).enteredAt = s.now ∧ t.mem = s.mem ∧ t.pages = s.pages ∧ t.flight = s.flight
           ∧ ((s.ownRank c.toNat).getD 0, (s.showDigest c.toNat).ownRecord c.toNat) ∈ (t.ctx c.toNat).records)
       ∧ (∀ (r : BitVec 16) (rec : ExRec),
           exec (.eqxRecordReceive c r rec) s = .next ((s.takeRecord c.toNat r.toNat rec).untie (.eqxTimeout c)
             (isRecordOf c) fun t => t.eqxExpired c.toNat)
           ∧ (s.tied.contains (.eqxTimeout c) = false → ∀ f body, s.untie (.eqxTimeout c) f body = s)
           ∧ (s.answers c.toNat = true → s.ownRank c.toNat ≠ some r.toNat →
             (s.unfenced c.toNat).contains r.toNat = true →
             ((s.ctx c.toNat).records.any fun p => p.1 == r.toNat) = false →
             ((s.ctx c.toNat).lateRecs.contains r.toNat = true →
               let t := { s with freeCount := s.freeCount + 1 }.updCtx c.toNat fun x =>
                 { x with lateRecs := dropFirst (fun y => y == r.toNat) x.lateRecs }
               s.takeRecord c.toNat r.toNat rec =
                 if Config.isLate s.freeCount then t.lateDrop else t.joinRecord c.toNat r.toNat rec)
             ∧ ((s.ctx c.toNat).lateRecs.contains r.toNat = false → (s.ctx c.toNat).phase = .exchange →
               s.eqxExpiry c.toNat < s.now → s.takeRecord c.toNat r.toNat rec =
                 (s.updCtx c.toNat fun x => { x with tardy := NatSet.ins r.toNat x.tardy }).lateDrop)
             ∧ ((s.ctx c.toNat).lateRecs.contains r.toNat = false →
               ((s.ctx c.toNat).phase = .exchange → s.now < s.eqxExpiry c.toNat) →
               s.takeRecord c.toNat r.toNat rec = (s.updCtx c.toNat fun x =>
                 { x with records := x.records ++ [(r.toNat, rec)] }).tryEqx c.toNat)))
       ∧ ((s.ctx c.toNat).phase = .exchange → s.boot.partFault = false → s.eqxExpiry c.toNat ≤ s.now →
           ((s.eqxExpiry c.toNat = s.now → s.comes (isRecordOf c) = false) →
             exec (.eqxTimeout c) s = .next (s.decideEqx c.toNat true))
           ∧ (s.eqxExpiry c.toNat = s.now → s.comes (isRecordOf c) = true →
             exec (.eqxTimeout c) s = .next { s with tied := s.tied ++ [.eqxTimeout c] }))
       ∧ (((s.ctx c.toNat).phase ≠ .exchange ∨ s.now < s.eqxExpiry c.toNat) → exec (.eqxTimeout c) s = .next s)
       ∧ (∀ e, s.clk.syncEnd = some e → e ≤ s.now →
           exec .eqxSyncPulseEnd s = .next { s with clk := { s.clk with syncEnd := none } })
       ∧ (∀ r, (s.ctx c.toNat).phase = .digest → s.ownRank c.toNat = some r →
           ((s.ctx c.toNat).roots.any fun p => p.1 == r) = false →
           ∃ t : State, exec (.digestComputeDone c) s = .next (t.tryDigest c.toNat)
             ∧ (t.ctx c.toNat).roots = (s.ctx c.toNat).roots ++ [(r, (s.ctx c.toNat).ownRoot)] ∧ t.mem = s.mem
             ∧ t.regs = s.regs)
       ∧ (∀ (r : BitVec 16) (w : W64), s.answers c.toNat = true → s.ownRank c.toNat ≠ some r.toNat →
           (s.unfenced c.toNat).contains r.toNat = true → (s.ctx c.toNat).phase ≠ .held →
           ((s.ctx c.toNat).roots.any fun p => p.1 == r.toNat) = false →
           exec (.digestRootReceive c r w) s = .next ((s.updCtx c.toNat fun x =>
             { x with roots := x.roots ++ [(r.toNat, w)] }).tryDigest c.toNat)))

/-- DECIDE takes the first row of R237 whose condition holds: a missing record, epochs that differ, configuration digests
that differ, a step flag, and else the commit. -/
def Obligations.DecideTakesTheFirstRow : Prop :=
  ∀ (s : State) (c : Nat) (recs : List (Nat × ExRec)),
    let v := s.verdict c recs false
    let es := recs.map fun p => p.2.epoch.toNat
    s.verdict c recs true = ⟨false, true, 128, some 0x0402, []⟩
    ∧ ((∃ a ∈ es, ∃ b ∈ es, a ≠ b) → v.commit = false ∧ v.held = true ∧ v.cause = 64 ∧ v.event = some 0x0403
        ∧ (∀ p ∈ recs, p.2.epoch.toNat ≠ majorityEpoch es → p.1 ∈ v.fence)
        ∧ ∀ r ∈ v.fence, ∃ p ∈ recs, p.1 = r ∧ p.2.epoch.toNat ≠ majorityEpoch es)
    ∧ ((∀ a ∈ es, ∀ b ∈ es, a = b) → (∃ p ∈ recs, ∃ q ∈ recs, p.2.digest ≠ q.2.digest) →
        v = ⟨false, true, 32, some 0x0404, []⟩)
    ∧ ((∀ a ∈ es, ∀ b ∈ es, a = b) → (∀ p ∈ recs, ∀ q ∈ recs, p.2.digest = q.2.digest) →
        ((∃ p ∈ recs, p.2.nonfinite = true ∨ p.2.poison = true ∨ p.2.reductionMissing = true ∨ p.2.copyQuota = true) →
          v.commit = false ∧ v.event = none ∧ v.fence = []
          ∧ (v.held = true ↔ s.fld .eqxCtrl c 3 0 ≤ (s.ctx c).attempt + 1)
          ∧ (v.cause / 2 % 2 = 1 ↔ ∃ p ∈ recs, p.2.nonfinite = true)
          ∧ (v.cause / 4 % 2 = 1 ↔ ∃ p ∈ recs, p.2.poison = true)
          ∧ (v.cause / 8 % 2 = 1 ↔ ∃ p ∈ recs, p.2.reductionMissing = true)
          ∧ (v.cause / 16 % 2 = 1 ↔ ∃ p ∈ recs, p.2.copyQuota = true))
        ∧ ((∀ p ∈ recs, p.2.nonfinite = false ∧ p.2.poison = false ∧ p.2.reductionMissing = false ∧ p.2.copyQuota = false) →
          v = ⟨true, false, 0, none, []⟩))

/-- The epoch that DECIDE keeps is held by some member, by no fewer members than any other, and is the lower one at a tie
(R237); the root that VOTE keeps is held by more than half of a set of 3 or more (R262). -/
def Obligations.MajoritiesAreRight : Prop :=
  (∀ (es : List Nat), es ≠ [] →
     majorityEpoch es ∈ es
     ∧ ∀ e ∈ es, es.count e < es.count (majorityEpoch es)
         ∨ (es.count e = es.count (majorityEpoch es) ∧ majorityEpoch es ≤ e))
  ∧ (∀ (ps : List (Nat × W64)) (w : W64),
       majorityRoot ps = some w ↔ 3 ≤ ps.length ∧ ps.length < 2 * (ps.filter fun q => q.2 == w).length)

/-- The image commands, HARVEST with its end, the drain of a page and the seal of a drained image, which both fail the image
where flash is read-only (R249 to R251, R257 to R260, R378); a HARVEST that finds a page of the Almanac or of the stream table
unmapped or sealed at its end stops there (R203, R212). That HARVEST enters HELD at its acceptance and restores everything
at its end is the model's reading (log entry 61). -/
def Obligations.ImagesRun : Prop :=
  (∀ (h : Hdr) (s : State),
     (∀ dst, s.Ready h ⟨0x513, 0, .context, true⟩ → (s.dispatched h 0x513).imageListErr (s.ctxOf h) dst = none →
         exec (.imageList h dst) s = .next (s.after h 0x513 fun id c t =>
           ((t.names id c [] [(dst.toNat, (t.imageRecords c).length)] []).store id c dst.toNat (t.imageRecords c)
             false).finishNow id))
     ∧ (∀ (n : W32) m, s.Ready h ⟨0x514, 0, .context, true⟩ →
         (s.dispatched h 0x514).imageOf (s.ctxOf h) n = some m →
         exec (.imageRelease h n) s = .next (s.after h 0x514 fun id _ t => (t.releaseImage m).finishNow id))
     ∧ (∀ n : W32, s.Ready h ⟨0x515, 0, .context, true⟩ →
         (s.dispatched h 0x515).harvestErr s.nextId (s.ctxOf h) n = none →
         exec (.harvest h n) s = .next (s.after h 0x515 fun id c t =>
           let t := t.names id c [] (((t.imageOf c n).map fun m => t.harvestWrites c m).getD []) []
           (if (t.ctx c).phase == .held then t else t.enterHeld c).updFlight id fun f => { f with work := .harvest n.toNat }))
     ∧ (∀ (c : BitVec 6) (bad : List Nat) (f : Flight) (n : Nat) (m : ImageS),
         (s.ctxFlights c.toNat).find? (fun f => match f.work with | .harvest _ => !f.finished | _ => false) = some f →
         f.work = .harvest n → s.image n = some m →
         (∀ st, s.regionFault c.toNat m = some st → exec (.harvestComplete c bad) s
           = .next ((s.harvestStops c.toNat f.id m bad st).sendLate.finishLater f.id))
         ∧ (s.regionFault c.toNat m = none → ∃ u : State, exec (.harvestComplete c bad) s = .next (u.sendLate.finishLater f.id)
           ∧ (u.ctx c.toNat).phase = .held ∧ (u.ctx c.toNat).streams = m.streamTab ∧ u.reg .eqxEpoch c.toNat = m.epoch
           ∧ u.reg .cfgRngSeed c.toNat = m.seed ∧ u.reg .cfgRngStep c.toNat = m.step)))
  ∧ (∀ (s : State) (n : W32) (m : ImageS), s.image n.toNat = some m → m.st = .draining →
       (∀ (p : BitVec 24) (q : ImgPage), m.pages.find? (fun x => x.page == p.toNat) = some q → q.drained = false →
           (s.drainNext m).contains q.page = true → (∃ k, k < 32 ∧ s.chanWorks k = true) →
           (s.ftl.readOnly = false → ∃ t m' q', exec (.ckptPageDrained n p) s = .next t ∧ t.nextFpage = s.nextFpage + 1
             ∧ t.image n.toNat = some m' ∧ m'.st = .draining ∧ m'.pages.find? (fun x => x.page == p.toNat) = some q'
             ∧ q'.drained = true ∧ q'.fpage = s.nextFpage ∧ s.chanWorks q'.chan = true)
           ∧ (s.ftl.readOnly = true → exec (.ckptPageDrained n p) s = .next (s.failImage m.id)))
       ∧ (∀ k, s.sec.kek = some k → m.key = true → (∀ p ∈ m.pages, p.drained = true) → s.ftl.readOnly = true →
           exec (.ckptSeal n) s = .next (s.failImage m.id))
       ∧ (∀ k, s.sec.kek = some k → m.key = true → (∀ p ∈ m.pages, p.drained = true) → s.ftl.readOnly = false →
           ∃ t m', exec (.ckptSeal n) s = .next t ∧ t.image n.toNat = some m' ∧ m'.st = .sealed
             ∧ m'.wrappedUnder = some k ∧ m'.root = m.rootOf ∧ m'.pages = m.pages ∧ headerOk m'.header = true
             ∧ t.pages = s.pages))

/-! ### Configuration transactions (R300, R325, R328 to R341) -/

/-- CFG_BEGIN and CFG_ABORT open and discard the queue's transaction, CFG_COMMIT prepares it, and a staging command whose
fields pass its checks adds its change to it, nothing else changing before it is applied (R173, R300, R325, R328 to
R334). -/
def Obligations.TransactionCommandsRun : Prop :=
  (∀ (h : Hdr) (s : State),
     (s.Ready h ⟨0x600, 0, .any, true⟩ → (s.dispatched h 0x600).openTxn h.ring.toNat = none →
         (s.dispatched h 0x600).txns.length < 64 →
         exec (.cfgBegin h) s = .next (s.after h 0x600 fun id c t => (t.beginTxn h.ring.toNat c).finishNow id))
     ∧ (s.Ready h ⟨0x600, 0, .any, true⟩ → ((s.dispatched h 0x600).openTxn h.ring.toNat).isSome = true →
         exec (.cfgBegin h) s = .next (s.after h 0x600 fun id _ t => t.reject id (Err.state St.txnOpen)))
     ∧ (∀ x, s.Ready h ⟨0x602, 0, .any, true⟩ → (s.dispatched h 0x602).openTxn h.ring.toNat = some x →
         exec (.cfgAbort h) s = .next (s.after h 0x602 fun id _ t => (t.dropTxn x.id).finishNow id))
     ∧ (∀ x p, s.Ready h ⟨0x603, 0, .any, true⟩ → (s.dispatched h 0x603).openTxn h.ring.toNat = some x →
         (s.dispatched h 0x603).commitBad (s.ctxOf h) x p = false →
         exec (.cfgCommit h p) s = .next (s.after h 0x603 fun id _ t => t.commit id x p)))
  ∧ (∀ (h : Hdr) (s : State) (x : Txn), x.changes.length < 8192 →
       let staged := fun (ch : Change) (id _ : Nat) (t : State) =>
         (t.updTxn x.id fun t => { t with changes := t.changes ++ [ch] }).finishNow id
       (∀ p, s.Ready h ⟨0x601, 0, .any, true⟩ → (s.dispatched h 0x601).openTxn h.ring.toNat = some x →
           firstErr ((s.dispatched h 0x601).cfgWriteChecks h.ring.toNat (s.ctxOf h) p) = none →
           exec (.cfgWrite h p) s = .next (s.after h 0x601 (staged (.reg p.addr p.value p.mask))))
       ∧ (∀ p, s.Ready h ⟨0x310, 0, .context, true⟩ → (s.dispatched h 0x310).openTxn h.ring.toNat = some x →
           firstErr ((s.dispatched h 0x310).slotWriteChecks (s.ctxOf h) p) = none →
           exec (.almSlotWrite h p) s = .next (s.after h 0x310 (staged (.alm p))))
       ∧ (∀ r : BitVec 16, s.Ready h ⟨0x430, 0, .context, true⟩ → (s.dispatched h 0x430).openTxn h.ring.toNat = some x →
           exec (.fenceClear h r) s = .next (s.after h 0x430 (staged (.fenceClear r.toNat))))
       ∧ (∀ e r, s.Ready h ⟨0x431, 0, .context, true⟩ → (s.dispatched h 0x431).openTxn h.ring.toNat = some x →
           (s.dispatched h 0x431).canRejoin (s.ctxOf h) = true →
           exec (.partRejoin h e r) s = .next (s.after h 0x431 (staged (.rejoin e r))))
       ∧ (∀ p, s.Ready h ⟨0x610, 0, .context, true⟩ → (s.dispatched h 0x610).openTxn h.ring.toNat = some x →
           firstErr ((s.dispatched h 0x610).calLoadChecks (s.ctxOf h) p) = none →
           exec (.calLoad h p) s = .next (s.after h 0x610 fun id c t =>
             staged (t.calChange c p) id c (t.calRead id c p))))

/-- The rows of transactions: application at an idle point, the class 3 packets that carry votes and decisions, a vote that
the coordinator takes, its decision at a member, and the two timers, each of which an arrival of its own cycle precedes
(R275, R335, R338, R340); what counts as the same cycle is the model's choice (log entry 80). A vote that comes after its
transaction was decided without it is dropped, counted late where the timer decided; whether the vote of such a rank is
that one or belongs to the next transaction of the same txn_id is a free choice (log entry 69). A vote after the expiry is
dropped, counted, and noted as come. -/
def Obligations.TransactionRowsRun : Prop :=
  ∀ (s : State) (c : BitVec 6) (w : W32),
    (∀ n, s.boot.phase = .ready →
      ((s.txns.any fun t => t.id == n && s.idlePoint t) = true →
        exec (.cfgApplyIdle n) s = .next (s.applyAll (s.txns.filter s.idlePoint)))
      ∧ ((s.txns.any fun t => t.id == n && s.idlePoint t) = false → exec (.cfgApplyIdle n) s = .next s))
    ∧ (∀ (n : BitVec 5) (b : W32) (r : Pkt), inRange n.toNat s.nPorts = true → s.fab.cache.contains r.srcPart.toNat = true →
        r.dstCtx = c →
        let vote := Pkt.leading [w, b] r
        let decision := Pkt.leading [w] r
        let known := s.touchEpt r.srcPart.toNat
        (s.takes n.toNat vote 3 0x01 = true → exec (.txnVote n w b r) s = .next ((known.takeMgmt vote).untie
          (.voteTimeout c w) (isVoteOf c w) fun t => t.voteExpired c.toNat w))
        ∧ (s.takes n.toNat decision 3 0x02 = true → exec (.txnDecision n w r) s = .next ((known.takeMgmt decision).untie
          (.decisionWaitTimeout c w) (isDecisionOf c w) fun t => t.waitExpired c.toNat w)))
    ∧ (∀ t : State,
        (t.tied.contains (.voteTimeout c w) = false → ∀ f body, t.untie (.voteTimeout c w) f body = t)
        ∧ (t.tied.contains (.decisionWaitTimeout c w) = false → ∀ f body, t.untie (.decisionWaitTimeout c w) f body = t))
    ∧ (∀ (r st : Nat) (o : W32 × Nat × Bool), s.answers c.toNat = true → s.coordinates c.toNat = true →
        (s.ctx c.toNat).overdue.find? (fun o => o.1 == w && o.2.1 == r) = some o →
        let t := { s with freeCount := s.freeCount + 1 }.updCtx c.toNat fun y =>
          { y with overdue := dropFirst (fun z => z == o) y.overdue }
        s.takeVote c.toNat w r st = if Config.isLate s.freeCount then (if o.2.2 then t.lateDrop else t)
          else t.countVote c.toNat w r st)
    ∧ (∀ (r st : Nat) (x : Txn), s.answers c.toNat = true → s.coordinates c.toNat = true → s.voting c.toNat w = some x →
        (s.ctx c.toNat).overdue.find? (fun o => o.1 == w && o.2.1 == r) = none →
        (s.now < x.votedAt + x.voteUs * 1000 →
          s.takeVote c.toNat w r st = ((s.updCtx c.toNat fun y =>
            { y with votes := (y.votes.filter fun v => !(v.1 == w && v.2.1 == r)) ++ [(w, r, st)] }).tryDecide x x.own).2)
        ∧ (x.votedAt + x.voteUs * 1000 < s.now → s.takeVote c.toNat w r st
          = (s.updCtx c.toNat fun y => { y with tardyVotes := y.tardyVotes ++ [(w, r)] }).lateDrop))
    ∧ (∀ (b : Bool) (x : Txn), s.answers c.toNat = true → s.voting c.toNat w = some x →
        (s.now < x.votedAt + (x.voteUs + 1000) * 1000 → s.takeDecision c.toNat w b = s.decideTxn x b)
        ∧ (x.votedAt + (x.voteUs + 1000) * 1000 < s.now → s.takeDecision c.toNat w b = s.lateDrop))
    ∧ (∀ x : Txn, s.answers c.toNat = true → s.coordinates c.toNat = true → s.voting c.toNat w = some x →
        x.votedAt + x.voteUs * 1000 ≤ s.now →
        ((s.now = x.votedAt + x.voteUs * 1000 → s.comes (isVoteOf c w) = false) →
          exec (.voteTimeout c w) s = .next (((((s.expectLate x true).sendDecision x false).dropVotes c.toNat w).updCtx c.toNat fun y =>
            { y with closedVotes := y.closedVotes ++ [w] }).decideTxn x false))
        ∧ (s.now = x.votedAt + x.voteUs * 1000 → s.comes (isVoteOf c w) = true →
          exec (.voteTimeout c w) s = .next { s with tied := s.tied ++ [.voteTimeout c w] }))
    ∧ (∀ x : Txn, s.voting c.toNat w = some x → x.votedAt + (x.voteUs + 1000) * 1000 ≤ s.now →
        (s.now = x.votedAt + (x.voteUs + 1000) * 1000 → s.comes (isDecisionOf c w) = false) →
        exec (.decisionWaitTimeout c w) s = .next ((s.updCtx c.toNat fun y =>
          { y with closedWaits := y.closedWaits ++ [w] }).decideTxn x false))

/-! ### Queues, contexts and completion (R310, R315, R322 to R324, R395) -/

/-- QUEUE_CREATE makes its queue, QUEUE_DESTROY begins its removal, CTX_ASSIGN assigns clusters or begins their release,
and CNT_SELECT zeroes a deep counter and selects what it counts (R322 to R324, R395). -/
def Obligations.AdminCommandsRun : Prop :=
  ∀ (h : Hdr) (s : State),
    (∀ p, s.Ready h ⟨0x620, 0, .admin, false⟩ → (s.dispatched h 0x620).queueCreateErr p = none →
        exec (.queueCreate h p) s = .next (s.after h 0x620 fun id _ t =>
          ((t.revive p.context.toNat).setQueue p.queue.toNat (QueueCreateP.made p)).finishNow id))
    ∧ (∀ q : BitVec 15, s.Ready h ⟨0x621, 0, .admin, false⟩ → (s.dispatched h 0x621).queueDestroyErr q.toNat = none →
        exec (.queueDestroy h q) s = .next (s.after h 0x621 fun id _ t =>
          (t.updFlight id fun f => { f with work := .destroy q.toNat }).finishLater id))
    ∧ (∀ p, s.Ready h ⟨0x622, 0, .admin, false⟩ → (s.dispatched h 0x622).ctxAssignErr p = none →
        (p.release = false → exec (.ctxAssign h p) s = .next (s.after h 0x622 fun id _ t =>
          (t.assign p.context.toNat (maskClusters p.mask)).finishNow id))
        ∧ (p.release = true → exec (.ctxAssign h p) s = .next (s.after h 0x622 fun id _ t =>
          (t.updFlight id fun f => { f with work := .release p.context.toNat (maskClusters p.mask) }).finishLater id)))
    ∧ (∀ p, s.Ready h ⟨0x702, 0, .any, false⟩ →
        (s.dispatched h 0x702).cntSelectErr h.ring.toNat (s.ctxOf h) p = none →
        exec (.cntSelect h p) s = .next (s.after h 0x702 fun id _ t =>
          ((t.setReg .vwmDcntSel (CntSelectP.index p) (BitVec.ofNat 64 (CntSelectP.sel p))).setReg .vwmDcntValue
            (CntSelectP.index p) 0).finishNow id))

/-- A command completes only once its work is over and every store of it has landed; then its statistics go to their
slots, its counter and record follow, and the units that it held go on with the commands behind it (R144, R163, R179,
R315). Until then the row changes nothing. -/
def Obligations.CompletionWaitsForEffects : Prop :=
  ∀ (s : State) (id : Nat),
    (s.flightOf id = none → exec (.commandComplete id) s = .next s)
    ∧ ∀ f : Flight, s.flightOf id = some f →
      ((f.finished = false ∨ s.waitingStores id = true ∨ s.boot.running = false) → exec (.commandComplete id) s = .next s)
      ∧ (f.finished = true → s.waitingStores id = false → s.boot.running = true →
          (s.lastWork f = none → exec (.commandComplete id) s = .next s)
          ∧ ∀ t, s.lastWork f = some t → exec (.commandComplete id) s
            = .next ((((t.flightStats f).complete id).wakeUnits (s.unitsOf f)).settle f.ctx))

/-- Assigned clusters belong to the context, every other cluster keeps its owner, and released clusters have none
(R310, R324). -/
def Obligations.ClusterOwnersFollowAssignment : Prop :=
  ∀ (s : State) (c : Nat) (ks : List Nat) (k : Nat),
    (s.assign c ks).ownerOf k = (if ks.contains k then some c else s.ownerOf k)
    ∧ (s.releaseClusters ks).ownerOf k = (if ks.contains k then none else s.ownerOf k)
    ∧ (s.assign c ks).mem = s.mem ∧ (s.assign c ks).regs = s.regs

/-! ### Ports and the link layer (R264 to R271) -/

/-- Enabling, retraining and the encrypt setting of a port; its training, alignment, capability flits, one each 1 µs,
and their timeouts; an attempt that fails trains again, and the third that fails ends in FAILED (R264, R265, R269 to
R271). That a retrain which software asks for sets the attempts to 1 is the model's reading (log entry 67). -/
def Obligations.PortsComeUp : Prop :=
  (∀ (s : State) (n : BitVec 5), inRange n.toNat s.nPorts = true → s.boot.phase = .ready →
     (∃ t, exec (.ngfPortEnable n true) s = .next t ∧ t.fld .ngfPortCtrl n.toNat 0 0 = 1
         ∧ ((s.port n.toNat).st = .disabled → (t.port n.toNat).st = .train ∧ (t.port n.toNat).attempts = 1)
         ∧ ((s.port n.toNat).st ≠ .disabled → t.port n.toNat = s.port n.toNat))
     ∧ (∃ t, exec (.ngfPortEnable n false) s = .next t ∧ t.fld .ngfPortCtrl n.toNat 0 0 = 0
         ∧ (t.port n.toNat).st = .disabled)
     ∧ ((s.port n.toNat).st ≠ .disabled → ∃ t, exec (.ngfPortRetrain n) s = .next t ∧ (t.port n.toNat).st = .train
         ∧ (t.port n.toNat).attempts = 1 ∧ (t.port n.toNat).replay = [])
     ∧ (∀ b, ∃ t, exec (.ngfPortEncrypt n b) s = .next t ∧ t.fld .ngfPortCtrl n.toNat 2 2 = (if b then 1 else 0)
         ∧ t.ports = s.ports ∧ t.mem = s.mem))
  ∧ (∀ (s : State) (n : BitVec 5), inRange n.toNat s.nPorts = true →
       let p := s.port n.toNat
       (∀ l : BitVec 8, p.st = .train → lanesOf (s.goodLanes n.toNat l.toNat) ≠ 0 →
           ∃ t, exec (.linkTrainDone n l) s = .next t ∧ (t.port n.toNat).st = .align
             ∧ (t.port n.toNat).trained = s.goodLanes n.toNat l.toNat ∧ (t.port n.toNat).enteredAt = s.now
             ∧ ∀ k, k ≠ n.toNat → t.port k = s.port k)
       ∧ (∀ l : BitVec 8, p.st = .train → lanesOf (s.goodLanes n.toNat l.toNat) = 0 →
           exec (.linkTrainDone n l) s = .next (s.failAttempt n.toNat))
       ∧ (p.st = .train → p.enteredAt + 500000000 ≤ s.now → exec (.linkTrainTimeout n) s = .next (s.failAttempt n.toNat))
       ∧ (p.st = .align → p.aligned = false → ∃ t, exec (.alignDone n) s = .next t
           ∧ (t.port n.toNat).lanes = lanesOf p.trained ∧ (t.port n.toNat).aligned = true
           ∧ ((t.port n.toNat).st = .negotiate ↔ s.fld .ngfPartId 0 31 31 = 1))
       ∧ (p.st = .align → p.aligned = false → p.enteredAt + 10000000 ≤ s.now →
           exec (.alignTimeout n) s = .next (s.failAttempt n.toNat))
       ∧ (p.st = .negotiate → p.capNext ≤ s.now → exec (.capabilityFlitSend n) s
           = .next { s.setPort n.toNat { p with capNext := s.now + 1000 } with
               out := { s.out with capFlits := s.out.capFlits ++ [(n.toNat, s.capFlit n.toNat)] } })
       ∧ (p.st = .negotiate → s.now < p.capNext → exec (.capabilityFlitSend n) s = .next s)
       ∧ (p.st = .negotiate → p.enteredAt + 10000000 ≤ s.now →
           exec (.negotiateTimeout n) s = .next (s.failAttempt n.toNat))
       ∧ (3 ≤ p.attempts → ((s.failAttempt n.toNat).port n.toNat).st = .failed)
       ∧ (p.attempts < 3 → ((s.failAttempt n.toNat).port n.toNat).st = .train
           ∧ ((s.failAttempt n.toNat).port n.toNat).attempts = p.attempts + 1))

/-- A peer's capability flit decides: no common version is FAILED; a key that fails under encryption both ends ask for keeps
NEGOTIATE; else CHECK, and the port is UP exactly when digest and encrypt setting match its own, and in QUARANTINE when they
do not. A sound control flit is checked the same way; one whose CRC or tag fails draws a nak (R267, R269 to R271). Where the
control flit carries the digest and the encrypt setting is the model's choice (log entry 78). -/
def Obligations.CheckDecidesUpOrQuarantine : Prop :=
  ∀ (s : State) (n : BitVec 5), inRange n.toNat s.nPorts = true →
    let p := s.port n.toNat
    let own := s.fld .ngfPortCtrl n.toNat 2 2 == 1
    (∀ k : CapFlit, p.st = .negotiate →
        ((1 < k.vmin.toNat ∨ k.vmax.toNat < 1) →
          ∃ t, exec (.capabilityFlitReceive n k) s = .next t ∧ (t.port n.toNat).st = .failed)
        ∧ (k.vmin.toNat ≤ 1 → 1 ≤ k.vmax.toNat → ((own && k.encrypt) = true → k.keyOk = true) →
          ∃ t, exec (.capabilityFlitReceive n k) s = .next t ∧ (t.port n.toNat).attempts = 0
            ∧ ((k.digest = s.reg .ngfFabDigest 0 ∧ k.encrypt = own) → (t.port n.toNat).st = .up)
            ∧ (¬ (k.digest = s.reg .ngfFabDigest 0 ∧ k.encrypt = own) → (t.port n.toNat).st = .quarantine))
        ∧ (k.vmin.toNat ≤ 1 → 1 ≤ k.vmax.toNat → own = true → k.encrypt = true → k.keyOk = false →
          ∃ t, exec (.capabilityFlitReceive n k) s = .next t ∧ (t.port n.toNat).st = .negotiate))
    ∧ (∀ (pay : List Byte) (e : FlitHead × FlitCheck), (p.st = .up ∨ p.st = .quarantine) →
        let f := Flit.of e.1 pay e.2
        let bs := p.clear n.toNat flitControl f
        let d := BitVec.ofNat 64 (ofLeBytes (bs.take 8))
        let b := ofLeBytes ((bs.drop 8).take 1) % 2 == 1
        (p.sound n.toNat flitControl f = true → ∃ t, exec (.controlFlitReceive n pay e) s = .next t
          ∧ ((d = s.reg .ngfFabDigest 0 ∧ b = p.encrypt) → (t.port n.toNat).st = .up)
          ∧ (¬ (d = s.reg .ngfFabDigest 0 ∧ b = p.encrypt) → (t.port n.toNat).st = .quarantine))
        ∧ (p.sound n.toNat flitControl f = false → exec (.controlFlitReceive n pay e) s
            = .next ((s.setPort n.toNat { p with rxPos := PortS.pass p.rxPos flitControl 1 }).sendNak n.toNat)))

/-- Flits of a port that carries: a data flit in sequence with a good CRC (and tag, where ciphered) is acknowledged, one
credit of its channel returned, and the next number expected; any other gets a nak and changes nothing else. A sound ack
frees the replay buffer; a sound nak replays, and the sixteenth in succession for one flit trains the port anew; lost FEC
lock does too (R266 to R270). That each sound data flit draws one ack, with one credit, is the model's reading (log entry
67). -/
def Obligations.FlitRowsRun : Prop :=
  ∀ (s : State) (n : BitVec 5), inRange n.toNat s.nPorts = true →
    let p := s.port n.toNat
    let passed := fun ftype : Nat => s.setPort n.toNat { p with rxPos := PortS.pass p.rxPos ftype 1 }
    (p.st = .up ∨ p.st = .quarantine) →
    (∀ f : Flit, p.sound n.toNat flitData f = true → f.fseq.toNat = p.rxNext →
        ∃ t : State, exec (.flitDataReceive n f) s = .next (t.ackFlit n.toNat f)
          ∧ (t.port n.toNat).rxNext = (p.rxNext + 1) % 4096 ∧ t.mem = s.mem
          ∧ ∃ a : Flit, t.out.acks = s.out.acks ++ [(n.toNat, flitAck, a)] ∧ a.ackseq = BitVec.ofNat 12 p.rxNext
            ∧ a.credits = 1)
    ∧ (∀ f : Flit, (p.sound n.toNat flitData f = false ∨ f.fseq.toNat ≠ p.rxNext) →
        exec (.flitDataReceive n f) s = .next (s.sendNak n.toNat)
        ∧ ∃ a : Flit, (s.sendNak n.toNat).out.acks = s.out.acks ++ [(n.toNat, flitNak, a)]
          ∧ a.ackseq = BitVec.ofNat 12 ((p.rxNext + 4095) % 4096))
    ∧ (∀ (h : FlitHead) (pay : List Byte) (k : FlitCheck), let f := Flit.of h pay k
        exec (.flitAckReceive n h pay k) s = .next (if p.sound n.toNat flitAck f = true
          then (passed flitAck).ackFlit n.toNat f else (passed flitAck).sendNak n.toNat))
    ∧ (∀ f : Flit, p.queued = [] → ((s.ackFlit n.toNat f).port n.toNat).replay = freeReplay f.ackseq.toNat p.replay)
    ∧ (∀ f : Flit, exec (.flitNakReceive n f) s = .next (if p.sound n.toNat flitNak f = true
          then ((passed flitNak).gainCredits n.toNat f.creditVc.toNat f.credits.toNat).replay n.toNat f.ackseq.toNat
          else (passed flitNak).sendNak n.toNat))
    ∧ (∀ (a : Nat) (f : Flit) (fs : List Flit), freeReplay a p.replay = f :: fs →
        let again := (f :: fs).length = p.replay.length ∧ f.fseq.toNat = p.replayFrom
        let t := s.replay n.toNat a
        ((again ∧ 15 ≤ p.replayCount) → (t.port n.toNat).st = .train)
        ∧ (¬ (again ∧ 15 ≤ p.replayCount) → (t.port n.toNat).st = p.st ∧ (t.port n.toNat).replay = f :: fs
            ∧ (again → (t.port n.toNat).replayCount = p.replayCount + 1)
            ∧ (¬ again → (t.port n.toNat).replayCount = 1)
            ∧ t.out.flits = s.out.flits ++ (f :: fs).map fun x => (n.toNat, x)))
    ∧ (∃ t, exec (.fecLockLoss n) s = .next t ∧ (t.port n.toNat).st = .train)

/-! ### Clocks, the governor, ageing and the thermal limits (R342 to R365) -/

/-- The PLL's lock starts the clocks in phase ROM; without it within 200 µs, or when the reference is lost at any time once
PORST_N is high, the part fails with cause 4 (R410; that this holds in every phase, before the lock too, is the model's
reading, log entry 35); droops, gates after 64 idle cycles of the cluster and a pulse on EQX_SYNC act as R343, R348, R350 and
R352 give. -/
def Obligations.ClockRowsRun : Prop :=
  ∀ (s : State),
    (s.boot.phase = .rom → s.boot.pllLocked = false →
      exec .pllLock s = .next { s with boot := { s.boot with pllLocked := true, running := true } }
      ∧ ∃ t, exec .pllLockTimeout s = .next t ∧ t.boot.phase = .failed ∧ t.boot.cause = 4)
    ∧ (s.boot.phase ≠ .off →
      ∃ t, exec .refclkLoss s = .next t ∧ t.boot.phase = .failed ∧ t.boot.running = false ∧ t.boot.pllLocked = false
        ∧ t.flight = [] ∧ (s.boot.phase ≠ .failed → t.boot.cause = 4)
        ∧ t.fld .clkStatus 0 8 8 = 1 ∧ t.fld .clkStatus 0 9 9 = 1)
    ∧ (∀ k : BitVec 7, inRange k.toNat s.nClus = true →
      exec (.droopStart k) s = .next (s.setClusClk k.toNat { s.clusClk k.toNat with droop := true })
      ∧ exec (.droopEnd k) s = .next (s.setClusClk k.toNat { s.clusClk k.toNat with droop := false })
      ∧ (s.boot.running = true →
          ((clusterUnits k.toNat).any fun u =>
            s.unitBusy (dieOfClus k.toNat) u || s.grantedTo (dieOfClus k.toNat) u) = false →
          (s.clusClk k.toNat).lastBusy + 64 ≤ s.clusCycles k.toNat →
          exec (.clockGate k) s = .next (s.setClusClk k.toNat { s.clusClk k.toNat with gated := true })))
    ∧ (s.fld .clkPpsCtrl 0 0 0 = 1 → s.boot.running = true →
      ∃ t, exec .ppsEdge s = .next t ∧ t.reg .clkPpsCapture 0 = Reg.cut .clkPpsCapture (BitVec.ofNat 64 s.now)
        ∧ t.reg .clkPpsCount 0 = Reg.cut .clkPpsCount (s.reg .clkPpsCount 0 + 1) ∧ t = { s with regs := t.regs })

/-- A governor tick comes 100 timebase cycles after the one before it: it takes the new requests in their order, releases
everything after an overcurrent, goes on with a soft brake, or else grants and releases; then units that were granted begin
their work. A unit that has idled for 64 of its own cycles asks for release, an overcurrent is counted, grants come back
after 10 µs, and BRAKE_N begins a soft brake and holds grants off, but adds nothing to a warm reset's own brake (R354 to R360,
R422). That a pending warm reset takes place at a tick row, and that the requests since the last tick join by unit index, is
the model's reading (log entry 29). -/
def Obligations.GovernorRowsRun : Prop :=
  ∀ (s : State) (d : BitVec 3), inRange d.toNat s.dies = true →
    (s.tickDue d.toNat = false → exec (.govTick d) s = .next s.warmed)
    ∧ (s.tickDue d.toNat = true → exec (.govTick d) s
        = .next (((s.govTick d.toNat).wakeUnits (dieUnits d.toNat)).settleAll.warmed))
    ∧ (s.tickDue d.toNat = true ↔ s.boot.running = true ∧ s.shut = false ∧ (s.govOf d.toNat).lastTick + 100 ≤ s.now)
    ∧ (let g := s.setGov d.toNat ((s.govOf d.toNat).gather s.now)
       let step := s.fld .govCtrl d.toNat 7 0
       let counted := fun u : State => (u.bump .govWait d.toNat
         ((u.govOf d.toNat).waiting.length + (u.govOf d.toNat).fresh.length)).bump .govCoast d.toNat
         (u.govOf d.toNat).asking.length
       let t := s.govTick d.toNat
       ((s.govOf d.toNat).emergDue = true → (t.govOf d.toNat).granted = [] ∧ (t.govOf d.toNat).emergDue = false
         ∧ (t.govOf d.toNat).brake = none ∧ (t.govOf d.toNat).emergUntil = some (s.now + 10000))
       ∧ (∀ b, (s.govOf d.toNat).emergDue = false → (s.govOf d.toNat).brake = some b →
           t = counted (g.brakeTick d.toNat b))
       ∧ ((s.govOf d.toNat).emergDue = false → (s.govOf d.toNat).brake = none → t = counted (g.rampTick d.toNat step)))
    ∧ (∀ u : GovUnit, (∀ i, u = .engine i → i < 256) → (∀ i, u = .elt i → i < 32) → (∀ i, u = .qnt i → i < 16) →
        s.grantedTo d.toNat u = true → (s.govOf d.toNat).asking.contains u = false → s.unitBusy d.toNat u = false →
        64 ≤ s.idleCycles d.toNat u →
        exec (.unitReleaseRequest d u) s = .next (s.setGov d.toNat { s.govOf d.toNat with
          asking := (s.govOf d.toNat).asking ++ [u] }))
    ∧ (s.boot.running = true → ∃ t, exec (.overcurrent d) s = .next t ∧ (t.govOf d.toNat).emergDue = true
        ∧ t.reg .govEmerg d.toNat = Reg.cut .govEmerg (s.reg .govEmerg d.toNat + 1) ∧ t.flight = s.flight)
    ∧ (∀ e, (s.govOf d.toNat).emergUntil = some e → e ≤ s.now →
        exec (.emergencyRegrant d) s = .next (s.setGov d.toNat { s.govOf d.toNat with emergUntil := none }))
    ∧ (∃ t, exec .brakeNAssert s = .next t ∧ t.brakeN = true
        ∧ (s.boot.running = true → s.boot.warming = false → s.shut = false →
            ∀ k, k < s.dies → (t.govOf k).brake.isSome = true)
        ∧ ((s.boot.running = false ∨ s.boot.warming = true) → t.gov = s.gov ∧ t.regs = s.regs))
    ∧ exec .brakeNRelease s = .next { s with brakeN := false }

/-- What a tick grants at once stays within the step and the room that the cap leaves, in the order of the queue; what it
releases stays within the step, and no more goes once what was needed has been reached; a throttle releases some unit
while one is as light as the step (R354, R355, R358, R365; that it passes over heavier ones is the model's reading, log
entry 29). -/
def Obligations.GovernorWavesAreBounded : Prop :=
  (∀ (fuel step room : Nat) (w g : List GovUnit), ∃ new : List GovUnit,
     (grantWave fuel step room w g).2.2 = g ++ new ∧ w = new ++ (grantWave fuel step room w g).2.1
     ∧ (new.map govWeight).sum ≤ step ∧ (new.map govWeight).sum ≤ room
     ∧ (grantWave fuel step room w g).1 + (new.map govWeight).sum = step)
  ∧ (∀ (w : List GovUnit) (step need : Nat), ∃ rest : List GovUnit,
       w = releaseWave w step need ++ rest ∧ ((releaseWave w step need).map govWeight).sum ≤ step
       ∧ (∀ u ∈ (releaseWave w step need).getLast?, ((releaseWave w step need).dropLast.map govWeight).sum < need ∧ u ∈ w))
  ∧ (∀ (w : List GovUnit) (step need : Nat),
       (releaseFit w step need).Sublist w ∧ ((releaseFit w step need).map govWeight).sum ≤ step
       ∧ (∀ u ∈ (releaseFit w step need).getLast?, ((releaseFit w step need).dropLast.map govWeight).sum < need ∧ u ∈ w)
       ∧ (0 < need → (∃ u ∈ w, govWeight u ≤ step) → releaseFit w step need ≠ []))

/-- A measurement that is due starts in READY, and in no other phase at this row; at its end a slack of 15 ps or more
plans the next one for 6 hours later; less raises the guard band by 5 mV through a set-point write to the die's
regulator and measures again, or, at 700 mV or where the regulator does not acknowledge, exhausts the guard band, and an
exhausted one is raised no more (R362 to R364, R420). The command code of the write is the model's choice (log entry 83); that the 6 hours run from the end of
the last measurement (log entry 28) and that this row does nothing outside READY (log entry 34) are its readings. -/
def Obligations.AgeingRowsRun : Prop :=
  ∀ (s : State) (d : BitVec 3), inRange d.toNat s.dies = true →
    (s.boot.phase ≠ .ready → exec (.ageingMeasure d) s = .next s)
    ∧ (s.boot.running = true → s.boot.phase = .ready → (s.ageOf d.toNat).measuring = none →
        (s.ageOf d.toNat).due ≤ s.now →
        (s.thermOf d.toNat = .throttle → (s.ageOf d.toNat).due + 600000000000 ≤ s.now) →
        exec (.ageingMeasure d) s = .next (s.setAge d.toNat { s.ageOf d.toNat with measuring := some s.now }))
    ∧ (∀ (m : Nat) (x : BitVec 16) (b : Bool), (s.ageOf d.toNat).measuring = some m → m + 2000000 ≤ s.now →
        exec (.ageingMeasureDone d x b) s = .next (s.judgeSlack d.toNat x.toNat b))
    ∧ (∀ (x : Nat) (b : Bool),
        let t := s.judgeSlack d.toNat x b
        let mv := 650 + min 50 (s.guardMv d.toNat + 5)
        (15 ≤ x → (t.ageOf d.toNat).measuring = none ∧ (t.ageOf d.toNat).due = s.now + 21600000000000
          ∧ t.guardMv d.toNat = s.guardMv d.toNat ∧ t.out.setpoints = s.out.setpoints)
        ∧ (x < 15 → s.guardMv d.toNat < 50 → (s.ageOf d.toNat).exhausted = false →
            t.out.setpoints = s.out.setpoints ++ [(64 + d.toNat, 0x21, mv)])
        ∧ (x < 15 → s.guardMv d.toNat < 50 → (s.ageOf d.toNat).exhausted = false → b = true →
            (t.ageOf d.toNat).measuring = some s.now
            ∧ t.guardMv d.toNat = min 50 (s.guardMv d.toNat + 5) ∧ t.setpoint d.toNat = mv)
        ∧ (x < 15 → (50 ≤ s.guardMv d.toNat ∨ (s.ageOf d.toNat).exhausted = true) →
            t.out.setpoints = s.out.setpoints)
        ∧ (x < 15 → (50 ≤ s.guardMv d.toNat ∨ (s.ageOf d.toNat).exhausted = true ∨ b = false) →
            (t.ageOf d.toNat).exhausted = true
            ∧ (t.ageOf d.toNat).measuring = none ∧ t.guardMv d.toNat = s.guardMv d.toNat))

/-- The thermal levels, in quarters of a degree: shutdown stays until a reset and comes at 115 °C, trip at 105 °C; a trip
ends only below 90 °C; between 90 °C and 95 °C a throttle stays and a normal die stays normal; at 95 °C a die throttles. A
sample moves each die by the hottest of its 11 sensors and the anchor die by its 8 (R365, R385, R422, R424). -/
def Obligations.ThermalLevelsHaveHysteresis : Prop :=
  (∀ (l : Therm) (x : Nat),
    (l = .shutdown ∨ 460 ≤ x ↔ l.next x = .shutdown)
    ∧ (l ≠ .shutdown → 420 ≤ x → x < 460 → l.next x = .trip)
    ∧ (l = .trip → 360 ≤ x → x < 460 → l.next x = .trip)
    ∧ ((l = .normal ∨ l = .throttle) → 380 ≤ x → x < 420 → l.next x = .throttle)
    ∧ ((l = .normal ∨ l = .throttle) → 360 ≤ x → x < 380 → l.next x = l)
    ∧ (l ≠ .shutdown → x < 360 → l.next x = .normal))
  ∧ (∀ (s : State) (ts : List Nat), s.boot.aon = true →
      (s.boot.phase = .off → exec (.thermalSample ts) s = .next { s with temps := ts })
      ∧ (s.boot.phase ≠ .off → ∃ t, exec (.thermalSample ts) s = .next t ∧ t.temps = ts
          ∧ t.boot.phase = s.boot.phase ∧ t.flight = s.flight
          ∧ (∀ d, d < s.dies → t.thermOf d = (s.thermOf d).next (((ts.drop (11 * d)).take 11).foldl max 0)
              ∧ t.fld .govStatus d 23 16 = min 255 (((ts.drop (11 * d)).take 11).foldl max 0 / 4))
          ∧ t.thermOf anchorTherm = (s.thermOf anchorTherm).next (((ts.drop 88).take 8).foldl max 0)))

/-- Faults that firmware reports after readiness: one context's structures terminate that context, the part's are a part
fault, as are a lost die link and an absent heartbeat (R367, R369, R370). The fault history never holds more than its
records, and a permanent record stays; a second power cycle's failure makes one (R373 to R375). -/
def Obligations.FaultsEndWork : Prop :=
  (∀ (s : State), s.boot.phase = .ready →
     (∀ c : BitVec 6, s.boot.partFault = false → (s.ctx c.toNat).terminated = false →
         ∃ t, exec (.ctxStructUe c) s = .next t ∧ (t.ctx c.toNat).terminated = true)
     ∧ (∃ t, exec .partStructUe s = .next t ∧ t.boot.partFault = true)
     ∧ (∀ l : BitVec 5, s.hasLink l.toNat = true → ∃ t, exec (.dieLinkLoss l) s = .next t ∧ t.boot.partFault = true)
     ∧ (∀ d : BitVec 3, inRange d.toNat s.dies = true →
         ∃ t, exec (.cpHeartbeatTimeout d) s = .next t ∧ t.boot.partFault = true))
  ∧ (∀ (s : State) (k i : Nat),
       (s.hist.faults.length ≤ historyRecords → (s.recordFailure k i).hist.faults.length ≤ historyRecords)
       ∧ (∀ a b, s.permanent a b = true → (s.recordFailure k i).permanent a b = true)
       ∧ (∀ r, s.hist.faults.find? (fun r => r.kind == k && r.index == i) = some r → r.lastPc ≠ s.hist.pc →
           (s.recordFailure k i).permanent k i = true))

/-! ### The security alarm and keys (R374, R376 to R380, R422) -/

/-- A sensor's condition is logged and acts by its class: B and C drive ALARM_N for 10 ms, C erases the KEK, A and B leave
it; one of the security mesh that comes before the always-on domain answers is kept for its release; the KEK loads from an
aligned blob within the admin region while no Class C condition persists, and is erased on request (R376 to R379, R422,
R425); a signed maintenance request erases a permanent record (R374). The message that its signature covers (log entry 37) and
that a failed load leaves the KEK before it (log entry 38) are the model's. -/
def Obligations.AlarmAndKeyRowsRun : Prop :=
  ∀ (s : State),
    (∀ k, s.sensorWatched k = true → s.sec.active.contains k = false →
      ∃ t, exec (.securityAlarm [k]) s = .next t ∧ t.sec.active = NatSet.ins k s.sec.active
        ∧ t.hist.alarms = s.hist.alarms ++ [(k, s.alarmClass k, s.now)]
        ∧ (s.alarmClass k = 3 → t.sec.kek = none ∧ t.sec.kekState = 4)
        ∧ (s.alarmClass k ≠ 3 → t.sec.kek = s.sec.kek)
        ∧ (2 ≤ s.alarmClass k → t.sec.alarmNUntil = some (s.now + 10000000)))
    ∧ (s.boot.aon = false → exec (.securityAlarm [3]) s = .next { s with sec := { s.sec with meshDue := true } })
    ∧ (∀ k : BitVec 3, ∃ t, exec (.alarmRearm k) s = .next t ∧ t.sec.active.contains k.toNat = false
        ∧ ∀ j, j ≠ k.toNat → t.sec.active.contains j = s.sec.active.contains j)
    ∧ (∀ e, s.sec.alarmNUntil = some e → e ≤ s.now →
        exec .alarmNRelease s = .next { s with sec := { s.sec with alarmNUntil := none } })
    ∧ (s.boot.phase = .ready → s.boot.bases ≠ [] →
        (∃ t, exec .vwmKekErase s = .next t ∧ t.sec.kek = none ∧ t.sec.kekState = 4 ∧ t.mem = s.mem)
        ∧ (s.classC = true → ∃ t, exec .vwmKekLoad s = .next t ∧ t.sec.kekState = 4 ∧ t.sec.kek = s.sec.kek)
        ∧ (s.classC = false → (s.reg .vwmKekAddr 0).toNat % 64 = 0 → (s.reg .vwmKekAddr 0).toNat + 256 ≤ 67108864 →
            ∃ t, exec .vwmKekLoad s = .next t ∧ t.sec.kekState = 3 ∧ t.sec.kekLoad.isSome = true ∧ t.sec.kek = s.sec.kek)
        ∧ (s.classC = false → ((s.reg .vwmKekAddr 0).toNat % 64 ≠ 0 ∨ 67108864 < (s.reg .vwmKekAddr 0).toNat + 256) →
            ∃ t, exec .vwmKekLoad s = .next t ∧ t.sec.kekState = 2 ∧ t.sec.kek = s.sec.kek))
    ∧ (∀ x k n, s.sec.kekLoad = some (x, some k, n) →
        ∃ t, exec .kekLoadDone s = .next t ∧ t.sec.kek = some k ∧ t.sec.kekId = n ∧ t.sec.kekState = 1)
    ∧ (∀ x n, s.sec.kekLoad = some (x, none, n) →
        ∃ t, exec .kekLoadDone s = .next t ∧ t.sec.kek = s.sec.kek ∧ t.sec.kekState = 2)
    ∧ (∀ (k : BitVec 4) (i : BitVec 24) (key sig : List Byte), s.boot.aon = true → s.mgmt.running = true →
        let valid := sha384 key == Config.fusedKeyHash
          && ecdsaVerify key (sha384 (leBytes 4 (k.toNat * 2 ^ 28 + i.toNat))) sig
        ∃ t, exec (.signedMaintenanceRequest k i key sig) s = .next t
          ∧ t.permanent k.toNat i.toNat = (s.permanent k.toNat i.toNat && !valid)
          ∧ t = { s with hist := t.hist } ∧ t.hist.pc = s.hist.pc ∧ t.hist.alarms = s.hist.alarms)

/-! ### Resets and start-up (R407 to R415, R422 to R426) -/

/-- The resets: PORST_N low holds the part off, its release counts a power cycle and starts phase ROM; a warm reset first
brakes what is granted, its work still in flight, and then starts phase ROM and keeps the timebase; memory but flash is
lost, and the history store stays; the always-on rails' fall also resets the alarm classes (R358, R407, R408, R422, R424,
R425). That every byte outside flash then reads 0 is the model's choice (log entry 4); that a warm reset with nothing
granted takes place at once (log entry 29) and what the rails' fall loses (log entry 33) are its reading. -/
def Obligations.ResetRowsRun : Prop :=
  ∀ (s : State),
    let reborn := fun t : State => t.boot.phase = .rom ∧ t.boot.running = false ∧ t.boot.warming = false
      ∧ t.boot.pllLocked = false ∧ t.clk.timebase = s.clk.timebase ∧ t.flight = [] ∧ t.queues = [] ∧ t.pages = []
      ∧ t.sec.kek = none ∧ t.hist.pc = s.hist.pc
    let braking := fun t : State => t.boot.warming = true ∧ t.boot.phase = s.boot.phase ∧ t.flight = s.flight
      ∧ t.queues = s.queues ∧ (s.shut = false → ∀ k, k < s.dies → (t.govOf k).brake.isSome = true)
    (s.boot.porst = true → ∃ t, exec .porstNAssert s = .next t ∧ t.boot.phase = .off ∧ t.boot.porst = false
      ∧ t.boot.running = false ∧ t.flight = [] ∧ t.queues = [] ∧ t.pages = [] ∧ t.sec.kek = none
      ∧ t.clk.timebase = 0 ∧ (∀ a, (a < 2 * memStride ∨ 3 * memStride ≤ a) → t.byte a = 0)
      ∧ ((∀ m ∈ s.images, m.st ≠ .draining) → t.hist = s.hist ∧ t.images = s.images
          ∧ ∀ a, 2 * memStride ≤ a → a < 3 * memStride → t.byte a = s.byte a))
    ∧ (s.boot.porst = false → ∃ t, exec .porstNDeassert s = .next t ∧ t.boot.phase = .rom ∧ t.boot.porst = true
      ∧ t.hist.pc = (s.hist.pc + 1) % 4294967296 ∧ t.hist.faults = s.hist.faults ∧ t.mem = s.mem)
    ∧ (s.boot.porst = true → s.boot.phase ≠ .off → (s.boot.running && s.anyGrant) = false →
        (∃ t, exec .vwmBootWarmReset s = .next t ∧ exec (.warmReset .hotReset) s = .next t ∧ reborn t)
        ∧ ∀ b, ∃ t, exec (.warmReset (.perst b)) s = .next t ∧ reborn t ∧ t.boot.perst = !b)
    ∧ (s.boot.porst = true → s.boot.phase ≠ .off → (s.boot.running && s.anyGrant) = true →
        (∃ t, exec .vwmBootWarmReset s = .next t ∧ exec (.warmReset .hotReset) s = .next t ∧ braking t)
        ∧ ∀ b, ∃ t, exec (.warmReset (.perst b)) s = .next t ∧ braking t ∧ t.boot.perst = !b)
    ∧ (s.boot.warming = true → (s.boot.running = false ∨ ∀ e ∈ s.gov, e.2.brake = none) →
        s.warmed = s.restart ∧ reborn s.restart)
    ∧ exec .perstNRelease s = .next { s with boot := { s.boot with perst := true } }
    ∧ (s.boot.aon = true → ∃ t, exec .aonRailFall s = .next t ∧ t.boot.aon = false ∧ t.mgmt.running = false
        ∧ t.sec = State.reset.sec ∧ t.evt.log = [] ∧ t.hist.pc = s.hist.pc
        ∧ t.reg .vwmAlarmClass 0 = Reg.vwmAlarmClass.info.reset ∧ t.reg .vwmEvtSeq 0 = Reg.vwmEvtSeq.info.reset)
    ∧ (s.boot.aon = false → s.sec.meshDue = false → exec .aonResetRelease s
        = .next { s with boot := { s.boot with aon := true }, mgmt := { s.mgmt with running := true } })
    ∧ (s.boot.aon = false → s.sec.meshDue = true → ∃ t, exec .aonResetRelease s = .next t ∧ t.boot.aon = true
        ∧ t.mgmt.running = true ∧ t.sec.meshDue = false ∧ t.sec.active.contains 3 = true)

/-- Start-up: the ROM awaits firmware, the host writes an image of an allowed length and sets go, a valid image enters
BRINGUP and a rejected one goes back, the third of a power cycle failing the part; BRINGUP stays while a die's first ageing
measurement goes on, ends in readiness with the admin queue and every counter zero, or fails with a bad stack or after 5 s,
at once where the clocks have stopped (the model's reading, log entry 14) (R304, R363, R409 to R415). ROM_COMPLETE reports
the link that fails to train, whatever the history store holds (the model's choice, log entry 94). An entry into FAILED joins the history store (R410; the form of that record is the model's, log
entry 93). That BRINGUP_DONE only starts the measurements of dies with short slack, and comes again after them, is its reading
(log entry 34). -/
def Obligations.BootRowsRun : Prop :=
  ∀ (s : State),
    (s.boot.phase = .rom → s.boot.pllLocked = true → s.boot.perst = true →
      (s.badLink none = none → ∃ t, exec (.romComplete none) s = .next t ∧ t.boot.phase = .awaitFw)
      ∧ (∀ l : BitVec 5, s.hasLink l.toNat = true → ∃ t, exec (.romComplete (some l)) s = .next t
          ∧ t.boot.phase = .failed ∧ t.boot.cause = 2 ∧ t.boot.unit = l.toNat
          ∧ t.hist.partFails = s.hist.partFails ++ [(2, l.toNat, s.hist.pc)]))
    ∧ (∀ (o : BitVec 24) bs, s.boot.phase = .awaitFw → o.toNat + bs.length ≤ 16777216 →
        ∃ t, exec (.imageBufferWrite o bs) s = .next t
          ∧ (∀ i, (hi : i < bs.length) → t.byte (physImage o.toNat + i) = bs[i])
          ∧ (∀ a, Apart a (physImage o.toNat) bs.length → t.byte a = s.byte a) ∧ t.regs = s.regs)
    ∧ (∀ o bs, s.boot.phase ≠ .awaitFw → exec (.imageBufferWrite o bs) s = .next s)
    ∧ (∀ v : W32, s.boot.phase = .awaitFw → ∃ t, exec (.vwmBootLenWrite v) s = .next t
        ∧ (t.reg .vwmBootLen 0).setWidth 32 = v ∧ t = { s with regs := t.regs })
    ∧ (s.boot.phase = .awaitFw →
        (lenOk (s.reg .vwmBootLen 0).toNat = true → ∃ t, exec .vwmBootGo s = .next t ∧ t.boot.phase = .verify)
        ∧ (lenOk (s.reg .vwmBootLen 0).toNat = false →
            exec .vwmBootGo s = .next (s.setReg .vwmBootStatus 0 (s.reg .vwmBootStatus 0 ||| 4))))
    ∧ (s.boot.phase = .verify →
        let ok := imageOk s.variant (s.rd (physImage 0) (s.reg .vwmBootLen 0).toNat)
        ∃ t, exec .verifyDone s = .next t
          ∧ t.boot.phase = (if ok then .bringup else if s.boot.fwFails < 2 then .awaitFw else .failed)
          ∧ t.boot.fwFails = (if ok then s.boot.fwFails else min 3 (s.boot.fwFails + 1))
          ∧ t.boot.cause = (if ok || decide (s.boot.fwFails < 2) then s.boot.cause else 1))
    ∧ (∀ r, s.boot.phase = .bringup → s.basesOk r.bases = true →
        (r.hbmFail = none → s.badStack none = none →
          let u := (List.range s.dies).foldl (fun (s : State) d =>
            s.startAge d (nth 0 r.slackPs d) (!r.vrNack.contains d) (!r.vrRaiseNack.contains d)) s
          (u.ageing = true → exec (.bringupDone r) s = .next u)
          ∧ (u.ageing = false → ∃ t, exec (.bringupDone r) s = .next t ∧ t.boot.phase = .ready
              ∧ t.queue 0 = adminQueue ∧ t.reg .cfgGen 0 = 1 ∧ t.boot.bases = r.bases
              ∧ ∀ c ∈ Reg.counters, ∀ i, t.reg c i = 0)
          ∧ ((∀ d, d < s.dies → 15 ≤ nth 0 r.slackPs d) → (∀ d, d < s.dies → (s.ageOf d).measuring = none) →
              u.ageing = false))
        ∧ (∀ k, r.hbmFail = some k → ∃ t, exec (.bringupDone r) s = .next t ∧ t.boot.phase = .failed
          ∧ t.boot.cause = 3 ∧ t.boot.unit = k.toNat
          ∧ t.hist.partFails = s.hist.partFails ++ [(3, k.toNat, s.hist.pc)]))
    ∧ (∀ d : BitVec 8, s.boot.phase = .bringup →
        (s.boot.running = false ∨ (s.reg .vwmBootStamp 0).toNat + 5000000000 ≤ s.now) →
        ∃ t, exec (.bringupTimeout d) s = .next t ∧ t.boot.phase = .failed ∧ t.boot.cause = 5 ∧ t.boot.unit = d.toNat
          ∧ t.hist.partFails = s.hist.partFails ++ [(5, d.toNat, s.hist.pc)])

/-! ### Vexward (R385 to R405) -/

/-- A management request is answered on a binding that Vexward answers on, and changes nothing of the part's work; it is lost
elsewhere (R386 to R388). The SGMII port's frames and address, the start of a management firmware bank within 2 s and its
timeout, and the event ring's coalesced message (R388, R389, R392). The bodies of the answers (log entries 30, 87 and 103) and that
at 2 s both the start and the timeout may come (log entry 31) are the model's. -/
def Obligations.ManagementAnswers : Prop :=
  (∀ (s : State) (b : Binding),
     let said := fun (t u : State) (bs : List Byte) => t.out.mgmt = u.out.mgmt ++ [.response b bs] ∧ t.mem = s.mem
       ∧ t.flight = s.flight ∧ t.queues = s.queues ∧ t.pages = s.pages ∧ t.hist = s.hist
     (s.answersOn b = true →
       (∃ t, exec (.pldmBaseRequest b) s = .next t ∧ said t s (Config.baseBody s.boot.fwVersion) ∧ t.mgmt = s.mgmt)
       ∧ (∀ e, ∃ t, exec (.mctpSetEndpointId b e) s = .next t ∧ said t s (Config.mgmtBody 1) ∧ t.mgmt.eid = e)
       ∧ (∀ e, ∃ t, exec (.pldmMonitorRequest b (.setReceiver e)) s = .next t ∧ said t s (Config.mgmtBody 2)
           ∧ t.mgmt.receiver = some e)
       ∧ (∃ t, exec (.pldmMonitorRequest b .bootPhase) s = .next t ∧ said t s [0, BitVec.ofNat 8 s.boot.phase.code]
           ∧ t.mgmt = s.mgmt)
       ∧ (∀ n : BitVec 16, ∃ t bs, exec (.pldmMonitorRequest b (.readSensor n)) s = .next t ∧ said t s bs ∧ t.regs = s.regs)
       ∧ (∀ v img, ∃ t, exec (.pldmFwUpdate b (.write v img)) s = .next t ∧ said t s (Config.mgmtBody 4)
           ∧ t.mgmt.bank = s.mgmt.bank ∧ t.mgmt.image (!s.mgmt.bank) = img ∧ t.mgmt.version (!s.mgmt.bank) = v
           ∧ t.mgmt.image s.mgmt.bank = s.mgmt.image s.mgmt.bank ∧ t.mgmt.verified = false)
       ∧ (∀ key sig, ∃ t, exec (.pldmFwUpdate b (.verify key sig)) s = .next t
           ∧ t.mgmt = { s.mgmt with verified := s.idleOk key sig } ∧ t.flight = s.flight ∧ t.queues = s.queues
           ∧ t.out.mgmt[s.out.mgmt.length]?
             = some (.response b (Config.mgmtBody (if s.idleOk key sig then 5 else 6))))
       ∧ (s.mgmt.verified = true → ∃ t, exec (.pldmFwUpdate b .activate) s = .next t ∧ said t s (Config.mgmtBody 7)
           ∧ t.mgmt.bank = !s.mgmt.bank ∧ t.mgmt.restart = some s.now ∧ t.mgmt.running = false)
       ∧ (s.mgmt.verified = false → ∃ t, exec (.pldmFwUpdate b .activate) s = .next t ∧ said t s (Config.mgmtBody 8)
           ∧ t.mgmt = s.mgmt)
       ∧ (∀ r, ∃ t, exec (.pldmOemRequest b r) s = .next t ∧ said t s (s.oemBody r) ∧ t.mgmt = s.mgmt)
       ∧ (∀ r, ∃ t, exec (.spdmRequest b r) s = .next t ∧ said t s (s.spdmBody r) ∧ t.mgmt = s.mgmt))
     ∧ (s.answersOn b = false → exec (.pldmBaseRequest b) s = .next s ∧ (∀ r, exec (.pldmOemRequest b r) s = .next s)
       ∧ (∀ r, exec (.pldmFwUpdate b r) s = .next s) ∧ ∀ r, exec (.spdmRequest b r) s = .next s))
  ∧ (∀ (s : State),
       (s.answersOn .sgmii = true →
         (∃ t, exec (.arpIcmpEchoRequest .arp) s = .next t ∧ t.out.mgmt = s.out.mgmt ++ [.network (Config.mgmtBody 32)])
         ∧ (∃ t, exec (.arpIcmpEchoRequest .icmpEcho) s = .next t
             ∧ t.out.mgmt = s.out.mgmt ++ [.network (Config.mgmtBody 33)])
         ∧ exec (.arpIcmpEchoRequest .other) s = .next s ∧ ∀ p, exec (.arpIcmpEchoRequest (.udp p)) s = .next s)
       ∧ (s.address = none → ∀ f, exec (.arpIcmpEchoRequest f) s = .next s)
       ∧ (∀ a : W32, s.boot.aon = true → s.mgmt.running = true → s.hist.staticIp = none →
           ∃ t, exec (.dhcpAddressAssign a) s = .next t ∧ t.address = some a ∧ t = { s with mgmt := t.mgmt })
       ∧ (∀ x, s.mgmt.restart = some x → s.boot.aon = true →
           (s.now ≤ x + 2000000000 → ∃ t, exec .mgmtFwBankStart s = .next t ∧ t.mgmt.running = true
             ∧ t.mgmt.restart = none ∧ t.mgmt.bank = s.mgmt.bank ∧ t.evt.held = [])
           ∧ (x + 2000000000 ≤ s.now → ∃ t, exec .mgmtFwStartTimeout s = .next t ∧ t.mgmt.running = true
             ∧ t.mgmt.restart = none ∧ (t.mgmt.bank = !s.mgmt.bank) ∧ t.evt.held = []))
       ∧ (∀ x, s.evt.msixDue = true → s.evt.msixLast = some x → x + 10000 ≤ s.now →
           ∃ t, exec .evtMsixCoalesce s = .next t ∧ t.evt.msixDue = false ∧ t.evt.msixLast = some s.now
             ∧ t.out.msix = s.out.msix ++ [s.fld .vwmEvtCtrl 0 10 0]))

/-- Vigil: a snapshot runs on dispatch; a queue is examined once its grain has passed since its last examination (R400): one
that does not wait is dropped, one that waits anew is noted, one that has waited for hang_ms becomes suspect once, and one
that waits on is only marked examined; a request under a new graph_id builds its graph (R400 to R404), whose own requests carry
the hop count plus one (the model's choice, log entry 39). -/
def Obligations.VigilRowsRun : Prop :=
  ∀ (s : State),
    (∀ h b dst n, s.Ready h ⟨0x701, 0, .any, false⟩ →
        (s.dispatched h 0x701).snapErr h.ring.toNat (s.ctxOf h) dst n = none →
        exec (.vigilSnapshot h b dst n) s
          = .next (s.after h 0x701 fun id c t => t.runSnapshot id h.ring.toNat c b dst n))
    ∧ (∀ q : BitVec 15, inRange q.toNat s.nQueues = true → s.boot.phase = .ready →
        let v := s.vigilOf q.toNat
        let hang := s.fld .vwmVigilCtrl 0 15 0 * 1000000
        (s.vigilDue q.toNat = false → exec (.vigilExamine q) s = .next s)
        ∧ (s.vigilDue q.toNat = true →
          ((s.queueWait q.toNat).code = 0 →
            exec (.vigilExamine q) s = .next (s.setVigil q.toNat { VigilQ.none with last := s.now }))
          ∧ ((s.queueWait q.toNat).code ≠ 0 → v.same (s.vigilNow q.toNat) = false →
            exec (.vigilExamine q) s = .next (s.setVigil q.toNat (s.vigilNow q.toNat)))
          ∧ ((s.queueWait q.toNat).code ≠ 0 → v.same (s.vigilNow q.toNat) = true →
            (v.suspect = true ∨ s.now < v.since + hang) →
            exec (.vigilExamine q) s = .next (s.setVigil q.toNat { v with last := s.now }))
          ∧ ((s.queueWait q.toNat).code ≠ 0 → v.same (s.vigilNow q.toNat) = true → v.suspect = false →
            v.since + hang ≤ s.now → exec (.vigilExamine q) s = .next (s.suspectQueue q.toNat)
              ∧ ((s.suspectQueue q.toNat).vigilOf q.toNat).suspect = true)))
    ∧ (∀ (g : W64) (n : Nat), s.boot.aon = true → s.mgmt.running = true → s.boot.phase = .ready →
        s.vigil.ids.contains g = false → ∃ t, exec (.vigilFollowRequest g n) s = .next t ∧ t.vigil.ids.contains g = true
          ∧ t = (s.buildGraph none g (if n < 4 then some (n + 1) else none) false).2)
    ∧ (∀ g n, s.vigil.ids.contains g = true → exec (.vigilFollowRequest g n) s = .next s)

/-- The event log holds the latest 4,096 records in order, and each event takes the next number (R383, R391). -/
def Obligations.EventLogIsARing : Prop :=
  ∀ (s : State) (code sev : Nat) (ctx : Option Nat) (o n : Nat) (d : List W32),
    let r := s.logEvent code sev ctx o n d
    r.1.seq = (s.reg .vwmEvtSeq 0).toNat
    ∧ r.2.reg .vwmEvtSeq 0 = Reg.cut .vwmEvtSeq (s.reg .vwmEvtSeq 0 + 1)
    ∧ r.2.evt.log.getLast? = some r.1
    ∧ r.2.evt.log.length ≤ 4096
    ∧ (s.evt.log.length < 4096 → r.2.evt.log = s.evt.log ++ [r.1])
    ∧ (s.evt.log.length = 4096 → r.2.evt.log = s.evt.log.tail ++ [r.1])
    ∧ (∀ (i : Reg) (k : Nat), i ≠ .vwmEvtSeq → r.2.reg i k = s.reg i k)

/-! ### Register writes (R9, R11, R16, and the register maps) -/

/-- A direct write by the host of an RW register, once firmware has placed the windows: the register takes the written RW
bits within its limits, and every other register, the memory and the commands in flight stay, but for VWM_VIGIL_CTRL,
NGF_PART_ID, NGF_FAB_DIGEST and EQX_CREDITS, whose change itself starts more. The registers of a context that a command in
flight holds take a write only without one (R160, R190, R232). -/
def Obligations.DirectWritesStore : Prop :=
  ∀ (s : State), s.boot.phase = .ready → s.boot.bases ≠ [] →
    let takes := fun (c : Instr) (r : Reg) (i : Nat) (v : W64) =>
      ∃ t, exec c s = .next t ∧ t.reg r i = s.merged r i v (BitVec.allOnes 64) ∧ t.mem = s.mem ∧ t.flight = s.flight
        ∧ ∀ r' i', Reg.key r' i' ≠ Reg.key r i → t.reg r' i' = s.reg r' i'
    (∀ (e : BitVec 11) (v : W32), inRange e.toNat s.nEng = true →
        takes (.engRunaheadWrite e v) .engRunahead e.toNat (v.setWidth 64))
    ∧ (∀ (c : BitVec 6) (v : W32), takes (.ngfCtxCtrlWrite c v) .ngfCtxCtrl c.toNat (v.setWidth 64))
    ∧ (∀ (d : BitVec 3) (v : W32), inRange d.toNat s.dies = true → takes (.govCtrlWrite d v) .govCtrl d.toNat (v.setWidth 64))
    ∧ (∀ v : W32, takes (.vwmEvtCtrlWrite v) .vwmEvtCtrl 0 (v.setWidth 64) ∧ takes (.vwmEvtConsWrite v) .vwmEvtCons 0 (v.setWidth 64)
        ∧ takes (.lanCtrlWrite v) .lanCtrl 0 (v.setWidth 64) ∧ takes (.lanConsWrite v) .lanCons 0 (v.setWidth 64))
    ∧ (∀ v : W32, ∃ t, exec (.vwmVigilCtrlWrite v) s = .next t
        ∧ t.reg .vwmVigilCtrl 0 = s.merged .vwmVigilCtrl 0 (v.setWidth 64) (BitVec.allOnes 64) ∧ t.flight = s.flight)
    ∧ (∀ v : W32, s.beyondAlign = false → ∃ t, exec (.ngfPartIdWrite v) s = .next t
        ∧ t.reg .ngfPartId 0 = s.merged .ngfPartId 0 (v.setWidth 64) (BitVec.allOnes 64))
    ∧ (∀ v : W32, s.beyondAlign = true → exec (.ngfPartIdWrite v) s = .next s)
    ∧ (∀ v : W64, ∃ t, exec (.ngfFabDigestWrite v) s = .next t
        ∧ t.reg .ngfFabDigest 0 = s.merged .ngfFabDigest 0 v (BitVec.allOnes 64))
    ∧ (∀ c : BitVec 6, (s.ctxFlights c.toNat).isEmpty = true → ∀ (v : W32) (w : W64),
        takes (.eqxCtrlWrite c v) .eqxCtrl c.toNat (v.setWidth 64) ∧ takes (.eqxGroupBaseWrite c w) .eqxGroupBase c.toNat w
        ∧ takes (.eqxGroupWrite c v) .eqxGroup c.toNat (v.setWidth 64)
        ∧ takes (.eqxTimeoutWrite c v) .eqxTimeout c.toNat (v.setWidth 64)
        ∧ takes (.cfgRngSeedWrite c w) .cfgRngSeed c.toNat w ∧ takes (.cfgRngStepWrite c w) .cfgRngStep c.toNat w
        ∧ takes (.cfgStreamBaseWrite c w) .cfgStreamBase c.toNat w ∧ takes (.almBaseWrite c w) .almBase c.toNat w
        ∧ ∃ t, exec (.eqxCreditsWrite c v) s = .next t
          ∧ t.reg .eqxCredits c.toNat = s.merged .eqxCredits c.toNat (v.setWidth 64) (BitVec.allOnes 64))

/-- A direct write that its chapter ignores changes nothing but the flag that says so: while the context has commands in
flight (R160, R190, R232), to the registers that only a transaction changes (R241, R352, R380), beyond the quotas (R218)
or beyond staging (R142). -/
def Obligations.IgnoredWritesOnlyFlag : Prop :=
  ∀ (s : State), s.boot.phase = .ready → s.boot.bases ≠ [] →
    let flags := fun (c : Instr) (r : Reg) (i b : Nat) =>
      exec c s = .next (s.setReg r i (s.reg r i ||| BitVec.ofNat 64 b))
    (∀ c : BitVec 6, (s.ctxFlights c.toNat).isEmpty = false → ∀ (v : W32) (w : W64),
      flags (.eqxCtrlWrite c v) .eqxFlags c.toNat 128 ∧ flags (.eqxGroupBaseWrite c w) .eqxFlags c.toNat 128
      ∧ flags (.eqxGroupWrite c v) .eqxFlags c.toNat 128 ∧ flags (.eqxTimeoutWrite c v) .eqxFlags c.toNat 128
      ∧ flags (.eqxCreditsWrite c v) .eqxFlags c.toNat 128
      ∧ flags (.cfgRngSeedWrite c w) .cfgRngFlags c.toNat 4 ∧ flags (.cfgRngStepWrite c w) .cfgRngFlags c.toNat 4
      ∧ flags (.cfgStreamBaseWrite c w) .cfgRngFlags c.toNat 4 ∧ exec (.almBaseWrite c w) s = .next s)
    ∧ (∀ v : W32, flags (.eqxSyncCfgWrite v) .clkStatus 0 1024 ∧ flags (.clkPpsCtrlWrite v) .clkStatus 0 1024
      ∧ flags (.vwmAlarmClassWrite v) .vwmAlarmStatus 0 8 ∧ flags (.vwmCheckCtrlWrite v) .vwmAlarmStatus 0 8)
    ∧ (∀ (c : BitVec 6) (v : W32),
      let x := s.merged .tierQuotaHbm c.toNat (v.setWidth 64) (BitVec.allOnes 64)
      let y := s.merged .tierQuotaFlash c.toNat (v.setWidth 64) (BitVec.allOnes 64)
      (s.quotaRefused .tierQuotaHbm c.toNat x = true → flags (.tierQuotaHbmWrite c v) .tierCtxErr c.toNat 1)
      ∧ (s.quotaRefused .tierQuotaHbm c.toNat x = false → exec (.tierQuotaHbmWrite c v) s
          = .next (s.setReg .tierQuotaHbm c.toNat x))
      ∧ (s.quotaRefused .tierQuotaFlash c.toNat y = true → flags (.tierQuotaFlashWrite c v) .tierCtxErr c.toNat 1)
      ∧ (s.quotaRefused .tierQuotaFlash c.toNat y = false → exec (.tierQuotaFlashWrite c v) s
          = .next (s.setReg .tierQuotaFlash c.toNat y)))
    ∧ (∀ (k : BitVec 7) (v : W32), inRange k.toNat s.nClus = true →
      let x := s.merged .splStageQuota k.toNat (v.setWidth 64) (BitVec.allOnes 64)
      (s.stageRefused k.toNat x = true → flags (.splStageQuotaWrite k v) .splErr k.toNat 2)
      ∧ (s.stageRefused k.toNat x = false → ∃ t, exec (.splStageQuotaWrite k v) s = .next t
          ∧ t.reg .splStageQuota k.toNat = x
          ∧ (bits x 23 16 ≠ 0 → t.flight = s.flight ∧ t.clus = s.clus)))

/-- The clear registers: written with their bit, they zero their counters and leave every other register; without it they
change nothing (R9 and the register maps). -/
def Obligations.ClearRowsZeroTheirCounters : Prop :=
  ∀ (s : State), s.boot.phase = .ready → s.boot.bases ≠ [] →
    let clears := fun (c : Instr) (on : Bool) (rs : List (Reg × Nat)) =>
      ∃ t, exec c s = .next t ∧ t = { s with regs := t.regs }
        ∧ (∀ r i, t.reg r i = if on && rs.contains (r, i) then 0 else s.reg r i)
    (∀ (e : BitVec 11) (v : W32), inRange e.toNat s.nEng = true →
        clears (.engCntClear e v) (v.getLsbD 0) [(.engCntIssue, e.toNat), (.engCntBound, e.toNat), (.engCntStarve, e.toNat),
          (.engCntSlotwait, e.toNat), (.engCntActive, e.toNat)]
        ∧ clears (.accCtrlClear e v) (v.getLsbD 0) [(.accSatCount, e.toNat), (.accPromoCount, e.toNat)])
    ∧ (∀ (k : BitVec 7) (v : W32), inRange k.toNat s.nClus = true →
        clears (.splCtrlClearWait k v) (v.getLsbD 1) [(.splChainWait, k.toNat)]
        ∧ clears (.splCtrlClearExp k v) (v.getLsbD 0) [(.splExpMax, k.toNat)]
        ∧ clears (.qntCtrlClear k v) (v.getLsbD 0) [(.qntCntElems, k.toNat), (.qntCntReread, k.toNat)])
    ∧ (∀ v : W32, clears (.cfgCtrlClear v) (v.getLsbD 0) [(.cfgLateClose, 0), (.cfgLateDrop, 0)]
        ∧ clears (.ngfCtrlClear v) (v.getLsbD 0) ([(.ngfEptMiss, 0), (.ngfE2eRetx, 0)]
          ++ (List.range s.nPorts).flatMap fun p => [(.ngfPortReplay, p), (.ngfPortUncorr, p), (.ngfPortDowns, p)]))
    ∧ (∀ (d : BitVec 3) (v : W32), inRange d.toNat s.dies = true →
        clears (.vwmLcCtrlClear d v) (v.getLsbD 0) (lightCounters d.toNat))

/-- A W1C bit written as 1 clears, any other bit of the write does nothing, and a set by hardware in the same cycle is not
lost, in CFG_DB_STATE the bad_write of its queue; a write to no register, to the upper half of a 64-bit register, to the wrong
width, to a register without such bits, or to a window other than the boot page outside READY changes nothing (R9, R11, R16,
R410, R411, R430; that a 64-bit write to a 32-bit register is ignored is the model's reading, log entry 90). -/
def Obligations.WritesByAddress : Prop :=
  ∀ (s : State) (a v hw : W64),
    (s.decodeReg a.toNat = none → exec (.w1cWrite a v hw) s = .next s ∧ ∀ b, exec (.registerWrite a b v) s = .next s)
    ∧ (∀ r i, s.decodeReg a.toNat = some (r, i, false) → s.regLive r = false →
        exec (.w1cWrite a v hw) s = .next s ∧ ∀ b, exec (.registerWrite a b v) s = .next s)
    ∧ (∀ r i, s.decodeReg a.toNat = some (r, i, false) → s.regLive r = true → r ≠ .cfgDbState → r.info.w1c ≠ 0 →
        ∃ t, exec (.w1cWrite a v hw) s = .next t ∧ t = { s with regs := t.regs }
          ∧ (∀ k, k < 64 → (t.reg r i).getLsbD k
              = if r.info.w1c.getLsbD k then ((s.reg r i).getLsbD k && !v.getLsbD k) || hw.getLsbD k
                else (s.reg r i).getLsbD k)
          ∧ ∀ r' i', Reg.key r' i' ≠ Reg.key r i → t.reg r' i' = s.reg r' i')
    ∧ (∀ i, s.decodeReg a.toNat = some (.cfgDbState, i, false) → s.regLive .cfgDbState = true →
        ((s.queue i).present = true → exec (.w1cWrite a v hw) s = .next (s.setQueue i { s.queue i with
          badWrite := ((s.queue i).badWrite && !v.getLsbD 29) || hw.getLsbD 29 }))
        ∧ ((s.queue i).present = false → exec (.w1cWrite a v hw) s = .next s))
    ∧ (∀ r i, s.decodeReg a.toNat = some (r, i, true) →
        exec (.w1cWrite a v hw) s = .next s ∧ ∀ b, exec (.registerWrite a b v) s = .next s)
    ∧ (∀ r i, s.decodeReg a.toNat = some (r, i, false) → r.info.w1c = 0 → exec (.w1cWrite a v hw) s = .next s)
    ∧ (∀ r i b, s.decodeReg a.toNat = some (r, i, false) → r.info.wide ≠ b → exec (.registerWrite a b v) s = .next s)
    ∧ (∀ r i, s.decodeReg a.toNat = some (r, i, false) → s.regLive r = true →
        exec (.registerWrite a r.info.wide v) s = .next (s.writeReg r i (r.cut v)))

/-! ### Numbers and their bytes (R53, R62, R63, R161) -/

/-- Round to nearest even takes the nearer multiple of the quantum, and the even one when the value lies midway (R62). -/
def Obligations.NearestEvenIsNearest : Prop :=
  ∀ m : Mag, 0 < m.den →
    (∀ n : Nat, ((m.num : Int) - m.rne * m.den).natAbs ≤ ((m.num : Int) - n * m.den).natAbs)
    ∧ (2 * (m.num % m.den) = m.den → m.rne % 2 = 0)

/-- Stochastic rounding goes up exactly when the upper 16 bits of the fraction and the draw reach 65,536, and never moves a
representable value; an integer target rounds on the signed value, a floating-point one on the magnitude (R63). -/
def Obligations.StochasticRoundingFollowsTheDraw : Prop :=
  ∀ (m : Mag) (draw : Nat), 0 < m.den → draw < 65536 →
    (m.stoch draw = m.num / m.den ∨ m.stoch draw = m.num / m.den + 1)
    ∧ (m.stoch draw = m.num / m.den + 1 ↔ 65536 ≤ (m.num % m.den) * 65536 / m.den + draw)
    ∧ (m.num % m.den = 0 → m.stoch draw = m.num / m.den ∧ ∀ b : Bool, roundInt (.fin b m) (.stoch draw)
        = if b then -((m.num / m.den : Nat) : Int) else ((m.num / m.den : Nat) : Int))
    ∧ roundInt (.fin false m) (.stoch draw) = (m.stoch draw : Int)
    ∧ roundInt (.fin true m) (.stoch draw) = Int.fdiv (-(m.num : Int)) m.den
        + (if (65536 : Int) ≤ Int.emod (-(m.num : Int)) m.den * 65536 / m.den + draw then 1 else 0)

/-- Codes of w bits packed into a stream: bit j of the stream is bit j mod w of code j / w and lies in bit j mod 8 of byte
j / 8, and the element read back is the code, at its width (R53). -/
def Obligations.PackedCodesReadBack : Prop :=
  ∀ (w : Nat) (codes : List Int), 1 ≤ w → w ≤ 8 →
    (streamPack w codes).length = ceilDiv (w * codes.length) 8
    ∧ (∀ n, (hn : n < codes.length) → streamGet (streamPack w codes) w n = (codes[n] % (2 ^ w : Nat)).toNat)
    ∧ (∀ j, (hj : j / w < codes.length) → ∀ (hb : j / 8 < (streamPack w codes).length),
        ((streamPack w codes)[j / 8]).getLsbD (j % 8) = ((codes[j / w] % (2 ^ w : Nat)).toNat).testBit (j % w))

/-- The byte form of an Almanac statistics block is a codec: the sums that its bytes spell, behind the 8 bytes of
configuration that precede them in a slot, are the sums that were written as bytes (R161). -/
def Obligations.StatisticsReadBack : Prop :=
  ∀ x : StatSum, x.elements < 2 ^ 64 → x.sat < 2 ^ 64 → x.zeroed < 2 ^ 64 → x.nonfinite < 2 ^ 64 →
    x.errSum < 2 ^ 128 → x.sigSum < 2 ^ 128 → x.blocksZero < 2 ^ 32 → x.blocksSat < 2 ^ 32 →
    x.blocksNonfinite < 2 ^ 32 → x.outlierCand < 2 ^ 32 → x.hist.length = 64 → (∀ n ∈ x.hist, n < 2 ^ 32) →
    ∀ e : List Byte, e.length = 8 → StatSum.ofBytes (e ++ StatSum.bytes x) = x
end

