-- ==== Sys2Proof/Laws/Checks.lean ====
section
/-! SUPPORT. What it says of an address or of a page that a shared check lets it pass (R199, R201, R203, R212, R309). -/

namespace Sys2Proof.Machine

open Sys2Proof

/-- An address whose place passes lies in a page, in the admin region, or in tier 0 of a cluster of the context. -/
theorem State.chkPlace_none {s : State} {c w : Nat} {a : W64} (h : s.chkPlace c w a = none) :
    (∃ p off, s.place c a.toNat = .page p off) ∨ (∃ off, s.place c a.toNat = .admin off)
    ∨ ∃ off, s.place c a.toNat = .sram off ∧ s.ownerOf (sramCluster off) = some c := by
  unfold State.chkPlace at h
  split at h
  · cases h
  · refine .inr (.inr ⟨_, ‹_›, ?_⟩)
    simpa [errIf] using h
  · rename_i hhole hsram
    cases hp : s.place c a.toNat with
    | page p off => exact .inl ⟨p, off, rfl⟩
    | admin off => exact .inr (.inl ⟨off, rfl⟩)
    | sram off => exact (hsram off hp).elim
    | hole => exact (hhole hp).elim

/-- A range of pages that passes starts at a page boundary and ends within the map. -/
theorem State.chkPages_none {s : State} {c w n : Nat} {a : W64} (h : s.chkPages c w a n = none) :
    ∃ p, s.place c a.toNat = .page p 0 ∧ p + n ≤ 16777216 := by
  unfold State.chkPages at h
  split at h
  · split at h
    · cases h
    · rename_i p off hp hoff
      have hz : off = 0 := by simpa using hoff
      exact ⟨p, hz ▸ hp, by simpa [errIf] using h⟩
  · cases hc : s.chkPlace c w a <;> simp [hc] at h

/-- A slot that an access may use has a page that is mapped, and one that it may write is not sealed. -/
theorem State.almFault_none {s : State} {c n : Nat} {writes : Bool} (h : s.almFault c n writes = none) :
    s.reg .almBase c ≠ 0 ∧ ∃ p off, s.place c (s.almVa c n) = .page p off ∧ (s.page c p).st ≠ .unmapped
      ∧ (writes = true → (s.page c p).sealed = false) := by
  unfold State.almFault at h
  split at h
  · rename_i p off hp
    split at h
    · cases h
    · rename_i hu
      split at h
      · cases h
      · rename_i hs
        simp only [Bool.or_eq_true, beq_iff_eq, not_or] at hu
        exact ⟨hu.1, p, off, hp, hu.2, fun hw => by simpa [hw] using hs⟩
  · cases h

/-- A slot that can be written has a place in memory. -/
theorem State.almWritable_phys {s : State} {c n : Nat} (h : s.almWritable c n = true) : (s.almPhys c n).isSome = true := by
  obtain ⟨hb, p, off, hp, hu, -⟩ := State.almFault_none (Option.isNone_iff_eq_none.1 h)
  unfold State.almPhys
  simp only [beq_iff_eq, hb, if_false, hp, hu]
  cases hst : (s.page c p).st <;> simp_all [PageS.readPhys]

end Sys2Proof.Machine
end

