-- ==== Sys2Proof/Laws/Map.lean ====
section
/-! SUPPORT. Laws of the sparse map: what a read after a write gives, and that every operation keeps the canonical
form. -/

namespace Sys2Proof

variable {α : Type}

theorem Map.get_del (d : Nat → α) (m : Map α) (k j : Nat) :
    Map.get d (Map.del m k) j = if j = k then d k else Map.get d m j := by
  induction m with
  | nil => simp [Map.del, Map.get]; intro h; rw [h]
  | cons p t ih =>
    obtain ⟨a, v⟩ := p
    simp only [Map.del] at ih ⊢
    by_cases hak : a = k
    · subst hak
      have h : ((a, v) :: t).filter (fun p => p.1 != a) = t.filter (fun p => p.1 != a) := by simp
      rw [h, ih]
      by_cases hj : j = a
      · simp [hj]
      · simp [hj, Map.get, Ne.symm hj]
    · have h : ((a, v) :: t).filter (fun p => p.1 != k) = (a, v) :: t.filter (fun p => p.1 != k) := by simp [hak]
      rw [h]
      by_cases haj : a = j
      · subst haj; simp [Map.get, hak]
      · simp only [Map.get, haj, if_false]; exact ih

theorem Map.get_ins (d : Nat → α) (m : Map α) (k : Nat) (v : α) (j : Nat) (hk : ∀ p ∈ m, p.1 ≠ k) :
    Map.get d (Map.ins k v m) j = if j = k then v else Map.get d m j := by
  induction m with
  | nil => simp [Map.ins, Map.get, eq_comm]
  | cons p t ih =>
    obtain ⟨a, w⟩ := p
    have ha : a ≠ k := hk (a, w) (by simp)
    have ht : ∀ p ∈ t, p.1 ≠ k := fun p hp => hk p (by simp [hp])
    simp only [Map.ins]
    by_cases h : k < a
    · simp only [h, if_true, Map.get]
      by_cases hj : j = k
      · simp [hj]
      · simp [hj, Ne.symm hj]
    · simp only [h, if_false, Map.get]
      by_cases haj : a = j
      · subst haj; simp [ha]
      · simp only [haj, if_false]; exact ih ht

theorem Map.del_ne (m : Map α) (k : Nat) : ∀ p ∈ Map.del m k, p.1 ≠ k := by
  intro p hp
  simpa [Map.del] using (List.mem_filter.1 hp).2

/-- A read after a write. -/
theorem Map.get_set [DecidableEq α] (d : Nat → α) (m : Map α) (k : Nat) (v : α) (j : Nat) :
    Map.get d (Map.set d m k v) j = if j = k then v else Map.get d m j := by
  unfold Map.set
  split
  · rename_i h; rw [Map.get_del, h]
  · rw [Map.get_ins _ _ _ _ _ (Map.del_ne m k), Map.get_del]
    split <;> simp_all

@[simp] theorem Map.get_set_same [DecidableEq α] (d : Nat → α) (m : Map α) (k : Nat) (v : α) :
    Map.get d (Map.set d m k v) k = v := by simp [Map.get_set]

theorem Map.get_set_ne [DecidableEq α] (d : Nat → α) (m : Map α) {k j : Nat} (v : α) (h : j ≠ k) :
    Map.get d (Map.set d m k v) j = Map.get d m j := by simp [Map.get_set, h]

/-- A lookup in what a predicate of the keys leaves. -/
theorem Map.get_filter (d : Nat → α) (m : Map α) (f : Nat → Bool) (k : Nat) :
    Map.get d (m.filter fun p => f p.1) k = if f k then Map.get d m k else d k := by
  induction m with
  | nil => simp [Map.get]
  | cons p t ih =>
    by_cases hp : p.1 = k <;> by_cases hf : f p.1 = true <;> by_cases hk : f k = true <;>
      simp_all [Map.get]

/-- Filtering keeps the canonical form. -/
theorem Map.wf_filter [DecidableEq α] {d : Nat → α} {m : Map α} (f : Nat × α → Bool) (h : Map.wf d m) :
    Map.wf d (m.filter f) :=
  ⟨h.1.sublist List.filter_sublist, fun p hp => h.2 p (List.mem_filter.1 hp).1⟩

theorem Map.wf_del [DecidableEq α] {d : Nat → α} {m : Map α} (k : Nat) (h : Map.wf d m) : Map.wf d (Map.del m k) :=
  Map.wf_filter _ h

theorem Map.mem_ins {k : Nat} {v : α} {m : Map α} {p : Nat × α} (h : p ∈ Map.ins k v m) : p = (k, v) ∨ p ∈ m := by
  induction m with
  | nil => simp [Map.ins] at h; exact .inl h
  | cons q t ih =>
    obtain ⟨a, w⟩ := q
    simp only [Map.ins] at h
    split at h
    · simp only [List.mem_cons] at h ⊢; exact h
    · rcases List.mem_cons.1 h with h | h
      · exact .inr (by simp [h])
      · rcases ih h with h | h
        · exact .inl h
        · exact .inr (by simp [h])

theorem Map.sorted_ins {k : Nat} {v : α} {m : Map α} (hs : m.Pairwise (fun p q => p.1 < q.1))
    (hk : ∀ p ∈ m, p.1 ≠ k) : (Map.ins k v m).Pairwise (fun p q => p.1 < q.1) := by
  induction m with
  | nil => simp [Map.ins]
  | cons q t ih =>
    obtain ⟨a, w⟩ := q
    have ha : a ≠ k := hk (a, w) (by simp)
    rw [List.pairwise_cons] at hs
    simp only [Map.ins]
    split
    · rename_i h
      rw [List.pairwise_cons]
      refine ⟨fun p hp => ?_, List.pairwise_cons.2 hs⟩
      rcases List.mem_cons.1 hp with rfl | hp
      · exact h
      · exact Nat.lt_trans h (hs.1 p hp)
    · rename_i h
      rw [List.pairwise_cons]
      refine ⟨fun p hp => ?_, ih hs.2 fun p hp => hk p (by simp [hp])⟩
      rcases Map.mem_ins hp with rfl | hp
      · simp only; omega
      · exact hs.1 p hp

/-- Writing keeps the canonical form. -/
theorem Map.wf_set [DecidableEq α] {d : Nat → α} {m : Map α} (k : Nat) (v : α) (h : Map.wf d m) :
    Map.wf d (Map.set d m k v) := by
  unfold Map.set
  split
  · exact Map.wf_del k h
  · rename_i hv
    refine ⟨Map.sorted_ins (Map.wf_del k h).1 (Map.del_ne m k), fun p hp => ?_⟩
    rcases Map.mem_ins hp with rfl | hp
    · exact hv
    · exact (Map.wf_del k h).2 p hp

/-- Writing one entry after another keeps the canonical form. -/
theorem Map.wf_foldl_set [DecidableEq α] {β : Type} {d : Nat → α} (key : β → Nat) (val : β → α) (l : List β)
    {m : Map α} (h : Map.wf d m) : Map.wf d (l.foldl (fun m b => Map.set d m (key b) (val b)) m) := by
  induction l generalizing m with
  | nil => exact h
  | cons b t ih => exact ih (Map.wf_set _ _ h)

end Sys2Proof
end

