-- ==== Sys2Proof/Laws/Memory.lean ====
section
/-! SUPPORT. Laws of memory: reads after writes, and that every memory operation keeps the canonical form. -/

namespace Sys2Proof.Machine

open Sys2Proof

theorem wrMem_wf {m : Map Byte} (a : Nat) (bs : List Byte) (h : Map.wf memDefault m) :
    Map.wf memDefault (wrMem m a bs) := by
  induction bs generalizing m a with
  | nil => exact h
  | cons b t ih => exact ih (a + 1) (Map.wf_set a b h)

/-- A byte outside the written ones reads as before. -/
theorem wrMem_frame (m : Map Byte) (a : Nat) (bs : List Byte) (x : Nat) (h : x < a ∨ a + bs.length ≤ x) :
    Map.get memDefault (wrMem m a bs) x = Map.get memDefault m x := by
  induction bs generalizing m a with
  | nil => rfl
  | cons b t ih =>
    simp only [wrMem, List.length_cons] at h ⊢
    rw [ih _ (a + 1) (by omega), Map.get_set_ne _ _ _ (by omega)]

/-- A written byte reads back. -/
theorem wrMem_byte (m : Map Byte) (a : Nat) (bs : List Byte) (i : Nat) (h : i < bs.length) :
    Map.get memDefault (wrMem m a bs) (a + i) = bs[i] := by
  induction bs generalizing m a i with
  | nil => simp at h
  | cons b t ih =>
    cases i with
    | zero => simp only [wrMem, Nat.add_zero]; rw [wrMem_frame _ _ _ _ (by omega)]; simp
    | succ i =>
      have := ih (Map.set memDefault m a b) (a + 1) i (by simpa using h)
      simpa [wrMem, Nat.add_assoc, Nat.add_comm 1 i] using this

theorem wr_wf (s : State) (a : Nat) (bs : List Byte) (p : Bool) (h : s.memWf) : (s.wr a bs p).memWf := by
  unfold State.memWf State.wr
  exact wrMem_wf _ _ h

theorem zero_wf (s : State) (a n : Nat) (h : s.memWf) : (s.zero a n).memWf := Map.wf_filter _ h

theorem copyMem_wf (s : State) (src dst n : Nat) (h : s.memWf) : (s.copyMem src dst n).memWf := by
  unfold State.memWf State.copyMem
  exact Map.wf_foldl_set (fun (e : Nat × Byte) => e.1 - src + dst) (fun (e : Nat × Byte) => e.2) _ (zero_wf s dst n h)

/-- A zeroed range reads 0, and the rest reads as before. -/
theorem zero_byte (s : State) (a n x : Nat) :
    (s.zero a n).byte x = if a ≤ x ∧ x < a + n then 0 else s.byte x := by
  simp only [State.byte, State.zero]
  rw [Map.get_filter memDefault s.mem (fun k => !(decide (a ≤ k) && decide (k < a + n))) x]
  by_cases h : a ≤ x ∧ x < a + n
  · simp [h, memDefault]
  · rw [if_neg h, if_pos (by simp only [Bool.not_eq_true', Bool.and_eq_false_iff, decide_eq_false_iff_not]; omega)]

/-- What a copy leaves at x: the byte that its source holds there, as the list `m` of entries gives it. -/
theorem copy_get (m z : Map Byte) (src dst n x : Nat) (h : ∀ i, i < n → x = dst + i → Map.get memDefault z x = 0) :
    Map.get memDefault ((m.filter fun e => decide (src ≤ e.1) && decide (e.1 < src + n)).reverse.foldl
        (fun m e => Map.set memDefault m (e.1 - src + dst) e.2) z) x
      = if dst ≤ x ∧ x < dst + n then Map.get memDefault m (src + (x - dst)) else Map.get memDefault z x := by
  induction m with
  | nil =>
    by_cases hx : dst ≤ x ∧ x < dst + n
    · simpa [Map.get, memDefault, hx] using h (x - dst) (by omega) (by omega)
    · simp [hx]
  | cons e t ih =>
    by_cases he : src ≤ e.1 ∧ e.1 < src + n
    · simp only [List.filter_cons, he.1, he.2, decide_true, Bool.and_self, if_true, List.reverse_cons, List.foldl_append,
        List.foldl_cons, List.foldl_nil, Map.get_set, ih, Map.get]
      by_cases hx : dst ≤ x ∧ x < dst + n
      · rw [if_pos hx, if_pos hx]
        by_cases h1 : x = e.1 - src + dst
        · rw [if_pos h1, if_pos (by omega)]
        · rw [if_neg h1, if_neg (by omega)]
      · rw [if_neg hx, if_neg hx, if_neg (by omega)]
    · have : (decide (src ≤ e.1) && decide (e.1 < src + n)) = false := by simpa using he
      simp only [List.filter_cons, this, Bool.false_eq_true, if_false, ih, Map.get]
      by_cases hx : dst ≤ x ∧ x < dst + n
      · rw [if_pos hx, if_pos hx, if_neg (by omega)]
      · rw [if_neg hx, if_neg hx]

/-- A copy: the target holds the bytes of the source, and every other byte stays. -/
theorem copyMem_byte (s : State) (src dst n x : Nat) :
    (s.copyMem src dst n).byte x = if dst ≤ x ∧ x < dst + n then s.byte (src + (x - dst)) else s.byte x := by
  simp only [State.byte, State.copyMem]
  rw [copy_get s.mem _ src dst n x (fun i hi hx => by
    have := zero_byte s dst n x
    rw [if_pos (by omega)] at this; exact this)]
  have := zero_byte s dst n x
  simp only [State.byte] at this
  split
  · rfl
  · rw [this, if_neg (by assumption)]

/-- Membership in a set after an insertion. -/
theorem NatSet.mem_ins (k x : Nat) (m : NatSet) : x ∈ NatSet.ins k m ↔ x = k ∨ x ∈ m := by
  induction m with
  | nil => simp [NatSet.ins]
  | cons a t ih =>
    simp only [NatSet.ins]
    split
    · simp
    · split
      · subst_vars; simp
      · simp only [List.mem_cons, ih, or_left_comm]

/-- A copy of whole lines: the target carries the marks of the source, and every other mark stays. -/
theorem copyMem_poison (s : State) (src dst n l : Nat) (hs : src % 64 = 0) (hd : dst % 64 = 0) (hn : n % 64 = 0) :
    l ∈ (s.copyMem src dst n).poison ↔
      if dst / 64 ≤ l ∧ l < (dst + n) / 64 then l - dst / 64 + src / 64 ∈ s.poison else l ∈ s.poison := by
  have key : ∀ (ps z : NatSet), l ∈ ps.foldl (fun p l => NatSet.ins (l - src / 64 + dst / 64) p) z
      ↔ l ∈ z ∨ ∃ q ∈ ps, l = q - src / 64 + dst / 64 := by
    intro ps
    induction ps with
    | nil => simp
    | cons a t ih =>
      intro z
      simp only [List.foldl_cons, ih, NatSet.mem_ins, List.mem_cons, exists_eq_or_imp]
      exact ⟨fun h => h.elim (fun h => h.elim (fun h => .inr (.inl h)) .inl) fun h => .inr (.inr h),
        fun h => h.elim (fun h => .inl (.inr h)) fun h => h.elim (fun h => .inl (.inl h)) .inr⟩
  simp only [State.copyMem, key, State.zero, List.mem_filter, Bool.and_eq_true, decide_eq_true_eq, Bool.not_eq_true',
    Bool.and_eq_false_iff, decide_eq_false_iff_not]
  split
  · rename_i h
    constructor
    · rintro (⟨-, h1 | h1⟩ | ⟨q, ⟨hq, h1, h2⟩, rfl⟩)
      · omega
      · omega
      · rwa [show q - src / 64 + dst / 64 - dst / 64 + src / 64 = q by omega]
    · exact fun hq => .inr ⟨_, ⟨hq, by omega, by omega⟩, by omega⟩
  · rename_i h
    constructor
    · rintro (⟨hl, -⟩ | ⟨q, ⟨hq, h1, h2⟩, rfl⟩)
      · exact hl
      · omega
    · exact fun hl => .inl ⟨hl, by omega⟩

theorem freeRun_wf (s : State) (a n : Nat) (h : s.memWf) : (s.freeRun a n).memWf := by
  refine ⟨?_, fun p hp => ?_⟩
  · simp only [State.freeRun]
    rw [List.pairwise_append, List.pairwise_append]
    refine ⟨⟨h.1.sublist List.filter_sublist, ?_, ?_⟩, h.1.sublist List.filter_sublist, ?_⟩
    · refine List.Pairwise.sublist List.filter_sublist ?_
      rw [List.pairwise_map]
      exact List.pairwise_lt_range.imp fun hab => by simpa using hab
    · intro p hp q hq
      have hp := (List.mem_filter.1 hp).2
      obtain ⟨i, -, rfl⟩ := List.mem_map.1 (List.mem_filter.1 hq).1
      simp at hp ⊢; omega
    · intro p hp q hq
      have hq := (List.mem_filter.1 hq).2
      simp at hq
      rcases List.mem_append.1 hp with hp | hp
      · have hp := (List.mem_filter.1 hp).2
        simp at hp; omega
      · obtain ⟨i, hi, rfl⟩ := List.mem_map.1 (List.mem_filter.1 hp).1
        simp at hi ⊢; omega
  · simp only [State.freeRun] at hp
    rcases List.mem_append.1 hp with hp | hp
    · rcases List.mem_append.1 hp with hp | hp
      · exact h.2 p (List.mem_filter.1 hp).1
      · simpa using (List.mem_filter.1 hp).2
    · exact h.2 p (List.mem_filter.1 hp).1

theorem wrDiff_wf {m : Map Byte} (a : Nat) (old new : List Byte) (h : Map.wf memDefault m) :
    Map.wf memDefault (wrDiff m a old new) := by
  induction new generalizing m a old with
  | nil => cases old <;> exact h
  | cons b t ih =>
    cases old with
    | nil => exact h
    | cons o t' =>
      simp only [wrDiff]
      split
      · exact ih _ _ h
      · exact ih _ _ (Map.wf_set _ _ h)

/-- What a write of bytes leaves: they read back, every other byte is as before. -/
theorem wr_byte (s : State) (a : Nat) (bs : List Byte) (i : Nat) (h : i < bs.length) :
    (s.wr a bs false).byte (a + i) = bs[i] := by
  simpa [State.byte, State.wr] using wrMem_byte s.mem a bs i h

theorem wr_frame (s : State) (a : Nat) (bs : List Byte) (p : Bool) (x : Nat) (h : x < a ∨ a + bs.length ≤ x) :
    (s.wr a bs p).byte x = s.byte x := by
  cases p
  · exact wrMem_frame s.mem a bs x h
  · refine wrMem_frame s.mem a (freeBytes s.freeCount bs.length) x ?_
    simpa [freeBytes] using h

end Sys2Proof.Machine
end

