-- ==== Sys2Proof/Laws/Packet.lean ====
section
/-! SUPPORT. What a packet at the head of its queue does. -/

namespace Sys2Proof.Machine

open Sys2Proof

/-- The visit leaves everything that decides a header fault or a wait. -/
theorem State.visited_keeps (s : State) (q : Nat) :
    (∀ p h o, (s.visited q).headerFault p h o = s.headerFault p h o)
    ∧ (∀ p h o b, (s.visited q).headWait p h o b = s.headWait p h o b)
    ∧ (∀ c, (s.visited q).applyStops (s.visited q).txnScopes c = s.applyStops s.txnScopes c)
    ∧ (∀ p, (s.visited q).queue p = s.queue p) :=
  ⟨fun _ _ _ => rfl, fun _ _ _ _ => rfl, fun _ => rfl, fun _ => rfl⟩

/-- A packet that can be read is visited, and its row goes on with `body`. -/
theorem State.visit_served {s : State} {h : Hdr} (r : s.Served h) (body : State → State) :
    s.visit h.ring.toNat (h.size.toNat + 1) body = .next (body (s.visited h.ring.toNat)) := by
  have hs : ¬ ((s.visited h.ring.toNat).queue h.ring.toNat).published < h.size.toNat + 1 := Nat.not_lt.2 r.slots
  simp only [State.visit, r.range, r.live, r.turn, r.ring, hs]
  rfl

theorem State.packet_ready {s : State} {h : Hdr} {o : Opc} (r : s.Ready h o) (run : Nat → Nat → State → State) :
    s.packet s.txnScopes h o run = .next (s.after h o.code run) := by
  have hk := s.visited_keeps h.ring.toNat
  have hf : (s.visited h.ring.toNat).headWait h.ring.toNat h o
      ((s.visited h.ring.toNat).applyStops s.txnScopes ((s.visited h.ring.toNat).queue h.ring.toNat).ctx) = none := r.free
  have hh : (s.visited h.ring.toNat).headerFault h.ring.toNat h (some o) = none := (hk.1 _ _ _).trans r.header
  rw [State.packet, State.visit_served r.toServed]
  simp only [State.head, hh, hf]
  rfl

theorem State.guarded_none {s : State} {id : Nat} {e : Option Err} (h : e = none) (run : State → State) :
    s.guarded id e run = run s := by subst h; rfl

/-- A visit always answers a next state. -/
theorem State.visit_goes (s : State) (q n : Nat) (body : State → State) : Goes (s.visit q n body) := by
  unfold State.visit
  dsimp only
  split
  · exact ⟨_, rfl⟩
  · split
    · exact ⟨_, rfl⟩
    · split <;> exact ⟨_, rfl⟩

/-- A packet always answers a next state. -/
theorem State.packet_goes (s : State) (sc : Scopes) (h : Hdr) (o : Opc) (run : Nat → Nat → State → State) :
    Goes (s.packet sc h o run) := s.visit_goes _ _ _

end Sys2Proof.Machine
end

