-- ==== Sys2Proof/Laws/State.lean ====
section
/-! SUPPORT. What the updates of the state leave alone: one lemma per field and update, and what each updated piece
reads. -/

namespace Sys2Proof.Machine

open Sys2Proof

/-! ### Updates by a function are updates by a value -/

@[simp] theorem State.updCtx_eq (s : State) (c : Nat) (f : CtxS → CtxS) : s.updCtx c f = s.setCtx c (f (s.ctx c)) := rfl
@[simp] theorem State.updQueue_eq (s : State) (q : Nat) (f : QueueS → QueueS) :
    s.updQueue q f = s.setQueue q (f (s.queue q)) := rfl
@[simp] theorem State.updPage_eq (s : State) (c p : Nat) (f : PageS → PageS) :
    s.updPage c p f = s.setPage c p (f (s.page c p)) := rfl
@[simp] theorem State.updEng_eq (s : State) (e : Nat) (f : EngS → EngS) : s.updEng e f = s.setEng e (f (s.eng e)) := rfl
@[simp] theorem State.updPort_eq (s : State) (p : Nat) (f : PortS → PortS) :
    s.updPort p f = s.setPort p (f (s.port p)) := rfl
@[simp] theorem State.bump_eq (s : State) (r : Reg) (i n : Nat) :
    s.bump r i n = s.setReg r i (r.cut (s.reg r i + BitVec.ofNat 64 n)) := rfl
@[simp] theorem State.orReg_eq (s : State) (r : Reg) (i n : Nat) :
    s.orReg r i n = s.setReg r i (s.reg r i ||| BitVec.ofNat 64 n) := rfl
@[simp] theorem State.setFld_eq (s : State) (r : Reg) (i hi lo v : Nat) :
    s.setFld r i hi lo v = s.setReg r i (setBits (s.reg r i) hi lo v) := rfl

/-! ### Keys of the register file -/

theorem Reg.at_idx (r : Reg) : Reg.all[r.ctorIdx]? = some r := by cases r <;> rfl
theorem Reg.idx_lt (r : Reg) : r.ctorIdx < 1024 := by cases r <;> decide
theorem Reg.idx_inj {r r' : Reg} (h : r.ctorIdx = r'.ctorIdx) : r = r' := by
  have := Reg.at_idx r
  rw [h, Reg.at_idx r'] at this
  exact (Option.some.inj this).symm
theorem Reg.key_inj {r r' : Reg} {i i' : Nat} (h : r.key i = r'.key i') : r = r' ∧ i = i' := by
  have a := r.idx_lt
  have b := r'.idx_lt
  simp only [Reg.key] at h
  exact ⟨Reg.idx_inj (by omega), by omega⟩

/-! ### What an updated piece reads -/

@[simp] theorem State.setReg_reg (s : State) (r : Reg) (i : Nat) (v : W64) : (s.setReg r i v).reg r i = v := by
  simp [State.reg, State.setReg]
theorem State.setReg_reg_ne (s : State) {r r' : Reg} (i i' : Nat) (v : W64) (h : r' ≠ r) :
    (s.setReg r i v).reg r' i' = s.reg r' i' := by
  simp [State.reg, State.setReg, Map.get_set_ne _ _ _ fun k => h (Reg.key_inj k).1]
theorem State.setReg_reg_inst (s : State) (r : Reg) {i i' : Nat} (v : W64) (h : i' ≠ i) :
    (s.setReg r i v).reg r i' = s.reg r i' := by
  simp [State.reg, State.setReg, Map.get_set_ne _ _ _ fun k => h (Reg.key_inj k).2]
@[simp] theorem State.setCtx_ctx (s : State) (c : Nat) (x : CtxS) : (s.setCtx c x).ctx c = x := by
  simp [State.ctx, State.setCtx]
theorem State.setCtx_ctx_ne (s : State) (c : Nat) (x : CtxS) (j : Nat) (h : j ≠ c) :
    (s.setCtx c x).ctx j = s.ctx j := by
  simp [State.ctx, State.setCtx, Map.get_set_ne _ _ _ h]
@[simp] theorem State.setQueue_queue (s : State) (q : Nat) (x : QueueS) : (s.setQueue q x).queue q = x := by
  simp [State.queue, State.setQueue]
theorem State.setQueue_queue_ne (s : State) (q : Nat) (x : QueueS) (j : Nat) (h : j ≠ q) :
    (s.setQueue q x).queue j = s.queue j := by
  simp [State.queue, State.setQueue, Map.get_set_ne _ _ _ h]
@[simp] theorem State.setCal_cal (s : State) (n : Nat) (x : CalS) : (s.setCal n x).cal n = x := by
  simp [State.cal, State.setCal]
theorem State.setCal_cal_ne (s : State) (n : Nat) (x : CalS) (j : Nat) (h : j ≠ n) :
    (s.setCal n x).cal j = s.cal j := by
  simp [State.cal, State.setCal, Map.get_set_ne _ _ _ h]
@[simp] theorem State.setOwner_ownerOf (s : State) (k : Nat) (x : Option Nat) : (s.setOwner k x).ownerOf k = x := by
  simp [State.ownerOf, State.setOwner]
theorem State.setOwner_ownerOf_ne (s : State) (k : Nat) (x : Option Nat) (j : Nat) (h : j ≠ k) :
    (s.setOwner k x).ownerOf j = s.ownerOf j := by
  simp [State.ownerOf, State.setOwner, Map.get_set_ne _ _ _ h]
@[simp] theorem State.setEng_eng (s : State) (e : Nat) (x : EngS) : (s.setEng e x).eng e = x := by
  simp [State.eng, State.setEng]
theorem State.setEng_eng_ne (s : State) (e : Nat) (x : EngS) (j : Nat) (h : j ≠ e) :
    (s.setEng e x).eng j = s.eng j := by
  simp [State.eng, State.setEng, Map.get_set_ne _ _ _ h]
@[simp] theorem State.setClusS_clusS (s : State) (k : Nat) (x : ClusS) : (s.setClusS k x).clusS k = x := by
  simp [State.clusS, State.setClusS]
theorem State.setClusS_clusS_ne (s : State) (k : Nat) (x : ClusS) (j : Nat) (h : j ≠ k) :
    (s.setClusS k x).clusS j = s.clusS j := by
  simp [State.clusS, State.setClusS, Map.get_set_ne _ _ _ h]
@[simp] theorem State.setPort_port (s : State) (p : Nat) (x : PortS) : (s.setPort p x).port p = x := by
  simp [State.port, State.setPort]
theorem State.setPort_port_ne (s : State) (p : Nat) (x : PortS) (j : Nat) (h : j ≠ p) :
    (s.setPort p x).port j = s.port j := by
  simp [State.port, State.setPort, Map.get_set_ne _ _ _ h]
@[simp] theorem State.setEpt_ept (s : State) (n : Nat) (x : EptS) : (s.setEpt n x).ept n = x := by
  simp [State.ept, State.setEpt]
theorem State.setEpt_ept_ne (s : State) (n : Nat) (x : EptS) (j : Nat) (h : j ≠ n) :
    (s.setEpt n x).ept j = s.ept j := by
  simp [State.ept, State.setEpt, Map.get_set_ne _ _ _ h]
@[simp] theorem State.setGov_govOf (s : State) (d : Nat) (x : GovS) : (s.setGov d x).govOf d = x := by
  simp [State.govOf, State.setGov]
theorem State.setGov_govOf_ne (s : State) (d : Nat) (x : GovS) (j : Nat) (h : j ≠ d) :
    (s.setGov d x).govOf j = s.govOf j := by
  simp [State.govOf, State.setGov, Map.get_set_ne _ _ _ h]
@[simp] theorem State.setAge_ageOf (s : State) (d : Nat) (x : AgeS) : (s.setAge d x).ageOf d = x := by
  simp [State.ageOf, State.setAge]
theorem State.setAge_ageOf_ne (s : State) (d : Nat) (x : AgeS) (j : Nat) (h : j ≠ d) :
    (s.setAge d x).ageOf j = s.ageOf j := by
  simp [State.ageOf, State.setAge, Map.get_set_ne _ _ _ h]
@[simp] theorem State.setClusClk_clusClk (s : State) (k : Nat) (x : ClusClk) : (s.setClusClk k x).clusClk k = x := by
  simp [State.clusClk, State.setClusClk]
theorem State.setClusClk_clusClk_ne (s : State) (k : Nat) (x : ClusClk) (j : Nat) (h : j ≠ k) :
    (s.setClusClk k x).clusClk j = s.clusClk j := by
  simp [State.clusClk, State.setClusClk, Map.get_set_ne _ _ _ h]
@[simp] theorem State.setCtr_ctr (s : State) (c i : Nat) (v : W32) : (s.setCtr c i v).ctr c i = v := by
  simp [State.ctr, State.setCtr]
@[simp] theorem State.setPage_page (s : State) (c p : Nat) (x : PageS) : (s.setPage c p x).page c p = x := by
  simp [State.page, State.setPage]
theorem State.setPage_page_ne (s : State) (c p : Nat) (x : PageS) (c' p' : Nat) (h : pageKey c' p' ≠ pageKey c p) :
    (s.setPage c p x).page c' p' = s.page c' p' := by
  simp [State.page, State.setPage, Map.get_set_ne _ _ _ h]

/-! ### Fields that an update leaves alone -/

variable (s : State)

section
variable (r : Reg) (i : Nat) (v : W64)
@[simp] theorem State.setReg_pending : (s.setReg r i v).pending = s.pending := rfl
@[simp] theorem State.setReg_tied : (s.setReg r i v).tied = s.tied := rfl
@[simp] theorem State.setReg_variant : (s.setReg r i v).variant = s.variant := rfl
@[simp] theorem State.setReg_freeCount : (s.setReg r i v).freeCount = s.freeCount := rfl
@[simp] theorem State.setReg_mem : (s.setReg r i v).mem = s.mem := rfl
@[simp] theorem State.setReg_poison : (s.setReg r i v).poison = s.poison := rfl
@[simp] theorem State.setReg_accPois : (s.setReg r i v).accPois = s.accPois := rfl
@[simp] theorem State.setReg_boot : (s.setReg r i v).boot = s.boot := rfl
@[simp] theorem State.setReg_clk : (s.setReg r i v).clk = s.clk := rfl
@[simp] theorem State.setReg_gov : (s.setReg r i v).gov = s.gov := rfl
@[simp] theorem State.setReg_therm : (s.setReg r i v).therm = s.therm := rfl
@[simp] theorem State.setReg_temps : (s.setReg r i v).temps = s.temps := rfl
@[simp] theorem State.setReg_thermtrip : (s.setReg r i v).thermtrip = s.thermtrip := rfl
@[simp] theorem State.setReg_brakeN : (s.setReg r i v).brakeN = s.brakeN := rfl
@[simp] theorem State.setReg_smbAddr : (s.setReg r i v).smbAddr = s.smbAddr := rfl
@[simp] theorem State.setReg_ages : (s.setReg r i v).ages = s.ages := rfl
@[simp] theorem State.setReg_sec : (s.setReg r i v).sec = s.sec := rfl
@[simp] theorem State.setReg_hist : (s.setReg r i v).hist = s.hist := rfl
@[simp] theorem State.setReg_evt : (s.setReg r i v).evt = s.evt := rfl
@[simp] theorem State.setReg_mgmt : (s.setReg r i v).mgmt = s.mgmt := rfl
@[simp] theorem State.setReg_out : (s.setReg r i v).out = s.out := rfl
@[simp] theorem State.setReg_retEng : (s.setReg r i v).retEng = s.retEng := rfl
@[simp] theorem State.setReg_badPairs : (s.setReg r i v).badPairs = s.badPairs := rfl
@[simp] theorem State.setReg_permPairs : (s.setReg r i v).permPairs = s.permPairs := rfl
@[simp] theorem State.setReg_retElt : (s.setReg r i v).retElt = s.retElt := rfl
@[simp] theorem State.setReg_retQnt : (s.setReg r i v).retQnt = s.retQnt := rfl
@[simp] theorem State.setReg_badLanes : (s.setReg r i v).badLanes = s.badLanes := rfl
@[simp] theorem State.setReg_selftestGen : (s.setReg r i v).selftestGen = s.selftestGen := rfl
@[simp] theorem State.setReg_queues : (s.setReg r i v).queues = s.queues := rfl
@[simp] theorem State.setReg_ctrs : (s.setReg r i v).ctrs = s.ctrs := rfl
@[simp] theorem State.setReg_ctrSnap : (s.setReg r i v).ctrSnap = s.ctrSnap := rfl
@[simp] theorem State.setReg_visits : (s.setReg r i v).visits = s.visits := rfl
@[simp] theorem State.setReg_flight : (s.setReg r i v).flight = s.flight := rfl
@[simp] theorem State.setReg_nextId : (s.setReg r i v).nextId = s.nextId := rfl
@[simp] theorem State.setReg_cals : (s.setReg r i v).cals = s.cals := rfl
@[simp] theorem State.setReg_txns : (s.setReg r i v).txns = s.txns := rfl
@[simp] theorem State.setReg_capTable : (s.setReg r i v).capTable = s.capTable := rfl
@[simp] theorem State.setReg_owner : (s.setReg r i v).owner = s.owner := rfl
@[simp] theorem State.setReg_ctxs : (s.setReg r i v).ctxs = s.ctxs := rfl
@[simp] theorem State.setReg_pages : (s.setReg r i v).pages = s.pages := rfl
@[simp] theorem State.setReg_nextFrame : (s.setReg r i v).nextFrame = s.nextFrame := rfl
@[simp] theorem State.setReg_nextFpage : (s.setReg r i v).nextFpage = s.nextFpage := rfl
@[simp] theorem State.setReg_images : (s.setReg r i v).images = s.images := rfl
@[simp] theorem State.setReg_ftl : (s.setReg r i v).ftl = s.ftl := rfl
@[simp] theorem State.setReg_engs : (s.setReg r i v).engs = s.engs := rfl
@[simp] theorem State.setReg_clus : (s.setReg r i v).clus = s.clus := rfl
@[simp] theorem State.setReg_scales : (s.setReg r i v).scales = s.scales := rfl
@[simp] theorem State.setReg_qnts : (s.setReg r i v).qnts = s.qnts := rfl
@[simp] theorem State.setReg_elts : (s.setReg r i v).elts = s.elts := rfl
@[simp] theorem State.setReg_ports : (s.setReg r i v).ports = s.ports := rfl
@[simp] theorem State.setReg_fab : (s.setReg r i v).fab = s.fab := rfl
@[simp] theorem State.setReg_colls : (s.setReg r i v).colls = s.colls := rfl
@[simp] theorem State.setReg_early : (s.setReg r i v).early = s.early := rfl
@[simp] theorem State.setReg_vigil : (s.setReg r i v).vigil = s.vigil := rfl
@[simp] theorem State.setReg_lanFull : (s.setReg r i v).lanFull = s.lanFull := rfl
end

section
variable (c : Nat) (x : CtxS)
@[simp] theorem State.setCtx_pending : (s.setCtx c x).pending = s.pending := rfl
@[simp] theorem State.setCtx_tied : (s.setCtx c x).tied = s.tied := rfl
@[simp] theorem State.setCtx_variant : (s.setCtx c x).variant = s.variant := rfl
@[simp] theorem State.setCtx_freeCount : (s.setCtx c x).freeCount = s.freeCount := rfl
@[simp] theorem State.setCtx_regs : (s.setCtx c x).regs = s.regs := rfl
@[simp] theorem State.setCtx_mem : (s.setCtx c x).mem = s.mem := rfl
@[simp] theorem State.setCtx_poison : (s.setCtx c x).poison = s.poison := rfl
@[simp] theorem State.setCtx_accPois : (s.setCtx c x).accPois = s.accPois := rfl
@[simp] theorem State.setCtx_boot : (s.setCtx c x).boot = s.boot := rfl
@[simp] theorem State.setCtx_clk : (s.setCtx c x).clk = s.clk := rfl
@[simp] theorem State.setCtx_gov : (s.setCtx c x).gov = s.gov := rfl
@[simp] theorem State.setCtx_therm : (s.setCtx c x).therm = s.therm := rfl
@[simp] theorem State.setCtx_temps : (s.setCtx c x).temps = s.temps := rfl
@[simp] theorem State.setCtx_thermtrip : (s.setCtx c x).thermtrip = s.thermtrip := rfl
@[simp] theorem State.setCtx_brakeN : (s.setCtx c x).brakeN = s.brakeN := rfl
@[simp] theorem State.setCtx_smbAddr : (s.setCtx c x).smbAddr = s.smbAddr := rfl
@[simp] theorem State.setCtx_ages : (s.setCtx c x).ages = s.ages := rfl
@[simp] theorem State.setCtx_sec : (s.setCtx c x).sec = s.sec := rfl
@[simp] theorem State.setCtx_hist : (s.setCtx c x).hist = s.hist := rfl
@[simp] theorem State.setCtx_evt : (s.setCtx c x).evt = s.evt := rfl
@[simp] theorem State.setCtx_mgmt : (s.setCtx c x).mgmt = s.mgmt := rfl
@[simp] theorem State.setCtx_out : (s.setCtx c x).out = s.out := rfl
@[simp] theorem State.setCtx_retEng : (s.setCtx c x).retEng = s.retEng := rfl
@[simp] theorem State.setCtx_badPairs : (s.setCtx c x).badPairs = s.badPairs := rfl
@[simp] theorem State.setCtx_permPairs : (s.setCtx c x).permPairs = s.permPairs := rfl
@[simp] theorem State.setCtx_retElt : (s.setCtx c x).retElt = s.retElt := rfl
@[simp] theorem State.setCtx_retQnt : (s.setCtx c x).retQnt = s.retQnt := rfl
@[simp] theorem State.setCtx_badLanes : (s.setCtx c x).badLanes = s.badLanes := rfl
@[simp] theorem State.setCtx_selftestGen : (s.setCtx c x).selftestGen = s.selftestGen := rfl
@[simp] theorem State.setCtx_queues : (s.setCtx c x).queues = s.queues := rfl
@[simp] theorem State.setCtx_ctrs : (s.setCtx c x).ctrs = s.ctrs := rfl
@[simp] theorem State.setCtx_ctrSnap : (s.setCtx c x).ctrSnap = s.ctrSnap := rfl
@[simp] theorem State.setCtx_visits : (s.setCtx c x).visits = s.visits := rfl
@[simp] theorem State.setCtx_flight : (s.setCtx c x).flight = s.flight := rfl
@[simp] theorem State.setCtx_nextId : (s.setCtx c x).nextId = s.nextId := rfl
@[simp] theorem State.setCtx_cals : (s.setCtx c x).cals = s.cals := rfl
@[simp] theorem State.setCtx_txns : (s.setCtx c x).txns = s.txns := rfl
@[simp] theorem State.setCtx_capTable : (s.setCtx c x).capTable = s.capTable := rfl
@[simp] theorem State.setCtx_owner : (s.setCtx c x).owner = s.owner := rfl
@[simp] theorem State.setCtx_pages : (s.setCtx c x).pages = s.pages := rfl
@[simp] theorem State.setCtx_nextFrame : (s.setCtx c x).nextFrame = s.nextFrame := rfl
@[simp] theorem State.setCtx_nextFpage : (s.setCtx c x).nextFpage = s.nextFpage := rfl
@[simp] theorem State.setCtx_images : (s.setCtx c x).images = s.images := rfl
@[simp] theorem State.setCtx_ftl : (s.setCtx c x).ftl = s.ftl := rfl
@[simp] theorem State.setCtx_engs : (s.setCtx c x).engs = s.engs := rfl
@[simp] theorem State.setCtx_clus : (s.setCtx c x).clus = s.clus := rfl
@[simp] theorem State.setCtx_scales : (s.setCtx c x).scales = s.scales := rfl
@[simp] theorem State.setCtx_qnts : (s.setCtx c x).qnts = s.qnts := rfl
@[simp] theorem State.setCtx_elts : (s.setCtx c x).elts = s.elts := rfl
@[simp] theorem State.setCtx_ports : (s.setCtx c x).ports = s.ports := rfl
@[simp] theorem State.setCtx_fab : (s.setCtx c x).fab = s.fab := rfl
@[simp] theorem State.setCtx_colls : (s.setCtx c x).colls = s.colls := rfl
@[simp] theorem State.setCtx_early : (s.setCtx c x).early = s.early := rfl
@[simp] theorem State.setCtx_vigil : (s.setCtx c x).vigil = s.vigil := rfl
@[simp] theorem State.setCtx_lanFull : (s.setCtx c x).lanFull = s.lanFull := rfl
end

section
variable (q : Nat) (x : QueueS)
@[simp] theorem State.setQueue_pending : (s.setQueue q x).pending = s.pending := rfl
@[simp] theorem State.setQueue_tied : (s.setQueue q x).tied = s.tied := rfl
@[simp] theorem State.setQueue_variant : (s.setQueue q x).variant = s.variant := rfl
@[simp] theorem State.setQueue_freeCount : (s.setQueue q x).freeCount = s.freeCount := rfl
@[simp] theorem State.setQueue_regs : (s.setQueue q x).regs = s.regs := rfl
@[simp] theorem State.setQueue_mem : (s.setQueue q x).mem = s.mem := rfl
@[simp] theorem State.setQueue_poison : (s.setQueue q x).poison = s.poison := rfl
@[simp] theorem State.setQueue_accPois : (s.setQueue q x).accPois = s.accPois := rfl
@[simp] theorem State.setQueue_boot : (s.setQueue q x).boot = s.boot := rfl
@[simp] theorem State.setQueue_clk : (s.setQueue q x).clk = s.clk := rfl
@[simp] theorem State.setQueue_gov : (s.setQueue q x).gov = s.gov := rfl
@[simp] theorem State.setQueue_therm : (s.setQueue q x).therm = s.therm := rfl
@[simp] theorem State.setQueue_temps : (s.setQueue q x).temps = s.temps := rfl
@[simp] theorem State.setQueue_thermtrip : (s.setQueue q x).thermtrip = s.thermtrip := rfl
@[simp] theorem State.setQueue_brakeN : (s.setQueue q x).brakeN = s.brakeN := rfl
@[simp] theorem State.setQueue_smbAddr : (s.setQueue q x).smbAddr = s.smbAddr := rfl
@[simp] theorem State.setQueue_ages : (s.setQueue q x).ages = s.ages := rfl
@[simp] theorem State.setQueue_sec : (s.setQueue q x).sec = s.sec := rfl
@[simp] theorem State.setQueue_hist : (s.setQueue q x).hist = s.hist := rfl
@[simp] theorem State.setQueue_evt : (s.setQueue q x).evt = s.evt := rfl
@[simp] theorem State.setQueue_mgmt : (s.setQueue q x).mgmt = s.mgmt := rfl
@[simp] theorem State.setQueue_out : (s.setQueue q x).out = s.out := rfl
@[simp] theorem State.setQueue_retEng : (s.setQueue q x).retEng = s.retEng := rfl
@[simp] theorem State.setQueue_badPairs : (s.setQueue q x).badPairs = s.badPairs := rfl
@[simp] theorem State.setQueue_permPairs : (s.setQueue q x).permPairs = s.permPairs := rfl
@[simp] theorem State.setQueue_retElt : (s.setQueue q x).retElt = s.retElt := rfl
@[simp] theorem State.setQueue_retQnt : (s.setQueue q x).retQnt = s.retQnt := rfl
@[simp] theorem State.setQueue_badLanes : (s.setQueue q x).badLanes = s.badLanes := rfl
@[simp] theorem State.setQueue_selftestGen : (s.setQueue q x).selftestGen = s.selftestGen := rfl
@[simp] theorem State.setQueue_ctrs : (s.setQueue q x).ctrs = s.ctrs := rfl
@[simp] theorem State.setQueue_ctrSnap : (s.setQueue q x).ctrSnap = s.ctrSnap := rfl
@[simp] theorem State.setQueue_visits : (s.setQueue q x).visits = s.visits := rfl
@[simp] theorem State.setQueue_flight : (s.setQueue q x).flight = s.flight := rfl
@[simp] theorem State.setQueue_nextId : (s.setQueue q x).nextId = s.nextId := rfl
@[simp] theorem State.setQueue_cals : (s.setQueue q x).cals = s.cals := rfl
@[simp] theorem State.setQueue_txns : (s.setQueue q x).txns = s.txns := rfl
@[simp] theorem State.setQueue_capTable : (s.setQueue q x).capTable = s.capTable := rfl
@[simp] theorem State.setQueue_owner : (s.setQueue q x).owner = s.owner := rfl
@[simp] theorem State.setQueue_ctxs : (s.setQueue q x).ctxs = s.ctxs := rfl
@[simp] theorem State.setQueue_pages : (s.setQueue q x).pages = s.pages := rfl
@[simp] theorem State.setQueue_nextFrame : (s.setQueue q x).nextFrame = s.nextFrame := rfl
@[simp] theorem State.setQueue_nextFpage : (s.setQueue q x).nextFpage = s.nextFpage := rfl
@[simp] theorem State.setQueue_images : (s.setQueue q x).images = s.images := rfl
@[simp] theorem State.setQueue_ftl : (s.setQueue q x).ftl = s.ftl := rfl
@[simp] theorem State.setQueue_engs : (s.setQueue q x).engs = s.engs := rfl
@[simp] theorem State.setQueue_clus : (s.setQueue q x).clus = s.clus := rfl
@[simp] theorem State.setQueue_scales : (s.setQueue q x).scales = s.scales := rfl
@[simp] theorem State.setQueue_qnts : (s.setQueue q x).qnts = s.qnts := rfl
@[simp] theorem State.setQueue_elts : (s.setQueue q x).elts = s.elts := rfl
@[simp] theorem State.setQueue_ports : (s.setQueue q x).ports = s.ports := rfl
@[simp] theorem State.setQueue_fab : (s.setQueue q x).fab = s.fab := rfl
@[simp] theorem State.setQueue_colls : (s.setQueue q x).colls = s.colls := rfl
@[simp] theorem State.setQueue_early : (s.setQueue q x).early = s.early := rfl
@[simp] theorem State.setQueue_vigil : (s.setQueue q x).vigil = s.vigil := rfl
@[simp] theorem State.setQueue_lanFull : (s.setQueue q x).lanFull = s.lanFull := rfl
end

section
variable (c i : Nat) (v : W32)
@[simp] theorem State.setCtr_pending : (s.setCtr c i v).pending = s.pending := rfl
@[simp] theorem State.setCtr_tied : (s.setCtr c i v).tied = s.tied := rfl
@[simp] theorem State.setCtr_variant : (s.setCtr c i v).variant = s.variant := rfl
@[simp] theorem State.setCtr_freeCount : (s.setCtr c i v).freeCount = s.freeCount := rfl
@[simp] theorem State.setCtr_regs : (s.setCtr c i v).regs = s.regs := rfl
@[simp] theorem State.setCtr_mem : (s.setCtr c i v).mem = s.mem := rfl
@[simp] theorem State.setCtr_poison : (s.setCtr c i v).poison = s.poison := rfl
@[simp] theorem State.setCtr_accPois : (s.setCtr c i v).accPois = s.accPois := rfl
@[simp] theorem State.setCtr_boot : (s.setCtr c i v).boot = s.boot := rfl
@[simp] theorem State.setCtr_clk : (s.setCtr c i v).clk = s.clk := rfl
@[simp] theorem State.setCtr_gov : (s.setCtr c i v).gov = s.gov := rfl
@[simp] theorem State.setCtr_therm : (s.setCtr c i v).therm = s.therm := rfl
@[simp] theorem State.setCtr_temps : (s.setCtr c i v).temps = s.temps := rfl
@[simp] theorem State.setCtr_thermtrip : (s.setCtr c i v).thermtrip = s.thermtrip := rfl
@[simp] theorem State.setCtr_brakeN : (s.setCtr c i v).brakeN = s.brakeN := rfl
@[simp] theorem State.setCtr_smbAddr : (s.setCtr c i v).smbAddr = s.smbAddr := rfl
@[simp] theorem State.setCtr_ages : (s.setCtr c i v).ages = s.ages := rfl
@[simp] theorem State.setCtr_sec : (s.setCtr c i v).sec = s.sec := rfl
@[simp] theorem State.setCtr_hist : (s.setCtr c i v).hist = s.hist := rfl
@[simp] theorem State.setCtr_evt : (s.setCtr c i v).evt = s.evt := rfl
@[simp] theorem State.setCtr_mgmt : (s.setCtr c i v).mgmt = s.mgmt := rfl
@[simp] theorem State.setCtr_out : (s.setCtr c i v).out = s.out := rfl
@[simp] theorem State.setCtr_retEng : (s.setCtr c i v).retEng = s.retEng := rfl
@[simp] theorem State.setCtr_badPairs : (s.setCtr c i v).badPairs = s.badPairs := rfl
@[simp] theorem State.setCtr_permPairs : (s.setCtr c i v).permPairs = s.permPairs := rfl
@[simp] theorem State.setCtr_retElt : (s.setCtr c i v).retElt = s.retElt := rfl
@[simp] theorem State.setCtr_retQnt : (s.setCtr c i v).retQnt = s.retQnt := rfl
@[simp] theorem State.setCtr_badLanes : (s.setCtr c i v).badLanes = s.badLanes := rfl
@[simp] theorem State.setCtr_selftestGen : (s.setCtr c i v).selftestGen = s.selftestGen := rfl
@[simp] theorem State.setCtr_queues : (s.setCtr c i v).queues = s.queues := rfl
@[simp] theorem State.setCtr_ctrSnap : (s.setCtr c i v).ctrSnap = s.ctrSnap := rfl
@[simp] theorem State.setCtr_visits : (s.setCtr c i v).visits = s.visits := rfl
@[simp] theorem State.setCtr_flight : (s.setCtr c i v).flight = s.flight := rfl
@[simp] theorem State.setCtr_nextId : (s.setCtr c i v).nextId = s.nextId := rfl
@[simp] theorem State.setCtr_cals : (s.setCtr c i v).cals = s.cals := rfl
@[simp] theorem State.setCtr_txns : (s.setCtr c i v).txns = s.txns := rfl
@[simp] theorem State.setCtr_capTable : (s.setCtr c i v).capTable = s.capTable := rfl
@[simp] theorem State.setCtr_owner : (s.setCtr c i v).owner = s.owner := rfl
@[simp] theorem State.setCtr_ctxs : (s.setCtr c i v).ctxs = s.ctxs := rfl
@[simp] theorem State.setCtr_pages : (s.setCtr c i v).pages = s.pages := rfl
@[simp] theorem State.setCtr_nextFrame : (s.setCtr c i v).nextFrame = s.nextFrame := rfl
@[simp] theorem State.setCtr_nextFpage : (s.setCtr c i v).nextFpage = s.nextFpage := rfl
@[simp] theorem State.setCtr_images : (s.setCtr c i v).images = s.images := rfl
@[simp] theorem State.setCtr_ftl : (s.setCtr c i v).ftl = s.ftl := rfl
@[simp] theorem State.setCtr_engs : (s.setCtr c i v).engs = s.engs := rfl
@[simp] theorem State.setCtr_clus : (s.setCtr c i v).clus = s.clus := rfl
@[simp] theorem State.setCtr_scales : (s.setCtr c i v).scales = s.scales := rfl
@[simp] theorem State.setCtr_qnts : (s.setCtr c i v).qnts = s.qnts := rfl
@[simp] theorem State.setCtr_elts : (s.setCtr c i v).elts = s.elts := rfl
@[simp] theorem State.setCtr_ports : (s.setCtr c i v).ports = s.ports := rfl
@[simp] theorem State.setCtr_fab : (s.setCtr c i v).fab = s.fab := rfl
@[simp] theorem State.setCtr_colls : (s.setCtr c i v).colls = s.colls := rfl
@[simp] theorem State.setCtr_early : (s.setCtr c i v).early = s.early := rfl
@[simp] theorem State.setCtr_vigil : (s.setCtr c i v).vigil = s.vigil := rfl
@[simp] theorem State.setCtr_lanFull : (s.setCtr c i v).lanFull = s.lanFull := rfl
end

section
variable (n : Nat) (x : CalS)
@[simp] theorem State.setCal_pending : (s.setCal n x).pending = s.pending := rfl
@[simp] theorem State.setCal_tied : (s.setCal n x).tied = s.tied := rfl
@[simp] theorem State.setCal_variant : (s.setCal n x).variant = s.variant := rfl
@[simp] theorem State.setCal_freeCount : (s.setCal n x).freeCount = s.freeCount := rfl
@[simp] theorem State.setCal_regs : (s.setCal n x).regs = s.regs := rfl
@[simp] theorem State.setCal_mem : (s.setCal n x).mem = s.mem := rfl
@[simp] theorem State.setCal_poison : (s.setCal n x).poison = s.poison := rfl
@[simp] theorem State.setCal_accPois : (s.setCal n x).accPois = s.accPois := rfl
@[simp] theorem State.setCal_boot : (s.setCal n x).boot = s.boot := rfl
@[simp] theorem State.setCal_clk : (s.setCal n x).clk = s.clk := rfl
@[simp] theorem State.setCal_gov : (s.setCal n x).gov = s.gov := rfl
@[simp] theorem State.setCal_therm : (s.setCal n x).therm = s.therm := rfl
@[simp] theorem State.setCal_temps : (s.setCal n x).temps = s.temps := rfl
@[simp] theorem State.setCal_thermtrip : (s.setCal n x).thermtrip = s.thermtrip := rfl
@[simp] theorem State.setCal_brakeN : (s.setCal n x).brakeN = s.brakeN := rfl
@[simp] theorem State.setCal_smbAddr : (s.setCal n x).smbAddr = s.smbAddr := rfl
@[simp] theorem State.setCal_ages : (s.setCal n x).ages = s.ages := rfl
@[simp] theorem State.setCal_sec : (s.setCal n x).sec = s.sec := rfl
@[simp] theorem State.setCal_hist : (s.setCal n x).hist = s.hist := rfl
@[simp] theorem State.setCal_evt : (s.setCal n x).evt = s.evt := rfl
@[simp] theorem State.setCal_mgmt : (s.setCal n x).mgmt = s.mgmt := rfl
@[simp] theorem State.setCal_out : (s.setCal n x).out = s.out := rfl
@[simp] theorem State.setCal_retEng : (s.setCal n x).retEng = s.retEng := rfl
@[simp] theorem State.setCal_badPairs : (s.setCal n x).badPairs = s.badPairs := rfl
@[simp] theorem State.setCal_permPairs : (s.setCal n x).permPairs = s.permPairs := rfl
@[simp] theorem State.setCal_retElt : (s.setCal n x).retElt = s.retElt := rfl
@[simp] theorem State.setCal_retQnt : (s.setCal n x).retQnt = s.retQnt := rfl
@[simp] theorem State.setCal_badLanes : (s.setCal n x).badLanes = s.badLanes := rfl
@[simp] theorem State.setCal_selftestGen : (s.setCal n x).selftestGen = s.selftestGen := rfl
@[simp] theorem State.setCal_queues : (s.setCal n x).queues = s.queues := rfl
@[simp] theorem State.setCal_ctrs : (s.setCal n x).ctrs = s.ctrs := rfl
@[simp] theorem State.setCal_ctrSnap : (s.setCal n x).ctrSnap = s.ctrSnap := rfl
@[simp] theorem State.setCal_visits : (s.setCal n x).visits = s.visits := rfl
@[simp] theorem State.setCal_flight : (s.setCal n x).flight = s.flight := rfl
@[simp] theorem State.setCal_nextId : (s.setCal n x).nextId = s.nextId := rfl
@[simp] theorem State.setCal_txns : (s.setCal n x).txns = s.txns := rfl
@[simp] theorem State.setCal_capTable : (s.setCal n x).capTable = s.capTable := rfl
@[simp] theorem State.setCal_owner : (s.setCal n x).owner = s.owner := rfl
@[simp] theorem State.setCal_ctxs : (s.setCal n x).ctxs = s.ctxs := rfl
@[simp] theorem State.setCal_pages : (s.setCal n x).pages = s.pages := rfl
@[simp] theorem State.setCal_nextFrame : (s.setCal n x).nextFrame = s.nextFrame := rfl
@[simp] theorem State.setCal_nextFpage : (s.setCal n x).nextFpage = s.nextFpage := rfl
@[simp] theorem State.setCal_images : (s.setCal n x).images = s.images := rfl
@[simp] theorem State.setCal_ftl : (s.setCal n x).ftl = s.ftl := rfl
@[simp] theorem State.setCal_engs : (s.setCal n x).engs = s.engs := rfl
@[simp] theorem State.setCal_clus : (s.setCal n x).clus = s.clus := rfl
@[simp] theorem State.setCal_scales : (s.setCal n x).scales = s.scales := rfl
@[simp] theorem State.setCal_qnts : (s.setCal n x).qnts = s.qnts := rfl
@[simp] theorem State.setCal_elts : (s.setCal n x).elts = s.elts := rfl
@[simp] theorem State.setCal_ports : (s.setCal n x).ports = s.ports := rfl
@[simp] theorem State.setCal_fab : (s.setCal n x).fab = s.fab := rfl
@[simp] theorem State.setCal_colls : (s.setCal n x).colls = s.colls := rfl
@[simp] theorem State.setCal_early : (s.setCal n x).early = s.early := rfl
@[simp] theorem State.setCal_vigil : (s.setCal n x).vigil = s.vigil := rfl
@[simp] theorem State.setCal_lanFull : (s.setCal n x).lanFull = s.lanFull := rfl
end

section
variable (k : Nat) (o : Option Nat)
@[simp] theorem State.setOwner_pending : (s.setOwner k o).pending = s.pending := rfl
@[simp] theorem State.setOwner_tied : (s.setOwner k o).tied = s.tied := rfl
@[simp] theorem State.setOwner_variant : (s.setOwner k o).variant = s.variant := rfl
@[simp] theorem State.setOwner_freeCount : (s.setOwner k o).freeCount = s.freeCount := rfl
@[simp] theorem State.setOwner_regs : (s.setOwner k o).regs = s.regs := rfl
@[simp] theorem State.setOwner_mem : (s.setOwner k o).mem = s.mem := rfl
@[simp] theorem State.setOwner_poison : (s.setOwner k o).poison = s.poison := rfl
@[simp] theorem State.setOwner_accPois : (s.setOwner k o).accPois = s.accPois := rfl
@[simp] theorem State.setOwner_boot : (s.setOwner k o).boot = s.boot := rfl
@[simp] theorem State.setOwner_clk : (s.setOwner k o).clk = s.clk := rfl
@[simp] theorem State.setOwner_gov : (s.setOwner k o).gov = s.gov := rfl
@[simp] theorem State.setOwner_therm : (s.setOwner k o).therm = s.therm := rfl
@[simp] theorem State.setOwner_temps : (s.setOwner k o).temps = s.temps := rfl
@[simp] theorem State.setOwner_thermtrip : (s.setOwner k o).thermtrip = s.thermtrip := rfl
@[simp] theorem State.setOwner_brakeN : (s.setOwner k o).brakeN = s.brakeN := rfl
@[simp] theorem State.setOwner_smbAddr : (s.setOwner k o).smbAddr = s.smbAddr := rfl
@[simp] theorem State.setOwner_ages : (s.setOwner k o).ages = s.ages := rfl
@[simp] theorem State.setOwner_sec : (s.setOwner k o).sec = s.sec := rfl
@[simp] theorem State.setOwner_hist : (s.setOwner k o).hist = s.hist := rfl
@[simp] theorem State.setOwner_evt : (s.setOwner k o).evt = s.evt := rfl
@[simp] theorem State.setOwner_mgmt : (s.setOwner k o).mgmt = s.mgmt := rfl
@[simp] theorem State.setOwner_out : (s.setOwner k o).out = s.out := rfl
@[simp] theorem State.setOwner_retEng : (s.setOwner k o).retEng = s.retEng := rfl
@[simp] theorem State.setOwner_badPairs : (s.setOwner k o).badPairs = s.badPairs := rfl
@[simp] theorem State.setOwner_permPairs : (s.setOwner k o).permPairs = s.permPairs := rfl
@[simp] theorem State.setOwner_retElt : (s.setOwner k o).retElt = s.retElt := rfl
@[simp] theorem State.setOwner_retQnt : (s.setOwner k o).retQnt = s.retQnt := rfl
@[simp] theorem State.setOwner_badLanes : (s.setOwner k o).badLanes = s.badLanes := rfl
@[simp] theorem State.setOwner_selftestGen : (s.setOwner k o).selftestGen = s.selftestGen := rfl
@[simp] theorem State.setOwner_queues : (s.setOwner k o).queues = s.queues := rfl
@[simp] theorem State.setOwner_ctrs : (s.setOwner k o).ctrs = s.ctrs := rfl
@[simp] theorem State.setOwner_ctrSnap : (s.setOwner k o).ctrSnap = s.ctrSnap := rfl
@[simp] theorem State.setOwner_visits : (s.setOwner k o).visits = s.visits := rfl
@[simp] theorem State.setOwner_flight : (s.setOwner k o).flight = s.flight := rfl
@[simp] theorem State.setOwner_nextId : (s.setOwner k o).nextId = s.nextId := rfl
@[simp] theorem State.setOwner_cals : (s.setOwner k o).cals = s.cals := rfl
@[simp] theorem State.setOwner_txns : (s.setOwner k o).txns = s.txns := rfl
@[simp] theorem State.setOwner_capTable : (s.setOwner k o).capTable = s.capTable := rfl
@[simp] theorem State.setOwner_ctxs : (s.setOwner k o).ctxs = s.ctxs := rfl
@[simp] theorem State.setOwner_pages : (s.setOwner k o).pages = s.pages := rfl
@[simp] theorem State.setOwner_nextFrame : (s.setOwner k o).nextFrame = s.nextFrame := rfl
@[simp] theorem State.setOwner_nextFpage : (s.setOwner k o).nextFpage = s.nextFpage := rfl
@[simp] theorem State.setOwner_images : (s.setOwner k o).images = s.images := rfl
@[simp] theorem State.setOwner_ftl : (s.setOwner k o).ftl = s.ftl := rfl
@[simp] theorem State.setOwner_engs : (s.setOwner k o).engs = s.engs := rfl
@[simp] theorem State.setOwner_clus : (s.setOwner k o).clus = s.clus := rfl
@[simp] theorem State.setOwner_scales : (s.setOwner k o).scales = s.scales := rfl
@[simp] theorem State.setOwner_qnts : (s.setOwner k o).qnts = s.qnts := rfl
@[simp] theorem State.setOwner_elts : (s.setOwner k o).elts = s.elts := rfl
@[simp] theorem State.setOwner_ports : (s.setOwner k o).ports = s.ports := rfl
@[simp] theorem State.setOwner_fab : (s.setOwner k o).fab = s.fab := rfl
@[simp] theorem State.setOwner_colls : (s.setOwner k o).colls = s.colls := rfl
@[simp] theorem State.setOwner_early : (s.setOwner k o).early = s.early := rfl
@[simp] theorem State.setOwner_vigil : (s.setOwner k o).vigil = s.vigil := rfl
@[simp] theorem State.setOwner_lanFull : (s.setOwner k o).lanFull = s.lanFull := rfl
end

section
variable (c p : Nat) (x : PageS)
@[simp] theorem State.setPage_pending : (s.setPage c p x).pending = s.pending := rfl
@[simp] theorem State.setPage_tied : (s.setPage c p x).tied = s.tied := rfl
@[simp] theorem State.setPage_variant : (s.setPage c p x).variant = s.variant := rfl
@[simp] theorem State.setPage_freeCount : (s.setPage c p x).freeCount = s.freeCount := rfl
@[simp] theorem State.setPage_regs : (s.setPage c p x).regs = s.regs := rfl
@[simp] theorem State.setPage_mem : (s.setPage c p x).mem = s.mem := rfl
@[simp] theorem State.setPage_poison : (s.setPage c p x).poison = s.poison := rfl
@[simp] theorem State.setPage_accPois : (s.setPage c p x).accPois = s.accPois := rfl
@[simp] theorem State.setPage_boot : (s.setPage c p x).boot = s.boot := rfl
@[simp] theorem State.setPage_clk : (s.setPage c p x).clk = s.clk := rfl
@[simp] theorem State.setPage_gov : (s.setPage c p x).gov = s.gov := rfl
@[simp] theorem State.setPage_therm : (s.setPage c p x).therm = s.therm := rfl
@[simp] theorem State.setPage_temps : (s.setPage c p x).temps = s.temps := rfl
@[simp] theorem State.setPage_thermtrip : (s.setPage c p x).thermtrip = s.thermtrip := rfl
@[simp] theorem State.setPage_brakeN : (s.setPage c p x).brakeN = s.brakeN := rfl
@[simp] theorem State.setPage_smbAddr : (s.setPage c p x).smbAddr = s.smbAddr := rfl
@[simp] theorem State.setPage_ages : (s.setPage c p x).ages = s.ages := rfl
@[simp] theorem State.setPage_sec : (s.setPage c p x).sec = s.sec := rfl
@[simp] theorem State.setPage_hist : (s.setPage c p x).hist = s.hist := rfl
@[simp] theorem State.setPage_evt : (s.setPage c p x).evt = s.evt := rfl
@[simp] theorem State.setPage_mgmt : (s.setPage c p x).mgmt = s.mgmt := rfl
@[simp] theorem State.setPage_out : (s.setPage c p x).out = s.out := rfl
@[simp] theorem State.setPage_retEng : (s.setPage c p x).retEng = s.retEng := rfl
@[simp] theorem State.setPage_badPairs : (s.setPage c p x).badPairs = s.badPairs := rfl
@[simp] theorem State.setPage_permPairs : (s.setPage c p x).permPairs = s.permPairs := rfl
@[simp] theorem State.setPage_retElt : (s.setPage c p x).retElt = s.retElt := rfl
@[simp] theorem State.setPage_retQnt : (s.setPage c p x).retQnt = s.retQnt := rfl
@[simp] theorem State.setPage_badLanes : (s.setPage c p x).badLanes = s.badLanes := rfl
@[simp] theorem State.setPage_selftestGen : (s.setPage c p x).selftestGen = s.selftestGen := rfl
@[simp] theorem State.setPage_queues : (s.setPage c p x).queues = s.queues := rfl
@[simp] theorem State.setPage_ctrs : (s.setPage c p x).ctrs = s.ctrs := rfl
@[simp] theorem State.setPage_ctrSnap : (s.setPage c p x).ctrSnap = s.ctrSnap := rfl
@[simp] theorem State.setPage_visits : (s.setPage c p x).visits = s.visits := rfl
@[simp] theorem State.setPage_flight : (s.setPage c p x).flight = s.flight := rfl
@[simp] theorem State.setPage_nextId : (s.setPage c p x).nextId = s.nextId := rfl
@[simp] theorem State.setPage_cals : (s.setPage c p x).cals = s.cals := rfl
@[simp] theorem State.setPage_txns : (s.setPage c p x).txns = s.txns := rfl
@[simp] theorem State.setPage_capTable : (s.setPage c p x).capTable = s.capTable := rfl
@[simp] theorem State.setPage_owner : (s.setPage c p x).owner = s.owner := rfl
@[simp] theorem State.setPage_ctxs : (s.setPage c p x).ctxs = s.ctxs := rfl
@[simp] theorem State.setPage_nextFrame : (s.setPage c p x).nextFrame = s.nextFrame := rfl
@[simp] theorem State.setPage_nextFpage : (s.setPage c p x).nextFpage = s.nextFpage := rfl
@[simp] theorem State.setPage_images : (s.setPage c p x).images = s.images := rfl
@[simp] theorem State.setPage_ftl : (s.setPage c p x).ftl = s.ftl := rfl
@[simp] theorem State.setPage_engs : (s.setPage c p x).engs = s.engs := rfl
@[simp] theorem State.setPage_clus : (s.setPage c p x).clus = s.clus := rfl
@[simp] theorem State.setPage_scales : (s.setPage c p x).scales = s.scales := rfl
@[simp] theorem State.setPage_qnts : (s.setPage c p x).qnts = s.qnts := rfl
@[simp] theorem State.setPage_elts : (s.setPage c p x).elts = s.elts := rfl
@[simp] theorem State.setPage_ports : (s.setPage c p x).ports = s.ports := rfl
@[simp] theorem State.setPage_fab : (s.setPage c p x).fab = s.fab := rfl
@[simp] theorem State.setPage_colls : (s.setPage c p x).colls = s.colls := rfl
@[simp] theorem State.setPage_early : (s.setPage c p x).early = s.early := rfl
@[simp] theorem State.setPage_vigil : (s.setPage c p x).vigil = s.vigil := rfl
@[simp] theorem State.setPage_lanFull : (s.setPage c p x).lanFull = s.lanFull := rfl
end

section
variable (e : Nat) (x : EngS)
@[simp] theorem State.setEng_pending : (s.setEng e x).pending = s.pending := rfl
@[simp] theorem State.setEng_tied : (s.setEng e x).tied = s.tied := rfl
@[simp] theorem State.setEng_variant : (s.setEng e x).variant = s.variant := rfl
@[simp] theorem State.setEng_freeCount : (s.setEng e x).freeCount = s.freeCount := rfl
@[simp] theorem State.setEng_regs : (s.setEng e x).regs = s.regs := rfl
@[simp] theorem State.setEng_mem : (s.setEng e x).mem = s.mem := rfl
@[simp] theorem State.setEng_poison : (s.setEng e x).poison = s.poison := rfl
@[simp] theorem State.setEng_accPois : (s.setEng e x).accPois = s.accPois := rfl
@[simp] theorem State.setEng_boot : (s.setEng e x).boot = s.boot := rfl
@[simp] theorem State.setEng_clk : (s.setEng e x).clk = s.clk := rfl
@[simp] theorem State.setEng_gov : (s.setEng e x).gov = s.gov := rfl
@[simp] theorem State.setEng_therm : (s.setEng e x).therm = s.therm := rfl
@[simp] theorem State.setEng_temps : (s.setEng e x).temps = s.temps := rfl
@[simp] theorem State.setEng_thermtrip : (s.setEng e x).thermtrip = s.thermtrip := rfl
@[simp] theorem State.setEng_brakeN : (s.setEng e x).brakeN = s.brakeN := rfl
@[simp] theorem State.setEng_smbAddr : (s.setEng e x).smbAddr = s.smbAddr := rfl
@[simp] theorem State.setEng_ages : (s.setEng e x).ages = s.ages := rfl
@[simp] theorem State.setEng_sec : (s.setEng e x).sec = s.sec := rfl
@[simp] theorem State.setEng_hist : (s.setEng e x).hist = s.hist := rfl
@[simp] theorem State.setEng_evt : (s.setEng e x).evt = s.evt := rfl
@[simp] theorem State.setEng_mgmt : (s.setEng e x).mgmt = s.mgmt := rfl
@[simp] theorem State.setEng_out : (s.setEng e x).out = s.out := rfl
@[simp] theorem State.setEng_retEng : (s.setEng e x).retEng = s.retEng := rfl
@[simp] theorem State.setEng_badPairs : (s.setEng e x).badPairs = s.badPairs := rfl
@[simp] theorem State.setEng_permPairs : (s.setEng e x).permPairs = s.permPairs := rfl
@[simp] theorem State.setEng_retElt : (s.setEng e x).retElt = s.retElt := rfl
@[simp] theorem State.setEng_retQnt : (s.setEng e x).retQnt = s.retQnt := rfl
@[simp] theorem State.setEng_badLanes : (s.setEng e x).badLanes = s.badLanes := rfl
@[simp] theorem State.setEng_selftestGen : (s.setEng e x).selftestGen = s.selftestGen := rfl
@[simp] theorem State.setEng_queues : (s.setEng e x).queues = s.queues := rfl
@[simp] theorem State.setEng_ctrs : (s.setEng e x).ctrs = s.ctrs := rfl
@[simp] theorem State.setEng_ctrSnap : (s.setEng e x).ctrSnap = s.ctrSnap := rfl
@[simp] theorem State.setEng_visits : (s.setEng e x).visits = s.visits := rfl
@[simp] theorem State.setEng_flight : (s.setEng e x).flight = s.flight := rfl
@[simp] theorem State.setEng_nextId : (s.setEng e x).nextId = s.nextId := rfl
@[simp] theorem State.setEng_cals : (s.setEng e x).cals = s.cals := rfl
@[simp] theorem State.setEng_txns : (s.setEng e x).txns = s.txns := rfl
@[simp] theorem State.setEng_capTable : (s.setEng e x).capTable = s.capTable := rfl
@[simp] theorem State.setEng_owner : (s.setEng e x).owner = s.owner := rfl
@[simp] theorem State.setEng_ctxs : (s.setEng e x).ctxs = s.ctxs := rfl
@[simp] theorem State.setEng_pages : (s.setEng e x).pages = s.pages := rfl
@[simp] theorem State.setEng_nextFrame : (s.setEng e x).nextFrame = s.nextFrame := rfl
@[simp] theorem State.setEng_nextFpage : (s.setEng e x).nextFpage = s.nextFpage := rfl
@[simp] theorem State.setEng_images : (s.setEng e x).images = s.images := rfl
@[simp] theorem State.setEng_ftl : (s.setEng e x).ftl = s.ftl := rfl
@[simp] theorem State.setEng_clus : (s.setEng e x).clus = s.clus := rfl
@[simp] theorem State.setEng_scales : (s.setEng e x).scales = s.scales := rfl
@[simp] theorem State.setEng_qnts : (s.setEng e x).qnts = s.qnts := rfl
@[simp] theorem State.setEng_elts : (s.setEng e x).elts = s.elts := rfl
@[simp] theorem State.setEng_ports : (s.setEng e x).ports = s.ports := rfl
@[simp] theorem State.setEng_fab : (s.setEng e x).fab = s.fab := rfl
@[simp] theorem State.setEng_colls : (s.setEng e x).colls = s.colls := rfl
@[simp] theorem State.setEng_early : (s.setEng e x).early = s.early := rfl
@[simp] theorem State.setEng_vigil : (s.setEng e x).vigil = s.vigil := rfl
@[simp] theorem State.setEng_lanFull : (s.setEng e x).lanFull = s.lanFull := rfl
end

section
variable (k : Nat) (x : ClusS)
@[simp] theorem State.setClusS_pending : (s.setClusS k x).pending = s.pending := rfl
@[simp] theorem State.setClusS_tied : (s.setClusS k x).tied = s.tied := rfl
@[simp] theorem State.setClusS_variant : (s.setClusS k x).variant = s.variant := rfl
@[simp] theorem State.setClusS_freeCount : (s.setClusS k x).freeCount = s.freeCount := rfl
@[simp] theorem State.setClusS_regs : (s.setClusS k x).regs = s.regs := rfl
@[simp] theorem State.setClusS_mem : (s.setClusS k x).mem = s.mem := rfl
@[simp] theorem State.setClusS_poison : (s.setClusS k x).poison = s.poison := rfl
@[simp] theorem State.setClusS_accPois : (s.setClusS k x).accPois = s.accPois := rfl
@[simp] theorem State.setClusS_boot : (s.setClusS k x).boot = s.boot := rfl
@[simp] theorem State.setClusS_clk : (s.setClusS k x).clk = s.clk := rfl
@[simp] theorem State.setClusS_gov : (s.setClusS k x).gov = s.gov := rfl
@[simp] theorem State.setClusS_therm : (s.setClusS k x).therm = s.therm := rfl
@[simp] theorem State.setClusS_temps : (s.setClusS k x).temps = s.temps := rfl
@[simp] theorem State.setClusS_thermtrip : (s.setClusS k x).thermtrip = s.thermtrip := rfl
@[simp] theorem State.setClusS_brakeN : (s.setClusS k x).brakeN = s.brakeN := rfl
@[simp] theorem State.setClusS_smbAddr : (s.setClusS k x).smbAddr = s.smbAddr := rfl
@[simp] theorem State.setClusS_ages : (s.setClusS k x).ages = s.ages := rfl
@[simp] theorem State.setClusS_sec : (s.setClusS k x).sec = s.sec := rfl
@[simp] theorem State.setClusS_hist : (s.setClusS k x).hist = s.hist := rfl
@[simp] theorem State.setClusS_evt : (s.setClusS k x).evt = s.evt := rfl
@[simp] theorem State.setClusS_mgmt : (s.setClusS k x).mgmt = s.mgmt := rfl
@[simp] theorem State.setClusS_out : (s.setClusS k x).out = s.out := rfl
@[simp] theorem State.setClusS_retEng : (s.setClusS k x).retEng = s.retEng := rfl
@[simp] theorem State.setClusS_badPairs : (s.setClusS k x).badPairs = s.badPairs := rfl
@[simp] theorem State.setClusS_permPairs : (s.setClusS k x).permPairs = s.permPairs := rfl
@[simp] theorem State.setClusS_retElt : (s.setClusS k x).retElt = s.retElt := rfl
@[simp] theorem State.setClusS_retQnt : (s.setClusS k x).retQnt = s.retQnt := rfl
@[simp] theorem State.setClusS_badLanes : (s.setClusS k x).badLanes = s.badLanes := rfl
@[simp] theorem State.setClusS_selftestGen : (s.setClusS k x).selftestGen = s.selftestGen := rfl
@[simp] theorem State.setClusS_queues : (s.setClusS k x).queues = s.queues := rfl
@[simp] theorem State.setClusS_ctrs : (s.setClusS k x).ctrs = s.ctrs := rfl
@[simp] theorem State.setClusS_ctrSnap : (s.setClusS k x).ctrSnap = s.ctrSnap := rfl
@[simp] theorem State.setClusS_visits : (s.setClusS k x).visits = s.visits := rfl
@[simp] theorem State.setClusS_flight : (s.setClusS k x).flight = s.flight := rfl
@[simp] theorem State.setClusS_nextId : (s.setClusS k x).nextId = s.nextId := rfl
@[simp] theorem State.setClusS_cals : (s.setClusS k x).cals = s.cals := rfl
@[simp] theorem State.setClusS_txns : (s.setClusS k x).txns = s.txns := rfl
@[simp] theorem State.setClusS_capTable : (s.setClusS k x).capTable = s.capTable := rfl
@[simp] theorem State.setClusS_owner : (s.setClusS k x).owner = s.owner := rfl
@[simp] theorem State.setClusS_ctxs : (s.setClusS k x).ctxs = s.ctxs := rfl
@[simp] theorem State.setClusS_pages : (s.setClusS k x).pages = s.pages := rfl
@[simp] theorem State.setClusS_nextFrame : (s.setClusS k x).nextFrame = s.nextFrame := rfl
@[simp] theorem State.setClusS_nextFpage : (s.setClusS k x).nextFpage = s.nextFpage := rfl
@[simp] theorem State.setClusS_images : (s.setClusS k x).images = s.images := rfl
@[simp] theorem State.setClusS_ftl : (s.setClusS k x).ftl = s.ftl := rfl
@[simp] theorem State.setClusS_engs : (s.setClusS k x).engs = s.engs := rfl
@[simp] theorem State.setClusS_scales : (s.setClusS k x).scales = s.scales := rfl
@[simp] theorem State.setClusS_qnts : (s.setClusS k x).qnts = s.qnts := rfl
@[simp] theorem State.setClusS_elts : (s.setClusS k x).elts = s.elts := rfl
@[simp] theorem State.setClusS_ports : (s.setClusS k x).ports = s.ports := rfl
@[simp] theorem State.setClusS_fab : (s.setClusS k x).fab = s.fab := rfl
@[simp] theorem State.setClusS_colls : (s.setClusS k x).colls = s.colls := rfl
@[simp] theorem State.setClusS_early : (s.setClusS k x).early = s.early := rfl
@[simp] theorem State.setClusS_vigil : (s.setClusS k x).vigil = s.vigil := rfl
@[simp] theorem State.setClusS_lanFull : (s.setClusS k x).lanFull = s.lanFull := rfl
end

section
variable (p : Nat) (x : PortS)
@[simp] theorem State.setPort_pending : (s.setPort p x).pending = s.pending := rfl
@[simp] theorem State.setPort_tied : (s.setPort p x).tied = s.tied := rfl
@[simp] theorem State.setPort_variant : (s.setPort p x).variant = s.variant := rfl
@[simp] theorem State.setPort_freeCount : (s.setPort p x).freeCount = s.freeCount := rfl
@[simp] theorem State.setPort_regs : (s.setPort p x).regs = s.regs := rfl
@[simp] theorem State.setPort_mem : (s.setPort p x).mem = s.mem := rfl
@[simp] theorem State.setPort_poison : (s.setPort p x).poison = s.poison := rfl
@[simp] theorem State.setPort_accPois : (s.setPort p x).accPois = s.accPois := rfl
@[simp] theorem State.setPort_boot : (s.setPort p x).boot = s.boot := rfl
@[simp] theorem State.setPort_clk : (s.setPort p x).clk = s.clk := rfl
@[simp] theorem State.setPort_gov : (s.setPort p x).gov = s.gov := rfl
@[simp] theorem State.setPort_therm : (s.setPort p x).therm = s.therm := rfl
@[simp] theorem State.setPort_temps : (s.setPort p x).temps = s.temps := rfl
@[simp] theorem State.setPort_thermtrip : (s.setPort p x).thermtrip = s.thermtrip := rfl
@[simp] theorem State.setPort_brakeN : (s.setPort p x).brakeN = s.brakeN := rfl
@[simp] theorem State.setPort_smbAddr : (s.setPort p x).smbAddr = s.smbAddr := rfl
@[simp] theorem State.setPort_ages : (s.setPort p x).ages = s.ages := rfl
@[simp] theorem State.setPort_sec : (s.setPort p x).sec = s.sec := rfl
@[simp] theorem State.setPort_hist : (s.setPort p x).hist = s.hist := rfl
@[simp] theorem State.setPort_evt : (s.setPort p x).evt = s.evt := rfl
@[simp] theorem State.setPort_mgmt : (s.setPort p x).mgmt = s.mgmt := rfl
@[simp] theorem State.setPort_out : (s.setPort p x).out = s.out := rfl
@[simp] theorem State.setPort_retEng : (s.setPort p x).retEng = s.retEng := rfl
@[simp] theorem State.setPort_badPairs : (s.setPort p x).badPairs = s.badPairs := rfl
@[simp] theorem State.setPort_permPairs : (s.setPort p x).permPairs = s.permPairs := rfl
@[simp] theorem State.setPort_retElt : (s.setPort p x).retElt = s.retElt := rfl
@[simp] theorem State.setPort_retQnt : (s.setPort p x).retQnt = s.retQnt := rfl
@[simp] theorem State.setPort_badLanes : (s.setPort p x).badLanes = s.badLanes := rfl
@[simp] theorem State.setPort_selftestGen : (s.setPort p x).selftestGen = s.selftestGen := rfl
@[simp] theorem State.setPort_queues : (s.setPort p x).queues = s.queues := rfl
@[simp] theorem State.setPort_ctrs : (s.setPort p x).ctrs = s.ctrs := rfl
@[simp] theorem State.setPort_ctrSnap : (s.setPort p x).ctrSnap = s.ctrSnap := rfl
@[simp] theorem State.setPort_visits : (s.setPort p x).visits = s.visits := rfl
@[simp] theorem State.setPort_flight : (s.setPort p x).flight = s.flight := rfl
@[simp] theorem State.setPort_nextId : (s.setPort p x).nextId = s.nextId := rfl
@[simp] theorem State.setPort_cals : (s.setPort p x).cals = s.cals := rfl
@[simp] theorem State.setPort_txns : (s.setPort p x).txns = s.txns := rfl
@[simp] theorem State.setPort_capTable : (s.setPort p x).capTable = s.capTable := rfl
@[simp] theorem State.setPort_owner : (s.setPort p x).owner = s.owner := rfl
@[simp] theorem State.setPort_ctxs : (s.setPort p x).ctxs = s.ctxs := rfl
@[simp] theorem State.setPort_pages : (s.setPort p x).pages = s.pages := rfl
@[simp] theorem State.setPort_nextFrame : (s.setPort p x).nextFrame = s.nextFrame := rfl
@[simp] theorem State.setPort_nextFpage : (s.setPort p x).nextFpage = s.nextFpage := rfl
@[simp] theorem State.setPort_images : (s.setPort p x).images = s.images := rfl
@[simp] theorem State.setPort_ftl : (s.setPort p x).ftl = s.ftl := rfl
@[simp] theorem State.setPort_engs : (s.setPort p x).engs = s.engs := rfl
@[simp] theorem State.setPort_clus : (s.setPort p x).clus = s.clus := rfl
@[simp] theorem State.setPort_scales : (s.setPort p x).scales = s.scales := rfl
@[simp] theorem State.setPort_qnts : (s.setPort p x).qnts = s.qnts := rfl
@[simp] theorem State.setPort_elts : (s.setPort p x).elts = s.elts := rfl
@[simp] theorem State.setPort_fab : (s.setPort p x).fab = s.fab := rfl
@[simp] theorem State.setPort_colls : (s.setPort p x).colls = s.colls := rfl
@[simp] theorem State.setPort_early : (s.setPort p x).early = s.early := rfl
@[simp] theorem State.setPort_vigil : (s.setPort p x).vigil = s.vigil := rfl
@[simp] theorem State.setPort_lanFull : (s.setPort p x).lanFull = s.lanFull := rfl
end

section
variable (n : Nat) (x : EptS)
@[simp] theorem State.setEpt_pending : (s.setEpt n x).pending = s.pending := rfl
@[simp] theorem State.setEpt_tied : (s.setEpt n x).tied = s.tied := rfl
@[simp] theorem State.setEpt_variant : (s.setEpt n x).variant = s.variant := rfl
@[simp] theorem State.setEpt_freeCount : (s.setEpt n x).freeCount = s.freeCount := rfl
@[simp] theorem State.setEpt_regs : (s.setEpt n x).regs = s.regs := rfl
@[simp] theorem State.setEpt_mem : (s.setEpt n x).mem = s.mem := rfl
@[simp] theorem State.setEpt_poison : (s.setEpt n x).poison = s.poison := rfl
@[simp] theorem State.setEpt_accPois : (s.setEpt n x).accPois = s.accPois := rfl
@[simp] theorem State.setEpt_boot : (s.setEpt n x).boot = s.boot := rfl
@[simp] theorem State.setEpt_clk : (s.setEpt n x).clk = s.clk := rfl
@[simp] theorem State.setEpt_gov : (s.setEpt n x).gov = s.gov := rfl
@[simp] theorem State.setEpt_therm : (s.setEpt n x).therm = s.therm := rfl
@[simp] theorem State.setEpt_temps : (s.setEpt n x).temps = s.temps := rfl
@[simp] theorem State.setEpt_thermtrip : (s.setEpt n x).thermtrip = s.thermtrip := rfl
@[simp] theorem State.setEpt_brakeN : (s.setEpt n x).brakeN = s.brakeN := rfl
@[simp] theorem State.setEpt_smbAddr : (s.setEpt n x).smbAddr = s.smbAddr := rfl
@[simp] theorem State.setEpt_ages : (s.setEpt n x).ages = s.ages := rfl
@[simp] theorem State.setEpt_sec : (s.setEpt n x).sec = s.sec := rfl
@[simp] theorem State.setEpt_hist : (s.setEpt n x).hist = s.hist := rfl
@[simp] theorem State.setEpt_evt : (s.setEpt n x).evt = s.evt := rfl
@[simp] theorem State.setEpt_mgmt : (s.setEpt n x).mgmt = s.mgmt := rfl
@[simp] theorem State.setEpt_out : (s.setEpt n x).out = s.out := rfl
@[simp] theorem State.setEpt_retEng : (s.setEpt n x).retEng = s.retEng := rfl
@[simp] theorem State.setEpt_badPairs : (s.setEpt n x).badPairs = s.badPairs := rfl
@[simp] theorem State.setEpt_permPairs : (s.setEpt n x).permPairs = s.permPairs := rfl
@[simp] theorem State.setEpt_retElt : (s.setEpt n x).retElt = s.retElt := rfl
@[simp] theorem State.setEpt_retQnt : (s.setEpt n x).retQnt = s.retQnt := rfl
@[simp] theorem State.setEpt_badLanes : (s.setEpt n x).badLanes = s.badLanes := rfl
@[simp] theorem State.setEpt_selftestGen : (s.setEpt n x).selftestGen = s.selftestGen := rfl
@[simp] theorem State.setEpt_queues : (s.setEpt n x).queues = s.queues := rfl
@[simp] theorem State.setEpt_ctrs : (s.setEpt n x).ctrs = s.ctrs := rfl
@[simp] theorem State.setEpt_ctrSnap : (s.setEpt n x).ctrSnap = s.ctrSnap := rfl
@[simp] theorem State.setEpt_visits : (s.setEpt n x).visits = s.visits := rfl
@[simp] theorem State.setEpt_flight : (s.setEpt n x).flight = s.flight := rfl
@[simp] theorem State.setEpt_nextId : (s.setEpt n x).nextId = s.nextId := rfl
@[simp] theorem State.setEpt_cals : (s.setEpt n x).cals = s.cals := rfl
@[simp] theorem State.setEpt_txns : (s.setEpt n x).txns = s.txns := rfl
@[simp] theorem State.setEpt_capTable : (s.setEpt n x).capTable = s.capTable := rfl
@[simp] theorem State.setEpt_owner : (s.setEpt n x).owner = s.owner := rfl
@[simp] theorem State.setEpt_ctxs : (s.setEpt n x).ctxs = s.ctxs := rfl
@[simp] theorem State.setEpt_pages : (s.setEpt n x).pages = s.pages := rfl
@[simp] theorem State.setEpt_nextFrame : (s.setEpt n x).nextFrame = s.nextFrame := rfl
@[simp] theorem State.setEpt_nextFpage : (s.setEpt n x).nextFpage = s.nextFpage := rfl
@[simp] theorem State.setEpt_images : (s.setEpt n x).images = s.images := rfl
@[simp] theorem State.setEpt_ftl : (s.setEpt n x).ftl = s.ftl := rfl
@[simp] theorem State.setEpt_engs : (s.setEpt n x).engs = s.engs := rfl
@[simp] theorem State.setEpt_clus : (s.setEpt n x).clus = s.clus := rfl
@[simp] theorem State.setEpt_scales : (s.setEpt n x).scales = s.scales := rfl
@[simp] theorem State.setEpt_qnts : (s.setEpt n x).qnts = s.qnts := rfl
@[simp] theorem State.setEpt_elts : (s.setEpt n x).elts = s.elts := rfl
@[simp] theorem State.setEpt_ports : (s.setEpt n x).ports = s.ports := rfl
@[simp] theorem State.setEpt_colls : (s.setEpt n x).colls = s.colls := rfl
@[simp] theorem State.setEpt_early : (s.setEpt n x).early = s.early := rfl
@[simp] theorem State.setEpt_vigil : (s.setEpt n x).vigil = s.vigil := rfl
@[simp] theorem State.setEpt_lanFull : (s.setEpt n x).lanFull = s.lanFull := rfl
end

section
variable (d : Nat) (x : GovS)
@[simp] theorem State.setGov_pending : (s.setGov d x).pending = s.pending := rfl
@[simp] theorem State.setGov_tied : (s.setGov d x).tied = s.tied := rfl
@[simp] theorem State.setGov_variant : (s.setGov d x).variant = s.variant := rfl
@[simp] theorem State.setGov_freeCount : (s.setGov d x).freeCount = s.freeCount := rfl
@[simp] theorem State.setGov_regs : (s.setGov d x).regs = s.regs := rfl
@[simp] theorem State.setGov_mem : (s.setGov d x).mem = s.mem := rfl
@[simp] theorem State.setGov_poison : (s.setGov d x).poison = s.poison := rfl
@[simp] theorem State.setGov_accPois : (s.setGov d x).accPois = s.accPois := rfl
@[simp] theorem State.setGov_boot : (s.setGov d x).boot = s.boot := rfl
@[simp] theorem State.setGov_clk : (s.setGov d x).clk = s.clk := rfl
@[simp] theorem State.setGov_therm : (s.setGov d x).therm = s.therm := rfl
@[simp] theorem State.setGov_temps : (s.setGov d x).temps = s.temps := rfl
@[simp] theorem State.setGov_thermtrip : (s.setGov d x).thermtrip = s.thermtrip := rfl
@[simp] theorem State.setGov_brakeN : (s.setGov d x).brakeN = s.brakeN := rfl
@[simp] theorem State.setGov_smbAddr : (s.setGov d x).smbAddr = s.smbAddr := rfl
@[simp] theorem State.setGov_ages : (s.setGov d x).ages = s.ages := rfl
@[simp] theorem State.setGov_sec : (s.setGov d x).sec = s.sec := rfl
@[simp] theorem State.setGov_hist : (s.setGov d x).hist = s.hist := rfl
@[simp] theorem State.setGov_evt : (s.setGov d x).evt = s.evt := rfl
@[simp] theorem State.setGov_mgmt : (s.setGov d x).mgmt = s.mgmt := rfl
@[simp] theorem State.setGov_out : (s.setGov d x).out = s.out := rfl
@[simp] theorem State.setGov_retEng : (s.setGov d x).retEng = s.retEng := rfl
@[simp] theorem State.setGov_badPairs : (s.setGov d x).badPairs = s.badPairs := rfl
@[simp] theorem State.setGov_permPairs : (s.setGov d x).permPairs = s.permPairs := rfl
@[simp] theorem State.setGov_retElt : (s.setGov d x).retElt = s.retElt := rfl
@[simp] theorem State.setGov_retQnt : (s.setGov d x).retQnt = s.retQnt := rfl
@[simp] theorem State.setGov_badLanes : (s.setGov d x).badLanes = s.badLanes := rfl
@[simp] theorem State.setGov_selftestGen : (s.setGov d x).selftestGen = s.selftestGen := rfl
@[simp] theorem State.setGov_queues : (s.setGov d x).queues = s.queues := rfl
@[simp] theorem State.setGov_ctrs : (s.setGov d x).ctrs = s.ctrs := rfl
@[simp] theorem State.setGov_ctrSnap : (s.setGov d x).ctrSnap = s.ctrSnap := rfl
@[simp] theorem State.setGov_visits : (s.setGov d x).visits = s.visits := rfl
@[simp] theorem State.setGov_flight : (s.setGov d x).flight = s.flight := rfl
@[simp] theorem State.setGov_nextId : (s.setGov d x).nextId = s.nextId := rfl
@[simp] theorem State.setGov_cals : (s.setGov d x).cals = s.cals := rfl
@[simp] theorem State.setGov_txns : (s.setGov d x).txns = s.txns := rfl
@[simp] theorem State.setGov_capTable : (s.setGov d x).capTable = s.capTable := rfl
@[simp] theorem State.setGov_owner : (s.setGov d x).owner = s.owner := rfl
@[simp] theorem State.setGov_ctxs : (s.setGov d x).ctxs = s.ctxs := rfl
@[simp] theorem State.setGov_pages : (s.setGov d x).pages = s.pages := rfl
@[simp] theorem State.setGov_nextFrame : (s.setGov d x).nextFrame = s.nextFrame := rfl
@[simp] theorem State.setGov_nextFpage : (s.setGov d x).nextFpage = s.nextFpage := rfl
@[simp] theorem State.setGov_images : (s.setGov d x).images = s.images := rfl
@[simp] theorem State.setGov_ftl : (s.setGov d x).ftl = s.ftl := rfl
@[simp] theorem State.setGov_engs : (s.setGov d x).engs = s.engs := rfl
@[simp] theorem State.setGov_clus : (s.setGov d x).clus = s.clus := rfl
@[simp] theorem State.setGov_scales : (s.setGov d x).scales = s.scales := rfl
@[simp] theorem State.setGov_qnts : (s.setGov d x).qnts = s.qnts := rfl
@[simp] theorem State.setGov_elts : (s.setGov d x).elts = s.elts := rfl
@[simp] theorem State.setGov_ports : (s.setGov d x).ports = s.ports := rfl
@[simp] theorem State.setGov_fab : (s.setGov d x).fab = s.fab := rfl
@[simp] theorem State.setGov_colls : (s.setGov d x).colls = s.colls := rfl
@[simp] theorem State.setGov_early : (s.setGov d x).early = s.early := rfl
@[simp] theorem State.setGov_vigil : (s.setGov d x).vigil = s.vigil := rfl
@[simp] theorem State.setGov_lanFull : (s.setGov d x).lanFull = s.lanFull := rfl
end

section
variable (d : Nat) (x : AgeS)
@[simp] theorem State.setAge_pending : (s.setAge d x).pending = s.pending := rfl
@[simp] theorem State.setAge_tied : (s.setAge d x).tied = s.tied := rfl
@[simp] theorem State.setAge_variant : (s.setAge d x).variant = s.variant := rfl
@[simp] theorem State.setAge_freeCount : (s.setAge d x).freeCount = s.freeCount := rfl
@[simp] theorem State.setAge_regs : (s.setAge d x).regs = s.regs := rfl
@[simp] theorem State.setAge_mem : (s.setAge d x).mem = s.mem := rfl
@[simp] theorem State.setAge_poison : (s.setAge d x).poison = s.poison := rfl
@[simp] theorem State.setAge_accPois : (s.setAge d x).accPois = s.accPois := rfl
@[simp] theorem State.setAge_boot : (s.setAge d x).boot = s.boot := rfl
@[simp] theorem State.setAge_clk : (s.setAge d x).clk = s.clk := rfl
@[simp] theorem State.setAge_gov : (s.setAge d x).gov = s.gov := rfl
@[simp] theorem State.setAge_therm : (s.setAge d x).therm = s.therm := rfl
@[simp] theorem State.setAge_temps : (s.setAge d x).temps = s.temps := rfl
@[simp] theorem State.setAge_thermtrip : (s.setAge d x).thermtrip = s.thermtrip := rfl
@[simp] theorem State.setAge_brakeN : (s.setAge d x).brakeN = s.brakeN := rfl
@[simp] theorem State.setAge_smbAddr : (s.setAge d x).smbAddr = s.smbAddr := rfl
@[simp] theorem State.setAge_sec : (s.setAge d x).sec = s.sec := rfl
@[simp] theorem State.setAge_hist : (s.setAge d x).hist = s.hist := rfl
@[simp] theorem State.setAge_evt : (s.setAge d x).evt = s.evt := rfl
@[simp] theorem State.setAge_mgmt : (s.setAge d x).mgmt = s.mgmt := rfl
@[simp] theorem State.setAge_out : (s.setAge d x).out = s.out := rfl
@[simp] theorem State.setAge_retEng : (s.setAge d x).retEng = s.retEng := rfl
@[simp] theorem State.setAge_badPairs : (s.setAge d x).badPairs = s.badPairs := rfl
@[simp] theorem State.setAge_permPairs : (s.setAge d x).permPairs = s.permPairs := rfl
@[simp] theorem State.setAge_retElt : (s.setAge d x).retElt = s.retElt := rfl
@[simp] theorem State.setAge_retQnt : (s.setAge d x).retQnt = s.retQnt := rfl
@[simp] theorem State.setAge_badLanes : (s.setAge d x).badLanes = s.badLanes := rfl
@[simp] theorem State.setAge_selftestGen : (s.setAge d x).selftestGen = s.selftestGen := rfl
@[simp] theorem State.setAge_queues : (s.setAge d x).queues = s.queues := rfl
@[simp] theorem State.setAge_ctrs : (s.setAge d x).ctrs = s.ctrs := rfl
@[simp] theorem State.setAge_ctrSnap : (s.setAge d x).ctrSnap = s.ctrSnap := rfl
@[simp] theorem State.setAge_visits : (s.setAge d x).visits = s.visits := rfl
@[simp] theorem State.setAge_flight : (s.setAge d x).flight = s.flight := rfl
@[simp] theorem State.setAge_nextId : (s.setAge d x).nextId = s.nextId := rfl
@[simp] theorem State.setAge_cals : (s.setAge d x).cals = s.cals := rfl
@[simp] theorem State.setAge_txns : (s.setAge d x).txns = s.txns := rfl
@[simp] theorem State.setAge_capTable : (s.setAge d x).capTable = s.capTable := rfl
@[simp] theorem State.setAge_owner : (s.setAge d x).owner = s.owner := rfl
@[simp] theorem State.setAge_ctxs : (s.setAge d x).ctxs = s.ctxs := rfl
@[simp] theorem State.setAge_pages : (s.setAge d x).pages = s.pages := rfl
@[simp] theorem State.setAge_nextFrame : (s.setAge d x).nextFrame = s.nextFrame := rfl
@[simp] theorem State.setAge_nextFpage : (s.setAge d x).nextFpage = s.nextFpage := rfl
@[simp] theorem State.setAge_images : (s.setAge d x).images = s.images := rfl
@[simp] theorem State.setAge_ftl : (s.setAge d x).ftl = s.ftl := rfl
@[simp] theorem State.setAge_engs : (s.setAge d x).engs = s.engs := rfl
@[simp] theorem State.setAge_clus : (s.setAge d x).clus = s.clus := rfl
@[simp] theorem State.setAge_scales : (s.setAge d x).scales = s.scales := rfl
@[simp] theorem State.setAge_qnts : (s.setAge d x).qnts = s.qnts := rfl
@[simp] theorem State.setAge_elts : (s.setAge d x).elts = s.elts := rfl
@[simp] theorem State.setAge_ports : (s.setAge d x).ports = s.ports := rfl
@[simp] theorem State.setAge_fab : (s.setAge d x).fab = s.fab := rfl
@[simp] theorem State.setAge_colls : (s.setAge d x).colls = s.colls := rfl
@[simp] theorem State.setAge_early : (s.setAge d x).early = s.early := rfl
@[simp] theorem State.setAge_vigil : (s.setAge d x).vigil = s.vigil := rfl
@[simp] theorem State.setAge_lanFull : (s.setAge d x).lanFull = s.lanFull := rfl
end

section
variable (k : Nat) (x : ClusClk)
@[simp] theorem State.setClusClk_pending : (s.setClusClk k x).pending = s.pending := rfl
@[simp] theorem State.setClusClk_tied : (s.setClusClk k x).tied = s.tied := rfl
@[simp] theorem State.setClusClk_variant : (s.setClusClk k x).variant = s.variant := rfl
@[simp] theorem State.setClusClk_freeCount : (s.setClusClk k x).freeCount = s.freeCount := rfl
@[simp] theorem State.setClusClk_regs : (s.setClusClk k x).regs = s.regs := rfl
@[simp] theorem State.setClusClk_mem : (s.setClusClk k x).mem = s.mem := rfl
@[simp] theorem State.setClusClk_poison : (s.setClusClk k x).poison = s.poison := rfl
@[simp] theorem State.setClusClk_accPois : (s.setClusClk k x).accPois = s.accPois := rfl
@[simp] theorem State.setClusClk_boot : (s.setClusClk k x).boot = s.boot := rfl
@[simp] theorem State.setClusClk_gov : (s.setClusClk k x).gov = s.gov := rfl
@[simp] theorem State.setClusClk_therm : (s.setClusClk k x).therm = s.therm := rfl
@[simp] theorem State.setClusClk_temps : (s.setClusClk k x).temps = s.temps := rfl
@[simp] theorem State.setClusClk_thermtrip : (s.setClusClk k x).thermtrip = s.thermtrip := rfl
@[simp] theorem State.setClusClk_brakeN : (s.setClusClk k x).brakeN = s.brakeN := rfl
@[simp] theorem State.setClusClk_smbAddr : (s.setClusClk k x).smbAddr = s.smbAddr := rfl
@[simp] theorem State.setClusClk_ages : (s.setClusClk k x).ages = s.ages := rfl
@[simp] theorem State.setClusClk_sec : (s.setClusClk k x).sec = s.sec := rfl
@[simp] theorem State.setClusClk_hist : (s.setClusClk k x).hist = s.hist := rfl
@[simp] theorem State.setClusClk_evt : (s.setClusClk k x).evt = s.evt := rfl
@[simp] theorem State.setClusClk_mgmt : (s.setClusClk k x).mgmt = s.mgmt := rfl
@[simp] theorem State.setClusClk_out : (s.setClusClk k x).out = s.out := rfl
@[simp] theorem State.setClusClk_retEng : (s.setClusClk k x).retEng = s.retEng := rfl
@[simp] theorem State.setClusClk_badPairs : (s.setClusClk k x).badPairs = s.badPairs := rfl
@[simp] theorem State.setClusClk_permPairs : (s.setClusClk k x).permPairs = s.permPairs := rfl
@[simp] theorem State.setClusClk_retElt : (s.setClusClk k x).retElt = s.retElt := rfl
@[simp] theorem State.setClusClk_retQnt : (s.setClusClk k x).retQnt = s.retQnt := rfl
@[simp] theorem State.setClusClk_badLanes : (s.setClusClk k x).badLanes = s.badLanes := rfl
@[simp] theorem State.setClusClk_selftestGen : (s.setClusClk k x).selftestGen = s.selftestGen := rfl
@[simp] theorem State.setClusClk_queues : (s.setClusClk k x).queues = s.queues := rfl
@[simp] theorem State.setClusClk_ctrs : (s.setClusClk k x).ctrs = s.ctrs := rfl
@[simp] theorem State.setClusClk_ctrSnap : (s.setClusClk k x).ctrSnap = s.ctrSnap := rfl
@[simp] theorem State.setClusClk_visits : (s.setClusClk k x).visits = s.visits := rfl
@[simp] theorem State.setClusClk_flight : (s.setClusClk k x).flight = s.flight := rfl
@[simp] theorem State.setClusClk_nextId : (s.setClusClk k x).nextId = s.nextId := rfl
@[simp] theorem State.setClusClk_cals : (s.setClusClk k x).cals = s.cals := rfl
@[simp] theorem State.setClusClk_txns : (s.setClusClk k x).txns = s.txns := rfl
@[simp] theorem State.setClusClk_capTable : (s.setClusClk k x).capTable = s.capTable := rfl
@[simp] theorem State.setClusClk_owner : (s.setClusClk k x).owner = s.owner := rfl
@[simp] theorem State.setClusClk_ctxs : (s.setClusClk k x).ctxs = s.ctxs := rfl
@[simp] theorem State.setClusClk_pages : (s.setClusClk k x).pages = s.pages := rfl
@[simp] theorem State.setClusClk_nextFrame : (s.setClusClk k x).nextFrame = s.nextFrame := rfl
@[simp] theorem State.setClusClk_nextFpage : (s.setClusClk k x).nextFpage = s.nextFpage := rfl
@[simp] theorem State.setClusClk_images : (s.setClusClk k x).images = s.images := rfl
@[simp] theorem State.setClusClk_ftl : (s.setClusClk k x).ftl = s.ftl := rfl
@[simp] theorem State.setClusClk_engs : (s.setClusClk k x).engs = s.engs := rfl
@[simp] theorem State.setClusClk_clus : (s.setClusClk k x).clus = s.clus := rfl
@[simp] theorem State.setClusClk_scales : (s.setClusClk k x).scales = s.scales := rfl
@[simp] theorem State.setClusClk_qnts : (s.setClusClk k x).qnts = s.qnts := rfl
@[simp] theorem State.setClusClk_elts : (s.setClusClk k x).elts = s.elts := rfl
@[simp] theorem State.setClusClk_ports : (s.setClusClk k x).ports = s.ports := rfl
@[simp] theorem State.setClusClk_fab : (s.setClusClk k x).fab = s.fab := rfl
@[simp] theorem State.setClusClk_colls : (s.setClusClk k x).colls = s.colls := rfl
@[simp] theorem State.setClusClk_early : (s.setClusClk k x).early = s.early := rfl
@[simp] theorem State.setClusClk_vigil : (s.setClusClk k x).vigil = s.vigil := rfl
@[simp] theorem State.setClusClk_lanFull : (s.setClusClk k x).lanFull = s.lanFull := rfl
end

section
variable (n : Nat) (f : Flight → Flight)
@[simp] theorem State.updFlight_pending : (s.updFlight n f).pending = s.pending := rfl
@[simp] theorem State.updFlight_tied : (s.updFlight n f).tied = s.tied := rfl
@[simp] theorem State.updFlight_variant : (s.updFlight n f).variant = s.variant := rfl
@[simp] theorem State.updFlight_freeCount : (s.updFlight n f).freeCount = s.freeCount := rfl
@[simp] theorem State.updFlight_regs : (s.updFlight n f).regs = s.regs := rfl
@[simp] theorem State.updFlight_mem : (s.updFlight n f).mem = s.mem := rfl
@[simp] theorem State.updFlight_poison : (s.updFlight n f).poison = s.poison := rfl
@[simp] theorem State.updFlight_accPois : (s.updFlight n f).accPois = s.accPois := rfl
@[simp] theorem State.updFlight_boot : (s.updFlight n f).boot = s.boot := rfl
@[simp] theorem State.updFlight_clk : (s.updFlight n f).clk = s.clk := rfl
@[simp] theorem State.updFlight_gov : (s.updFlight n f).gov = s.gov := rfl
@[simp] theorem State.updFlight_therm : (s.updFlight n f).therm = s.therm := rfl
@[simp] theorem State.updFlight_temps : (s.updFlight n f).temps = s.temps := rfl
@[simp] theorem State.updFlight_thermtrip : (s.updFlight n f).thermtrip = s.thermtrip := rfl
@[simp] theorem State.updFlight_brakeN : (s.updFlight n f).brakeN = s.brakeN := rfl
@[simp] theorem State.updFlight_smbAddr : (s.updFlight n f).smbAddr = s.smbAddr := rfl
@[simp] theorem State.updFlight_ages : (s.updFlight n f).ages = s.ages := rfl
@[simp] theorem State.updFlight_sec : (s.updFlight n f).sec = s.sec := rfl
@[simp] theorem State.updFlight_hist : (s.updFlight n f).hist = s.hist := rfl
@[simp] theorem State.updFlight_evt : (s.updFlight n f).evt = s.evt := rfl
@[simp] theorem State.updFlight_mgmt : (s.updFlight n f).mgmt = s.mgmt := rfl
@[simp] theorem State.updFlight_out : (s.updFlight n f).out = s.out := rfl
@[simp] theorem State.updFlight_retEng : (s.updFlight n f).retEng = s.retEng := rfl
@[simp] theorem State.updFlight_badPairs : (s.updFlight n f).badPairs = s.badPairs := rfl
@[simp] theorem State.updFlight_permPairs : (s.updFlight n f).permPairs = s.permPairs := rfl
@[simp] theorem State.updFlight_retElt : (s.updFlight n f).retElt = s.retElt := rfl
@[simp] theorem State.updFlight_retQnt : (s.updFlight n f).retQnt = s.retQnt := rfl
@[simp] theorem State.updFlight_badLanes : (s.updFlight n f).badLanes = s.badLanes := rfl
@[simp] theorem State.updFlight_selftestGen : (s.updFlight n f).selftestGen = s.selftestGen := rfl
@[simp] theorem State.updFlight_queues : (s.updFlight n f).queues = s.queues := rfl
@[simp] theorem State.updFlight_ctrs : (s.updFlight n f).ctrs = s.ctrs := rfl
@[simp] theorem State.updFlight_ctrSnap : (s.updFlight n f).ctrSnap = s.ctrSnap := rfl
@[simp] theorem State.updFlight_visits : (s.updFlight n f).visits = s.visits := rfl
@[simp] theorem State.updFlight_nextId : (s.updFlight n f).nextId = s.nextId := rfl
@[simp] theorem State.updFlight_cals : (s.updFlight n f).cals = s.cals := rfl
@[simp] theorem State.updFlight_txns : (s.updFlight n f).txns = s.txns := rfl
@[simp] theorem State.updFlight_capTable : (s.updFlight n f).capTable = s.capTable := rfl
@[simp] theorem State.updFlight_owner : (s.updFlight n f).owner = s.owner := rfl
@[simp] theorem State.updFlight_ctxs : (s.updFlight n f).ctxs = s.ctxs := rfl
@[simp] theorem State.updFlight_pages : (s.updFlight n f).pages = s.pages := rfl
@[simp] theorem State.updFlight_nextFrame : (s.updFlight n f).nextFrame = s.nextFrame := rfl
@[simp] theorem State.updFlight_nextFpage : (s.updFlight n f).nextFpage = s.nextFpage := rfl
@[simp] theorem State.updFlight_images : (s.updFlight n f).images = s.images := rfl
@[simp] theorem State.updFlight_ftl : (s.updFlight n f).ftl = s.ftl := rfl
@[simp] theorem State.updFlight_engs : (s.updFlight n f).engs = s.engs := rfl
@[simp] theorem State.updFlight_clus : (s.updFlight n f).clus = s.clus := rfl
@[simp] theorem State.updFlight_scales : (s.updFlight n f).scales = s.scales := rfl
@[simp] theorem State.updFlight_qnts : (s.updFlight n f).qnts = s.qnts := rfl
@[simp] theorem State.updFlight_elts : (s.updFlight n f).elts = s.elts := rfl
@[simp] theorem State.updFlight_ports : (s.updFlight n f).ports = s.ports := rfl
@[simp] theorem State.updFlight_fab : (s.updFlight n f).fab = s.fab := rfl
@[simp] theorem State.updFlight_colls : (s.updFlight n f).colls = s.colls := rfl
@[simp] theorem State.updFlight_early : (s.updFlight n f).early = s.early := rfl
@[simp] theorem State.updFlight_vigil : (s.updFlight n f).vigil = s.vigil := rfl
@[simp] theorem State.updFlight_lanFull : (s.updFlight n f).lanFull = s.lanFull := rfl
end

section
variable (n : Nat) (f : ImageS → ImageS)
@[simp] theorem State.updImage_pending : (s.updImage n f).pending = s.pending := rfl
@[simp] theorem State.updImage_tied : (s.updImage n f).tied = s.tied := rfl
@[simp] theorem State.updImage_variant : (s.updImage n f).variant = s.variant := rfl
@[simp] theorem State.updImage_freeCount : (s.updImage n f).freeCount = s.freeCount := rfl
@[simp] theorem State.updImage_regs : (s.updImage n f).regs = s.regs := rfl
@[simp] theorem State.updImage_mem : (s.updImage n f).mem = s.mem := rfl
@[simp] theorem State.updImage_poison : (s.updImage n f).poison = s.poison := rfl
@[simp] theorem State.updImage_accPois : (s.updImage n f).accPois = s.accPois := rfl
@[simp] theorem State.updImage_boot : (s.updImage n f).boot = s.boot := rfl
@[simp] theorem State.updImage_clk : (s.updImage n f).clk = s.clk := rfl
@[simp] theorem State.updImage_gov : (s.updImage n f).gov = s.gov := rfl
@[simp] theorem State.updImage_therm : (s.updImage n f).therm = s.therm := rfl
@[simp] theorem State.updImage_temps : (s.updImage n f).temps = s.temps := rfl
@[simp] theorem State.updImage_thermtrip : (s.updImage n f).thermtrip = s.thermtrip := rfl
@[simp] theorem State.updImage_brakeN : (s.updImage n f).brakeN = s.brakeN := rfl
@[simp] theorem State.updImage_smbAddr : (s.updImage n f).smbAddr = s.smbAddr := rfl
@[simp] theorem State.updImage_ages : (s.updImage n f).ages = s.ages := rfl
@[simp] theorem State.updImage_sec : (s.updImage n f).sec = s.sec := rfl
@[simp] theorem State.updImage_hist : (s.updImage n f).hist = s.hist := rfl
@[simp] theorem State.updImage_evt : (s.updImage n f).evt = s.evt := rfl
@[simp] theorem State.updImage_mgmt : (s.updImage n f).mgmt = s.mgmt := rfl
@[simp] theorem State.updImage_out : (s.updImage n f).out = s.out := rfl
@[simp] theorem State.updImage_retEng : (s.updImage n f).retEng = s.retEng := rfl
@[simp] theorem State.updImage_badPairs : (s.updImage n f).badPairs = s.badPairs := rfl
@[simp] theorem State.updImage_permPairs : (s.updImage n f).permPairs = s.permPairs := rfl
@[simp] theorem State.updImage_retElt : (s.updImage n f).retElt = s.retElt := rfl
@[simp] theorem State.updImage_retQnt : (s.updImage n f).retQnt = s.retQnt := rfl
@[simp] theorem State.updImage_badLanes : (s.updImage n f).badLanes = s.badLanes := rfl
@[simp] theorem State.updImage_selftestGen : (s.updImage n f).selftestGen = s.selftestGen := rfl
@[simp] theorem State.updImage_queues : (s.updImage n f).queues = s.queues := rfl
@[simp] theorem State.updImage_ctrs : (s.updImage n f).ctrs = s.ctrs := rfl
@[simp] theorem State.updImage_ctrSnap : (s.updImage n f).ctrSnap = s.ctrSnap := rfl
@[simp] theorem State.updImage_visits : (s.updImage n f).visits = s.visits := rfl
@[simp] theorem State.updImage_flight : (s.updImage n f).flight = s.flight := rfl
@[simp] theorem State.updImage_nextId : (s.updImage n f).nextId = s.nextId := rfl
@[simp] theorem State.updImage_cals : (s.updImage n f).cals = s.cals := rfl
@[simp] theorem State.updImage_txns : (s.updImage n f).txns = s.txns := rfl
@[simp] theorem State.updImage_capTable : (s.updImage n f).capTable = s.capTable := rfl
@[simp] theorem State.updImage_owner : (s.updImage n f).owner = s.owner := rfl
@[simp] theorem State.updImage_ctxs : (s.updImage n f).ctxs = s.ctxs := rfl
@[simp] theorem State.updImage_pages : (s.updImage n f).pages = s.pages := rfl
@[simp] theorem State.updImage_nextFrame : (s.updImage n f).nextFrame = s.nextFrame := rfl
@[simp] theorem State.updImage_nextFpage : (s.updImage n f).nextFpage = s.nextFpage := rfl
@[simp] theorem State.updImage_ftl : (s.updImage n f).ftl = s.ftl := rfl
@[simp] theorem State.updImage_engs : (s.updImage n f).engs = s.engs := rfl
@[simp] theorem State.updImage_clus : (s.updImage n f).clus = s.clus := rfl
@[simp] theorem State.updImage_scales : (s.updImage n f).scales = s.scales := rfl
@[simp] theorem State.updImage_qnts : (s.updImage n f).qnts = s.qnts := rfl
@[simp] theorem State.updImage_elts : (s.updImage n f).elts = s.elts := rfl
@[simp] theorem State.updImage_ports : (s.updImage n f).ports = s.ports := rfl
@[simp] theorem State.updImage_fab : (s.updImage n f).fab = s.fab := rfl
@[simp] theorem State.updImage_colls : (s.updImage n f).colls = s.colls := rfl
@[simp] theorem State.updImage_early : (s.updImage n f).early = s.early := rfl
@[simp] theorem State.updImage_vigil : (s.updImage n f).vigil = s.vigil := rfl
@[simp] theorem State.updImage_lanFull : (s.updImage n f).lanFull = s.lanFull := rfl
end

section
variable (f : Flight)
@[simp] theorem State.addFlight_pending : (s.addFlight f).pending = s.pending := rfl
@[simp] theorem State.addFlight_tied : (s.addFlight f).tied = s.tied := rfl
@[simp] theorem State.addFlight_variant : (s.addFlight f).variant = s.variant := rfl
@[simp] theorem State.addFlight_freeCount : (s.addFlight f).freeCount = s.freeCount := rfl
@[simp] theorem State.addFlight_regs : (s.addFlight f).regs = s.regs := rfl
@[simp] theorem State.addFlight_mem : (s.addFlight f).mem = s.mem := rfl
@[simp] theorem State.addFlight_poison : (s.addFlight f).poison = s.poison := rfl
@[simp] theorem State.addFlight_accPois : (s.addFlight f).accPois = s.accPois := rfl
@[simp] theorem State.addFlight_boot : (s.addFlight f).boot = s.boot := rfl
@[simp] theorem State.addFlight_clk : (s.addFlight f).clk = s.clk := rfl
@[simp] theorem State.addFlight_gov : (s.addFlight f).gov = s.gov := rfl
@[simp] theorem State.addFlight_therm : (s.addFlight f).therm = s.therm := rfl
@[simp] theorem State.addFlight_temps : (s.addFlight f).temps = s.temps := rfl
@[simp] theorem State.addFlight_thermtrip : (s.addFlight f).thermtrip = s.thermtrip := rfl
@[simp] theorem State.addFlight_brakeN : (s.addFlight f).brakeN = s.brakeN := rfl
@[simp] theorem State.addFlight_smbAddr : (s.addFlight f).smbAddr = s.smbAddr := rfl
@[simp] theorem State.addFlight_ages : (s.addFlight f).ages = s.ages := rfl
@[simp] theorem State.addFlight_sec : (s.addFlight f).sec = s.sec := rfl
@[simp] theorem State.addFlight_hist : (s.addFlight f).hist = s.hist := rfl
@[simp] theorem State.addFlight_evt : (s.addFlight f).evt = s.evt := rfl
@[simp] theorem State.addFlight_mgmt : (s.addFlight f).mgmt = s.mgmt := rfl
@[simp] theorem State.addFlight_out : (s.addFlight f).out = s.out := rfl
@[simp] theorem State.addFlight_retEng : (s.addFlight f).retEng = s.retEng := rfl
@[simp] theorem State.addFlight_badPairs : (s.addFlight f).badPairs = s.badPairs := rfl
@[simp] theorem State.addFlight_permPairs : (s.addFlight f).permPairs = s.permPairs := rfl
@[simp] theorem State.addFlight_retElt : (s.addFlight f).retElt = s.retElt := rfl
@[simp] theorem State.addFlight_retQnt : (s.addFlight f).retQnt = s.retQnt := rfl
@[simp] theorem State.addFlight_badLanes : (s.addFlight f).badLanes = s.badLanes := rfl
@[simp] theorem State.addFlight_selftestGen : (s.addFlight f).selftestGen = s.selftestGen := rfl
@[simp] theorem State.addFlight_queues : (s.addFlight f).queues = s.queues := rfl
@[simp] theorem State.addFlight_ctrs : (s.addFlight f).ctrs = s.ctrs := rfl
@[simp] theorem State.addFlight_ctrSnap : (s.addFlight f).ctrSnap = s.ctrSnap := rfl
@[simp] theorem State.addFlight_visits : (s.addFlight f).visits = s.visits := rfl
@[simp] theorem State.addFlight_cals : (s.addFlight f).cals = s.cals := rfl
@[simp] theorem State.addFlight_txns : (s.addFlight f).txns = s.txns := rfl
@[simp] theorem State.addFlight_capTable : (s.addFlight f).capTable = s.capTable := rfl
@[simp] theorem State.addFlight_owner : (s.addFlight f).owner = s.owner := rfl
@[simp] theorem State.addFlight_ctxs : (s.addFlight f).ctxs = s.ctxs := rfl
@[simp] theorem State.addFlight_pages : (s.addFlight f).pages = s.pages := rfl
@[simp] theorem State.addFlight_nextFrame : (s.addFlight f).nextFrame = s.nextFrame := rfl
@[simp] theorem State.addFlight_nextFpage : (s.addFlight f).nextFpage = s.nextFpage := rfl
@[simp] theorem State.addFlight_images : (s.addFlight f).images = s.images := rfl
@[simp] theorem State.addFlight_ftl : (s.addFlight f).ftl = s.ftl := rfl
@[simp] theorem State.addFlight_engs : (s.addFlight f).engs = s.engs := rfl
@[simp] theorem State.addFlight_clus : (s.addFlight f).clus = s.clus := rfl
@[simp] theorem State.addFlight_scales : (s.addFlight f).scales = s.scales := rfl
@[simp] theorem State.addFlight_qnts : (s.addFlight f).qnts = s.qnts := rfl
@[simp] theorem State.addFlight_elts : (s.addFlight f).elts = s.elts := rfl
@[simp] theorem State.addFlight_ports : (s.addFlight f).ports = s.ports := rfl
@[simp] theorem State.addFlight_fab : (s.addFlight f).fab = s.fab := rfl
@[simp] theorem State.addFlight_colls : (s.addFlight f).colls = s.colls := rfl
@[simp] theorem State.addFlight_early : (s.addFlight f).early = s.early := rfl
@[simp] theorem State.addFlight_vigil : (s.addFlight f).vigil = s.vigil := rfl
@[simp] theorem State.addFlight_lanFull : (s.addFlight f).lanFull = s.lanFull := rfl
end

section
variable (f : FabS → FabS)
@[simp] theorem State.updFab_pending : (s.updFab f).pending = s.pending := rfl
@[simp] theorem State.updFab_tied : (s.updFab f).tied = s.tied := rfl
@[simp] theorem State.updFab_variant : (s.updFab f).variant = s.variant := rfl
@[simp] theorem State.updFab_freeCount : (s.updFab f).freeCount = s.freeCount := rfl
@[simp] theorem State.updFab_regs : (s.updFab f).regs = s.regs := rfl
@[simp] theorem State.updFab_mem : (s.updFab f).mem = s.mem := rfl
@[simp] theorem State.updFab_poison : (s.updFab f).poison = s.poison := rfl
@[simp] theorem State.updFab_accPois : (s.updFab f).accPois = s.accPois := rfl
@[simp] theorem State.updFab_boot : (s.updFab f).boot = s.boot := rfl
@[simp] theorem State.updFab_clk : (s.updFab f).clk = s.clk := rfl
@[simp] theorem State.updFab_gov : (s.updFab f).gov = s.gov := rfl
@[simp] theorem State.updFab_therm : (s.updFab f).therm = s.therm := rfl
@[simp] theorem State.updFab_temps : (s.updFab f).temps = s.temps := rfl
@[simp] theorem State.updFab_thermtrip : (s.updFab f).thermtrip = s.thermtrip := rfl
@[simp] theorem State.updFab_brakeN : (s.updFab f).brakeN = s.brakeN := rfl
@[simp] theorem State.updFab_smbAddr : (s.updFab f).smbAddr = s.smbAddr := rfl
@[simp] theorem State.updFab_ages : (s.updFab f).ages = s.ages := rfl
@[simp] theorem State.updFab_sec : (s.updFab f).sec = s.sec := rfl
@[simp] theorem State.updFab_hist : (s.updFab f).hist = s.hist := rfl
@[simp] theorem State.updFab_evt : (s.updFab f).evt = s.evt := rfl
@[simp] theorem State.updFab_mgmt : (s.updFab f).mgmt = s.mgmt := rfl
@[simp] theorem State.updFab_out : (s.updFab f).out = s.out := rfl
@[simp] theorem State.updFab_retEng : (s.updFab f).retEng = s.retEng := rfl
@[simp] theorem State.updFab_badPairs : (s.updFab f).badPairs = s.badPairs := rfl
@[simp] theorem State.updFab_permPairs : (s.updFab f).permPairs = s.permPairs := rfl
@[simp] theorem State.updFab_retElt : (s.updFab f).retElt = s.retElt := rfl
@[simp] theorem State.updFab_retQnt : (s.updFab f).retQnt = s.retQnt := rfl
@[simp] theorem State.updFab_badLanes : (s.updFab f).badLanes = s.badLanes := rfl
@[simp] theorem State.updFab_selftestGen : (s.updFab f).selftestGen = s.selftestGen := rfl
@[simp] theorem State.updFab_queues : (s.updFab f).queues = s.queues := rfl
@[simp] theorem State.updFab_ctrs : (s.updFab f).ctrs = s.ctrs := rfl
@[simp] theorem State.updFab_ctrSnap : (s.updFab f).ctrSnap = s.ctrSnap := rfl
@[simp] theorem State.updFab_visits : (s.updFab f).visits = s.visits := rfl
@[simp] theorem State.updFab_flight : (s.updFab f).flight = s.flight := rfl
@[simp] theorem State.updFab_nextId : (s.updFab f).nextId = s.nextId := rfl
@[simp] theorem State.updFab_cals : (s.updFab f).cals = s.cals := rfl
@[simp] theorem State.updFab_txns : (s.updFab f).txns = s.txns := rfl
@[simp] theorem State.updFab_capTable : (s.updFab f).capTable = s.capTable := rfl
@[simp] theorem State.updFab_owner : (s.updFab f).owner = s.owner := rfl
@[simp] theorem State.updFab_ctxs : (s.updFab f).ctxs = s.ctxs := rfl
@[simp] theorem State.updFab_pages : (s.updFab f).pages = s.pages := rfl
@[simp] theorem State.updFab_nextFrame : (s.updFab f).nextFrame = s.nextFrame := rfl
@[simp] theorem State.updFab_nextFpage : (s.updFab f).nextFpage = s.nextFpage := rfl
@[simp] theorem State.updFab_images : (s.updFab f).images = s.images := rfl
@[simp] theorem State.updFab_ftl : (s.updFab f).ftl = s.ftl := rfl
@[simp] theorem State.updFab_engs : (s.updFab f).engs = s.engs := rfl
@[simp] theorem State.updFab_clus : (s.updFab f).clus = s.clus := rfl
@[simp] theorem State.updFab_scales : (s.updFab f).scales = s.scales := rfl
@[simp] theorem State.updFab_qnts : (s.updFab f).qnts = s.qnts := rfl
@[simp] theorem State.updFab_elts : (s.updFab f).elts = s.elts := rfl
@[simp] theorem State.updFab_ports : (s.updFab f).ports = s.ports := rfl
@[simp] theorem State.updFab_colls : (s.updFab f).colls = s.colls := rfl
@[simp] theorem State.updFab_early : (s.updFab f).early = s.early := rfl
@[simp] theorem State.updFab_vigil : (s.updFab f).vigil = s.vigil := rfl
@[simp] theorem State.updFab_lanFull : (s.updFab f).lanFull = s.lanFull := rfl
end

section
variable (c b : Nat) (f : CollS → CollS)
@[simp] theorem State.updColl_pending : (s.updColl c b f).pending = s.pending := rfl
@[simp] theorem State.updColl_tied : (s.updColl c b f).tied = s.tied := rfl
@[simp] theorem State.updColl_variant : (s.updColl c b f).variant = s.variant := rfl
@[simp] theorem State.updColl_freeCount : (s.updColl c b f).freeCount = s.freeCount := rfl
@[simp] theorem State.updColl_regs : (s.updColl c b f).regs = s.regs := rfl
@[simp] theorem State.updColl_mem : (s.updColl c b f).mem = s.mem := rfl
@[simp] theorem State.updColl_poison : (s.updColl c b f).poison = s.poison := rfl
@[simp] theorem State.updColl_accPois : (s.updColl c b f).accPois = s.accPois := rfl
@[simp] theorem State.updColl_boot : (s.updColl c b f).boot = s.boot := rfl
@[simp] theorem State.updColl_clk : (s.updColl c b f).clk = s.clk := rfl
@[simp] theorem State.updColl_gov : (s.updColl c b f).gov = s.gov := rfl
@[simp] theorem State.updColl_therm : (s.updColl c b f).therm = s.therm := rfl
@[simp] theorem State.updColl_temps : (s.updColl c b f).temps = s.temps := rfl
@[simp] theorem State.updColl_thermtrip : (s.updColl c b f).thermtrip = s.thermtrip := rfl
@[simp] theorem State.updColl_brakeN : (s.updColl c b f).brakeN = s.brakeN := rfl
@[simp] theorem State.updColl_smbAddr : (s.updColl c b f).smbAddr = s.smbAddr := rfl
@[simp] theorem State.updColl_ages : (s.updColl c b f).ages = s.ages := rfl
@[simp] theorem State.updColl_sec : (s.updColl c b f).sec = s.sec := rfl
@[simp] theorem State.updColl_hist : (s.updColl c b f).hist = s.hist := rfl
@[simp] theorem State.updColl_evt : (s.updColl c b f).evt = s.evt := rfl
@[simp] theorem State.updColl_mgmt : (s.updColl c b f).mgmt = s.mgmt := rfl
@[simp] theorem State.updColl_out : (s.updColl c b f).out = s.out := rfl
@[simp] theorem State.updColl_retEng : (s.updColl c b f).retEng = s.retEng := rfl
@[simp] theorem State.updColl_badPairs : (s.updColl c b f).badPairs = s.badPairs := rfl
@[simp] theorem State.updColl_permPairs : (s.updColl c b f).permPairs = s.permPairs := rfl
@[simp] theorem State.updColl_retElt : (s.updColl c b f).retElt = s.retElt := rfl
@[simp] theorem State.updColl_retQnt : (s.updColl c b f).retQnt = s.retQnt := rfl
@[simp] theorem State.updColl_badLanes : (s.updColl c b f).badLanes = s.badLanes := rfl
@[simp] theorem State.updColl_selftestGen : (s.updColl c b f).selftestGen = s.selftestGen := rfl
@[simp] theorem State.updColl_queues : (s.updColl c b f).queues = s.queues := rfl
@[simp] theorem State.updColl_ctrs : (s.updColl c b f).ctrs = s.ctrs := rfl
@[simp] theorem State.updColl_ctrSnap : (s.updColl c b f).ctrSnap = s.ctrSnap := rfl
@[simp] theorem State.updColl_visits : (s.updColl c b f).visits = s.visits := rfl
@[simp] theorem State.updColl_flight : (s.updColl c b f).flight = s.flight := rfl
@[simp] theorem State.updColl_nextId : (s.updColl c b f).nextId = s.nextId := rfl
@[simp] theorem State.updColl_cals : (s.updColl c b f).cals = s.cals := rfl
@[simp] theorem State.updColl_txns : (s.updColl c b f).txns = s.txns := rfl
@[simp] theorem State.updColl_capTable : (s.updColl c b f).capTable = s.capTable := rfl
@[simp] theorem State.updColl_owner : (s.updColl c b f).owner = s.owner := rfl
@[simp] theorem State.updColl_ctxs : (s.updColl c b f).ctxs = s.ctxs := rfl
@[simp] theorem State.updColl_pages : (s.updColl c b f).pages = s.pages := rfl
@[simp] theorem State.updColl_nextFrame : (s.updColl c b f).nextFrame = s.nextFrame := rfl
@[simp] theorem State.updColl_nextFpage : (s.updColl c b f).nextFpage = s.nextFpage := rfl
@[simp] theorem State.updColl_images : (s.updColl c b f).images = s.images := rfl
@[simp] theorem State.updColl_ftl : (s.updColl c b f).ftl = s.ftl := rfl
@[simp] theorem State.updColl_engs : (s.updColl c b f).engs = s.engs := rfl
@[simp] theorem State.updColl_clus : (s.updColl c b f).clus = s.clus := rfl
@[simp] theorem State.updColl_scales : (s.updColl c b f).scales = s.scales := rfl
@[simp] theorem State.updColl_qnts : (s.updColl c b f).qnts = s.qnts := rfl
@[simp] theorem State.updColl_elts : (s.updColl c b f).elts = s.elts := rfl
@[simp] theorem State.updColl_ports : (s.updColl c b f).ports = s.ports := rfl
@[simp] theorem State.updColl_fab : (s.updColl c b f).fab = s.fab := rfl
@[simp] theorem State.updColl_early : (s.updColl c b f).early = s.early := rfl
@[simp] theorem State.updColl_vigil : (s.updColl c b f).vigil = s.vigil := rfl
@[simp] theorem State.updColl_lanFull : (s.updColl c b f).lanFull = s.lanFull := rfl
end

section
variable (n : Nat) (f : Txn → Txn)
@[simp] theorem State.updTxn_pending : (s.updTxn n f).pending = s.pending := rfl
@[simp] theorem State.updTxn_tied : (s.updTxn n f).tied = s.tied := rfl
@[simp] theorem State.updTxn_variant : (s.updTxn n f).variant = s.variant := rfl
@[simp] theorem State.updTxn_freeCount : (s.updTxn n f).freeCount = s.freeCount := rfl
@[simp] theorem State.updTxn_regs : (s.updTxn n f).regs = s.regs := rfl
@[simp] theorem State.updTxn_mem : (s.updTxn n f).mem = s.mem := rfl
@[simp] theorem State.updTxn_poison : (s.updTxn n f).poison = s.poison := rfl
@[simp] theorem State.updTxn_accPois : (s.updTxn n f).accPois = s.accPois := rfl
@[simp] theorem State.updTxn_boot : (s.updTxn n f).boot = s.boot := rfl
@[simp] theorem State.updTxn_clk : (s.updTxn n f).clk = s.clk := rfl
@[simp] theorem State.updTxn_gov : (s.updTxn n f).gov = s.gov := rfl
@[simp] theorem State.updTxn_therm : (s.updTxn n f).therm = s.therm := rfl
@[simp] theorem State.updTxn_temps : (s.updTxn n f).temps = s.temps := rfl
@[simp] theorem State.updTxn_thermtrip : (s.updTxn n f).thermtrip = s.thermtrip := rfl
@[simp] theorem State.updTxn_brakeN : (s.updTxn n f).brakeN = s.brakeN := rfl
@[simp] theorem State.updTxn_smbAddr : (s.updTxn n f).smbAddr = s.smbAddr := rfl
@[simp] theorem State.updTxn_ages : (s.updTxn n f).ages = s.ages := rfl
@[simp] theorem State.updTxn_sec : (s.updTxn n f).sec = s.sec := rfl
@[simp] theorem State.updTxn_hist : (s.updTxn n f).hist = s.hist := rfl
@[simp] theorem State.updTxn_evt : (s.updTxn n f).evt = s.evt := rfl
@[simp] theorem State.updTxn_mgmt : (s.updTxn n f).mgmt = s.mgmt := rfl
@[simp] theorem State.updTxn_out : (s.updTxn n f).out = s.out := rfl
@[simp] theorem State.updTxn_retEng : (s.updTxn n f).retEng = s.retEng := rfl
@[simp] theorem State.updTxn_badPairs : (s.updTxn n f).badPairs = s.badPairs := rfl
@[simp] theorem State.updTxn_permPairs : (s.updTxn n f).permPairs = s.permPairs := rfl
@[simp] theorem State.updTxn_retElt : (s.updTxn n f).retElt = s.retElt := rfl
@[simp] theorem State.updTxn_retQnt : (s.updTxn n f).retQnt = s.retQnt := rfl
@[simp] theorem State.updTxn_badLanes : (s.updTxn n f).badLanes = s.badLanes := rfl
@[simp] theorem State.updTxn_selftestGen : (s.updTxn n f).selftestGen = s.selftestGen := rfl
@[simp] theorem State.updTxn_queues : (s.updTxn n f).queues = s.queues := rfl
@[simp] theorem State.updTxn_ctrs : (s.updTxn n f).ctrs = s.ctrs := rfl
@[simp] theorem State.updTxn_ctrSnap : (s.updTxn n f).ctrSnap = s.ctrSnap := rfl
@[simp] theorem State.updTxn_visits : (s.updTxn n f).visits = s.visits := rfl
@[simp] theorem State.updTxn_flight : (s.updTxn n f).flight = s.flight := rfl
@[simp] theorem State.updTxn_nextId : (s.updTxn n f).nextId = s.nextId := rfl
@[simp] theorem State.updTxn_cals : (s.updTxn n f).cals = s.cals := rfl
@[simp] theorem State.updTxn_capTable : (s.updTxn n f).capTable = s.capTable := rfl
@[simp] theorem State.updTxn_owner : (s.updTxn n f).owner = s.owner := rfl
@[simp] theorem State.updTxn_ctxs : (s.updTxn n f).ctxs = s.ctxs := rfl
@[simp] theorem State.updTxn_pages : (s.updTxn n f).pages = s.pages := rfl
@[simp] theorem State.updTxn_nextFrame : (s.updTxn n f).nextFrame = s.nextFrame := rfl
@[simp] theorem State.updTxn_nextFpage : (s.updTxn n f).nextFpage = s.nextFpage := rfl
@[simp] theorem State.updTxn_images : (s.updTxn n f).images = s.images := rfl
@[simp] theorem State.updTxn_ftl : (s.updTxn n f).ftl = s.ftl := rfl
@[simp] theorem State.updTxn_engs : (s.updTxn n f).engs = s.engs := rfl
@[simp] theorem State.updTxn_clus : (s.updTxn n f).clus = s.clus := rfl
@[simp] theorem State.updTxn_scales : (s.updTxn n f).scales = s.scales := rfl
@[simp] theorem State.updTxn_qnts : (s.updTxn n f).qnts = s.qnts := rfl
@[simp] theorem State.updTxn_elts : (s.updTxn n f).elts = s.elts := rfl
@[simp] theorem State.updTxn_ports : (s.updTxn n f).ports = s.ports := rfl
@[simp] theorem State.updTxn_fab : (s.updTxn n f).fab = s.fab := rfl
@[simp] theorem State.updTxn_colls : (s.updTxn n f).colls = s.colls := rfl
@[simp] theorem State.updTxn_early : (s.updTxn n f).early = s.early := rfl
@[simp] theorem State.updTxn_vigil : (s.updTxn n f).vigil = s.vigil := rfl
@[simp] theorem State.updTxn_lanFull : (s.updTxn n f).lanFull = s.lanFull := rfl
end

section
variable (n : Nat)
@[simp] theorem State.dropTxn_pending : (s.dropTxn n).pending = s.pending := rfl
@[simp] theorem State.dropTxn_tied : (s.dropTxn n).tied = s.tied := rfl
@[simp] theorem State.dropTxn_variant : (s.dropTxn n).variant = s.variant := rfl
@[simp] theorem State.dropTxn_freeCount : (s.dropTxn n).freeCount = s.freeCount := rfl
@[simp] theorem State.dropTxn_regs : (s.dropTxn n).regs = s.regs := rfl
@[simp] theorem State.dropTxn_mem : (s.dropTxn n).mem = s.mem := rfl
@[simp] theorem State.dropTxn_poison : (s.dropTxn n).poison = s.poison := rfl
@[simp] theorem State.dropTxn_accPois : (s.dropTxn n).accPois = s.accPois := rfl
@[simp] theorem State.dropTxn_boot : (s.dropTxn n).boot = s.boot := rfl
@[simp] theorem State.dropTxn_clk : (s.dropTxn n).clk = s.clk := rfl
@[simp] theorem State.dropTxn_gov : (s.dropTxn n).gov = s.gov := rfl
@[simp] theorem State.dropTxn_therm : (s.dropTxn n).therm = s.therm := rfl
@[simp] theorem State.dropTxn_temps : (s.dropTxn n).temps = s.temps := rfl
@[simp] theorem State.dropTxn_thermtrip : (s.dropTxn n).thermtrip = s.thermtrip := rfl
@[simp] theorem State.dropTxn_brakeN : (s.dropTxn n).brakeN = s.brakeN := rfl
@[simp] theorem State.dropTxn_smbAddr : (s.dropTxn n).smbAddr = s.smbAddr := rfl
@[simp] theorem State.dropTxn_ages : (s.dropTxn n).ages = s.ages := rfl
@[simp] theorem State.dropTxn_sec : (s.dropTxn n).sec = s.sec := rfl
@[simp] theorem State.dropTxn_hist : (s.dropTxn n).hist = s.hist := rfl
@[simp] theorem State.dropTxn_evt : (s.dropTxn n).evt = s.evt := rfl
@[simp] theorem State.dropTxn_mgmt : (s.dropTxn n).mgmt = s.mgmt := rfl
@[simp] theorem State.dropTxn_out : (s.dropTxn n).out = s.out := rfl
@[simp] theorem State.dropTxn_retEng : (s.dropTxn n).retEng = s.retEng := rfl
@[simp] theorem State.dropTxn_badPairs : (s.dropTxn n).badPairs = s.badPairs := rfl
@[simp] theorem State.dropTxn_permPairs : (s.dropTxn n).permPairs = s.permPairs := rfl
@[simp] theorem State.dropTxn_retElt : (s.dropTxn n).retElt = s.retElt := rfl
@[simp] theorem State.dropTxn_retQnt : (s.dropTxn n).retQnt = s.retQnt := rfl
@[simp] theorem State.dropTxn_badLanes : (s.dropTxn n).badLanes = s.badLanes := rfl
@[simp] theorem State.dropTxn_selftestGen : (s.dropTxn n).selftestGen = s.selftestGen := rfl
@[simp] theorem State.dropTxn_queues : (s.dropTxn n).queues = s.queues := rfl
@[simp] theorem State.dropTxn_ctrs : (s.dropTxn n).ctrs = s.ctrs := rfl
@[simp] theorem State.dropTxn_ctrSnap : (s.dropTxn n).ctrSnap = s.ctrSnap := rfl
@[simp] theorem State.dropTxn_visits : (s.dropTxn n).visits = s.visits := rfl
@[simp] theorem State.dropTxn_flight : (s.dropTxn n).flight = s.flight := rfl
@[simp] theorem State.dropTxn_nextId : (s.dropTxn n).nextId = s.nextId := rfl
@[simp] theorem State.dropTxn_cals : (s.dropTxn n).cals = s.cals := rfl
@[simp] theorem State.dropTxn_capTable : (s.dropTxn n).capTable = s.capTable := rfl
@[simp] theorem State.dropTxn_owner : (s.dropTxn n).owner = s.owner := rfl
@[simp] theorem State.dropTxn_ctxs : (s.dropTxn n).ctxs = s.ctxs := rfl
@[simp] theorem State.dropTxn_pages : (s.dropTxn n).pages = s.pages := rfl
@[simp] theorem State.dropTxn_nextFrame : (s.dropTxn n).nextFrame = s.nextFrame := rfl
@[simp] theorem State.dropTxn_nextFpage : (s.dropTxn n).nextFpage = s.nextFpage := rfl
@[simp] theorem State.dropTxn_images : (s.dropTxn n).images = s.images := rfl
@[simp] theorem State.dropTxn_ftl : (s.dropTxn n).ftl = s.ftl := rfl
@[simp] theorem State.dropTxn_engs : (s.dropTxn n).engs = s.engs := rfl
@[simp] theorem State.dropTxn_clus : (s.dropTxn n).clus = s.clus := rfl
@[simp] theorem State.dropTxn_scales : (s.dropTxn n).scales = s.scales := rfl
@[simp] theorem State.dropTxn_qnts : (s.dropTxn n).qnts = s.qnts := rfl
@[simp] theorem State.dropTxn_elts : (s.dropTxn n).elts = s.elts := rfl
@[simp] theorem State.dropTxn_ports : (s.dropTxn n).ports = s.ports := rfl
@[simp] theorem State.dropTxn_fab : (s.dropTxn n).fab = s.fab := rfl
@[simp] theorem State.dropTxn_colls : (s.dropTxn n).colls = s.colls := rfl
@[simp] theorem State.dropTxn_early : (s.dropTxn n).early = s.early := rfl
@[simp] theorem State.dropTxn_vigil : (s.dropTxn n).vigil = s.vigil := rfl
@[simp] theorem State.dropTxn_lanFull : (s.dropTxn n).lanFull = s.lanFull := rfl
end

section
variable (q : Nat) (x : VigilQ)
@[simp] theorem State.setVigil_pending : (s.setVigil q x).pending = s.pending := rfl
@[simp] theorem State.setVigil_tied : (s.setVigil q x).tied = s.tied := rfl
@[simp] theorem State.setVigil_variant : (s.setVigil q x).variant = s.variant := rfl
@[simp] theorem State.setVigil_freeCount : (s.setVigil q x).freeCount = s.freeCount := rfl
@[simp] theorem State.setVigil_regs : (s.setVigil q x).regs = s.regs := rfl
@[simp] theorem State.setVigil_mem : (s.setVigil q x).mem = s.mem := rfl
@[simp] theorem State.setVigil_poison : (s.setVigil q x).poison = s.poison := rfl
@[simp] theorem State.setVigil_accPois : (s.setVigil q x).accPois = s.accPois := rfl
@[simp] theorem State.setVigil_boot : (s.setVigil q x).boot = s.boot := rfl
@[simp] theorem State.setVigil_clk : (s.setVigil q x).clk = s.clk := rfl
@[simp] theorem State.setVigil_gov : (s.setVigil q x).gov = s.gov := rfl
@[simp] theorem State.setVigil_therm : (s.setVigil q x).therm = s.therm := rfl
@[simp] theorem State.setVigil_temps : (s.setVigil q x).temps = s.temps := rfl
@[simp] theorem State.setVigil_thermtrip : (s.setVigil q x).thermtrip = s.thermtrip := rfl
@[simp] theorem State.setVigil_brakeN : (s.setVigil q x).brakeN = s.brakeN := rfl
@[simp] theorem State.setVigil_smbAddr : (s.setVigil q x).smbAddr = s.smbAddr := rfl
@[simp] theorem State.setVigil_ages : (s.setVigil q x).ages = s.ages := rfl
@[simp] theorem State.setVigil_sec : (s.setVigil q x).sec = s.sec := rfl
@[simp] theorem State.setVigil_hist : (s.setVigil q x).hist = s.hist := rfl
@[simp] theorem State.setVigil_evt : (s.setVigil q x).evt = s.evt := rfl
@[simp] theorem State.setVigil_mgmt : (s.setVigil q x).mgmt = s.mgmt := rfl
@[simp] theorem State.setVigil_out : (s.setVigil q x).out = s.out := rfl
@[simp] theorem State.setVigil_retEng : (s.setVigil q x).retEng = s.retEng := rfl
@[simp] theorem State.setVigil_badPairs : (s.setVigil q x).badPairs = s.badPairs := rfl
@[simp] theorem State.setVigil_permPairs : (s.setVigil q x).permPairs = s.permPairs := rfl
@[simp] theorem State.setVigil_retElt : (s.setVigil q x).retElt = s.retElt := rfl
@[simp] theorem State.setVigil_retQnt : (s.setVigil q x).retQnt = s.retQnt := rfl
@[simp] theorem State.setVigil_badLanes : (s.setVigil q x).badLanes = s.badLanes := rfl
@[simp] theorem State.setVigil_selftestGen : (s.setVigil q x).selftestGen = s.selftestGen := rfl
@[simp] theorem State.setVigil_queues : (s.setVigil q x).queues = s.queues := rfl
@[simp] theorem State.setVigil_ctrs : (s.setVigil q x).ctrs = s.ctrs := rfl
@[simp] theorem State.setVigil_ctrSnap : (s.setVigil q x).ctrSnap = s.ctrSnap := rfl
@[simp] theorem State.setVigil_visits : (s.setVigil q x).visits = s.visits := rfl
@[simp] theorem State.setVigil_flight : (s.setVigil q x).flight = s.flight := rfl
@[simp] theorem State.setVigil_nextId : (s.setVigil q x).nextId = s.nextId := rfl
@[simp] theorem State.setVigil_cals : (s.setVigil q x).cals = s.cals := rfl
@[simp] theorem State.setVigil_txns : (s.setVigil q x).txns = s.txns := rfl
@[simp] theorem State.setVigil_capTable : (s.setVigil q x).capTable = s.capTable := rfl
@[simp] theorem State.setVigil_owner : (s.setVigil q x).owner = s.owner := rfl
@[simp] theorem State.setVigil_ctxs : (s.setVigil q x).ctxs = s.ctxs := rfl
@[simp] theorem State.setVigil_pages : (s.setVigil q x).pages = s.pages := rfl
@[simp] theorem State.setVigil_nextFrame : (s.setVigil q x).nextFrame = s.nextFrame := rfl
@[simp] theorem State.setVigil_nextFpage : (s.setVigil q x).nextFpage = s.nextFpage := rfl
@[simp] theorem State.setVigil_images : (s.setVigil q x).images = s.images := rfl
@[simp] theorem State.setVigil_ftl : (s.setVigil q x).ftl = s.ftl := rfl
@[simp] theorem State.setVigil_engs : (s.setVigil q x).engs = s.engs := rfl
@[simp] theorem State.setVigil_clus : (s.setVigil q x).clus = s.clus := rfl
@[simp] theorem State.setVigil_scales : (s.setVigil q x).scales = s.scales := rfl
@[simp] theorem State.setVigil_qnts : (s.setVigil q x).qnts = s.qnts := rfl
@[simp] theorem State.setVigil_elts : (s.setVigil q x).elts = s.elts := rfl
@[simp] theorem State.setVigil_ports : (s.setVigil q x).ports = s.ports := rfl
@[simp] theorem State.setVigil_fab : (s.setVigil q x).fab = s.fab := rfl
@[simp] theorem State.setVigil_colls : (s.setVigil q x).colls = s.colls := rfl
@[simp] theorem State.setVigil_early : (s.setVigil q x).early = s.early := rfl
@[simp] theorem State.setVigil_lanFull : (s.setVigil q x).lanFull = s.lanFull := rfl
end

section
variable (a : Nat) (bs : List Byte) (p : Bool)
@[simp] theorem State.wr_pending : (s.wr a bs p).pending = s.pending := rfl
@[simp] theorem State.wr_tied : (s.wr a bs p).tied = s.tied := rfl
@[simp] theorem State.wr_variant : (s.wr a bs p).variant = s.variant := rfl
@[simp] theorem State.wr_regs : (s.wr a bs p).regs = s.regs := rfl
@[simp] theorem State.wr_boot : (s.wr a bs p).boot = s.boot := rfl
@[simp] theorem State.wr_clk : (s.wr a bs p).clk = s.clk := rfl
@[simp] theorem State.wr_gov : (s.wr a bs p).gov = s.gov := rfl
@[simp] theorem State.wr_therm : (s.wr a bs p).therm = s.therm := rfl
@[simp] theorem State.wr_temps : (s.wr a bs p).temps = s.temps := rfl
@[simp] theorem State.wr_thermtrip : (s.wr a bs p).thermtrip = s.thermtrip := rfl
@[simp] theorem State.wr_brakeN : (s.wr a bs p).brakeN = s.brakeN := rfl
@[simp] theorem State.wr_smbAddr : (s.wr a bs p).smbAddr = s.smbAddr := rfl
@[simp] theorem State.wr_ages : (s.wr a bs p).ages = s.ages := rfl
@[simp] theorem State.wr_sec : (s.wr a bs p).sec = s.sec := rfl
@[simp] theorem State.wr_hist : (s.wr a bs p).hist = s.hist := rfl
@[simp] theorem State.wr_evt : (s.wr a bs p).evt = s.evt := rfl
@[simp] theorem State.wr_mgmt : (s.wr a bs p).mgmt = s.mgmt := rfl
@[simp] theorem State.wr_out : (s.wr a bs p).out = s.out := rfl
@[simp] theorem State.wr_retEng : (s.wr a bs p).retEng = s.retEng := rfl
@[simp] theorem State.wr_badPairs : (s.wr a bs p).badPairs = s.badPairs := rfl
@[simp] theorem State.wr_permPairs : (s.wr a bs p).permPairs = s.permPairs := rfl
@[simp] theorem State.wr_retElt : (s.wr a bs p).retElt = s.retElt := rfl
@[simp] theorem State.wr_retQnt : (s.wr a bs p).retQnt = s.retQnt := rfl
@[simp] theorem State.wr_badLanes : (s.wr a bs p).badLanes = s.badLanes := rfl
@[simp] theorem State.wr_selftestGen : (s.wr a bs p).selftestGen = s.selftestGen := rfl
@[simp] theorem State.wr_queues : (s.wr a bs p).queues = s.queues := rfl
@[simp] theorem State.wr_ctrs : (s.wr a bs p).ctrs = s.ctrs := rfl
@[simp] theorem State.wr_ctrSnap : (s.wr a bs p).ctrSnap = s.ctrSnap := rfl
@[simp] theorem State.wr_visits : (s.wr a bs p).visits = s.visits := rfl
@[simp] theorem State.wr_flight : (s.wr a bs p).flight = s.flight := rfl
@[simp] theorem State.wr_nextId : (s.wr a bs p).nextId = s.nextId := rfl
@[simp] theorem State.wr_cals : (s.wr a bs p).cals = s.cals := rfl
@[simp] theorem State.wr_txns : (s.wr a bs p).txns = s.txns := rfl
@[simp] theorem State.wr_capTable : (s.wr a bs p).capTable = s.capTable := rfl
@[simp] theorem State.wr_owner : (s.wr a bs p).owner = s.owner := rfl
@[simp] theorem State.wr_ctxs : (s.wr a bs p).ctxs = s.ctxs := rfl
@[simp] theorem State.wr_pages : (s.wr a bs p).pages = s.pages := rfl
@[simp] theorem State.wr_nextFrame : (s.wr a bs p).nextFrame = s.nextFrame := rfl
@[simp] theorem State.wr_nextFpage : (s.wr a bs p).nextFpage = s.nextFpage := rfl
@[simp] theorem State.wr_images : (s.wr a bs p).images = s.images := rfl
@[simp] theorem State.wr_ftl : (s.wr a bs p).ftl = s.ftl := rfl
@[simp] theorem State.wr_engs : (s.wr a bs p).engs = s.engs := rfl
@[simp] theorem State.wr_clus : (s.wr a bs p).clus = s.clus := rfl
@[simp] theorem State.wr_scales : (s.wr a bs p).scales = s.scales := rfl
@[simp] theorem State.wr_qnts : (s.wr a bs p).qnts = s.qnts := rfl
@[simp] theorem State.wr_elts : (s.wr a bs p).elts = s.elts := rfl
@[simp] theorem State.wr_ports : (s.wr a bs p).ports = s.ports := rfl
@[simp] theorem State.wr_fab : (s.wr a bs p).fab = s.fab := rfl
@[simp] theorem State.wr_colls : (s.wr a bs p).colls = s.colls := rfl
@[simp] theorem State.wr_early : (s.wr a bs p).early = s.early := rfl
@[simp] theorem State.wr_vigil : (s.wr a bs p).vigil = s.vigil := rfl
@[simp] theorem State.wr_lanFull : (s.wr a bs p).lanFull = s.lanFull := rfl
end

section
variable (a n : Nat)
@[simp] theorem State.zero_pending : (s.zero a n).pending = s.pending := rfl
@[simp] theorem State.zero_tied : (s.zero a n).tied = s.tied := rfl
@[simp] theorem State.zero_variant : (s.zero a n).variant = s.variant := rfl
@[simp] theorem State.zero_freeCount : (s.zero a n).freeCount = s.freeCount := rfl
@[simp] theorem State.zero_regs : (s.zero a n).regs = s.regs := rfl
@[simp] theorem State.zero_boot : (s.zero a n).boot = s.boot := rfl
@[simp] theorem State.zero_clk : (s.zero a n).clk = s.clk := rfl
@[simp] theorem State.zero_gov : (s.zero a n).gov = s.gov := rfl
@[simp] theorem State.zero_therm : (s.zero a n).therm = s.therm := rfl
@[simp] theorem State.zero_temps : (s.zero a n).temps = s.temps := rfl
@[simp] theorem State.zero_thermtrip : (s.zero a n).thermtrip = s.thermtrip := rfl
@[simp] theorem State.zero_brakeN : (s.zero a n).brakeN = s.brakeN := rfl
@[simp] theorem State.zero_smbAddr : (s.zero a n).smbAddr = s.smbAddr := rfl
@[simp] theorem State.zero_ages : (s.zero a n).ages = s.ages := rfl
@[simp] theorem State.zero_sec : (s.zero a n).sec = s.sec := rfl
@[simp] theorem State.zero_hist : (s.zero a n).hist = s.hist := rfl
@[simp] theorem State.zero_evt : (s.zero a n).evt = s.evt := rfl
@[simp] theorem State.zero_mgmt : (s.zero a n).mgmt = s.mgmt := rfl
@[simp] theorem State.zero_out : (s.zero a n).out = s.out := rfl
@[simp] theorem State.zero_retEng : (s.zero a n).retEng = s.retEng := rfl
@[simp] theorem State.zero_badPairs : (s.zero a n).badPairs = s.badPairs := rfl
@[simp] theorem State.zero_permPairs : (s.zero a n).permPairs = s.permPairs := rfl
@[simp] theorem State.zero_retElt : (s.zero a n).retElt = s.retElt := rfl
@[simp] theorem State.zero_retQnt : (s.zero a n).retQnt = s.retQnt := rfl
@[simp] theorem State.zero_badLanes : (s.zero a n).badLanes = s.badLanes := rfl
@[simp] theorem State.zero_selftestGen : (s.zero a n).selftestGen = s.selftestGen := rfl
@[simp] theorem State.zero_queues : (s.zero a n).queues = s.queues := rfl
@[simp] theorem State.zero_ctrs : (s.zero a n).ctrs = s.ctrs := rfl
@[simp] theorem State.zero_ctrSnap : (s.zero a n).ctrSnap = s.ctrSnap := rfl
@[simp] theorem State.zero_visits : (s.zero a n).visits = s.visits := rfl
@[simp] theorem State.zero_flight : (s.zero a n).flight = s.flight := rfl
@[simp] theorem State.zero_nextId : (s.zero a n).nextId = s.nextId := rfl
@[simp] theorem State.zero_cals : (s.zero a n).cals = s.cals := rfl
@[simp] theorem State.zero_txns : (s.zero a n).txns = s.txns := rfl
@[simp] theorem State.zero_capTable : (s.zero a n).capTable = s.capTable := rfl
@[simp] theorem State.zero_owner : (s.zero a n).owner = s.owner := rfl
@[simp] theorem State.zero_ctxs : (s.zero a n).ctxs = s.ctxs := rfl
@[simp] theorem State.zero_pages : (s.zero a n).pages = s.pages := rfl
@[simp] theorem State.zero_nextFrame : (s.zero a n).nextFrame = s.nextFrame := rfl
@[simp] theorem State.zero_nextFpage : (s.zero a n).nextFpage = s.nextFpage := rfl
@[simp] theorem State.zero_images : (s.zero a n).images = s.images := rfl
@[simp] theorem State.zero_ftl : (s.zero a n).ftl = s.ftl := rfl
@[simp] theorem State.zero_engs : (s.zero a n).engs = s.engs := rfl
@[simp] theorem State.zero_clus : (s.zero a n).clus = s.clus := rfl
@[simp] theorem State.zero_scales : (s.zero a n).scales = s.scales := rfl
@[simp] theorem State.zero_qnts : (s.zero a n).qnts = s.qnts := rfl
@[simp] theorem State.zero_elts : (s.zero a n).elts = s.elts := rfl
@[simp] theorem State.zero_ports : (s.zero a n).ports = s.ports := rfl
@[simp] theorem State.zero_fab : (s.zero a n).fab = s.fab := rfl
@[simp] theorem State.zero_colls : (s.zero a n).colls = s.colls := rfl
@[simp] theorem State.zero_early : (s.zero a n).early = s.early := rfl
@[simp] theorem State.zero_vigil : (s.zero a n).vigil = s.vigil := rfl
@[simp] theorem State.zero_lanFull : (s.zero a n).lanFull = s.lanFull := rfl
end

section
variable (a b n : Nat)
@[simp] theorem State.copyMem_pending : (s.copyMem a b n).pending = s.pending := rfl
@[simp] theorem State.copyMem_tied : (s.copyMem a b n).tied = s.tied := rfl
@[simp] theorem State.copyMem_variant : (s.copyMem a b n).variant = s.variant := rfl
@[simp] theorem State.copyMem_freeCount : (s.copyMem a b n).freeCount = s.freeCount := rfl
@[simp] theorem State.copyMem_regs : (s.copyMem a b n).regs = s.regs := rfl
@[simp] theorem State.copyMem_boot : (s.copyMem a b n).boot = s.boot := rfl
@[simp] theorem State.copyMem_clk : (s.copyMem a b n).clk = s.clk := rfl
@[simp] theorem State.copyMem_gov : (s.copyMem a b n).gov = s.gov := rfl
@[simp] theorem State.copyMem_therm : (s.copyMem a b n).therm = s.therm := rfl
@[simp] theorem State.copyMem_temps : (s.copyMem a b n).temps = s.temps := rfl
@[simp] theorem State.copyMem_thermtrip : (s.copyMem a b n).thermtrip = s.thermtrip := rfl
@[simp] theorem State.copyMem_brakeN : (s.copyMem a b n).brakeN = s.brakeN := rfl
@[simp] theorem State.copyMem_smbAddr : (s.copyMem a b n).smbAddr = s.smbAddr := rfl
@[simp] theorem State.copyMem_ages : (s.copyMem a b n).ages = s.ages := rfl
@[simp] theorem State.copyMem_sec : (s.copyMem a b n).sec = s.sec := rfl
@[simp] theorem State.copyMem_hist : (s.copyMem a b n).hist = s.hist := rfl
@[simp] theorem State.copyMem_evt : (s.copyMem a b n).evt = s.evt := rfl
@[simp] theorem State.copyMem_mgmt : (s.copyMem a b n).mgmt = s.mgmt := rfl
@[simp] theorem State.copyMem_out : (s.copyMem a b n).out = s.out := rfl
@[simp] theorem State.copyMem_retEng : (s.copyMem a b n).retEng = s.retEng := rfl
@[simp] theorem State.copyMem_badPairs : (s.copyMem a b n).badPairs = s.badPairs := rfl
@[simp] theorem State.copyMem_permPairs : (s.copyMem a b n).permPairs = s.permPairs := rfl
@[simp] theorem State.copyMem_retElt : (s.copyMem a b n).retElt = s.retElt := rfl
@[simp] theorem State.copyMem_retQnt : (s.copyMem a b n).retQnt = s.retQnt := rfl
@[simp] theorem State.copyMem_badLanes : (s.copyMem a b n).badLanes = s.badLanes := rfl
@[simp] theorem State.copyMem_selftestGen : (s.copyMem a b n).selftestGen = s.selftestGen := rfl
@[simp] theorem State.copyMem_queues : (s.copyMem a b n).queues = s.queues := rfl
@[simp] theorem State.copyMem_ctrs : (s.copyMem a b n).ctrs = s.ctrs := rfl
@[simp] theorem State.copyMem_ctrSnap : (s.copyMem a b n).ctrSnap = s.ctrSnap := rfl
@[simp] theorem State.copyMem_visits : (s.copyMem a b n).visits = s.visits := rfl
@[simp] theorem State.copyMem_flight : (s.copyMem a b n).flight = s.flight := rfl
@[simp] theorem State.copyMem_nextId : (s.copyMem a b n).nextId = s.nextId := rfl
@[simp] theorem State.copyMem_cals : (s.copyMem a b n).cals = s.cals := rfl
@[simp] theorem State.copyMem_txns : (s.copyMem a b n).txns = s.txns := rfl
@[simp] theorem State.copyMem_capTable : (s.copyMem a b n).capTable = s.capTable := rfl
@[simp] theorem State.copyMem_owner : (s.copyMem a b n).owner = s.owner := rfl
@[simp] theorem State.copyMem_ctxs : (s.copyMem a b n).ctxs = s.ctxs := rfl
@[simp] theorem State.copyMem_pages : (s.copyMem a b n).pages = s.pages := rfl
@[simp] theorem State.copyMem_nextFrame : (s.copyMem a b n).nextFrame = s.nextFrame := rfl
@[simp] theorem State.copyMem_nextFpage : (s.copyMem a b n).nextFpage = s.nextFpage := rfl
@[simp] theorem State.copyMem_images : (s.copyMem a b n).images = s.images := rfl
@[simp] theorem State.copyMem_ftl : (s.copyMem a b n).ftl = s.ftl := rfl
@[simp] theorem State.copyMem_engs : (s.copyMem a b n).engs = s.engs := rfl
@[simp] theorem State.copyMem_clus : (s.copyMem a b n).clus = s.clus := rfl
@[simp] theorem State.copyMem_scales : (s.copyMem a b n).scales = s.scales := rfl
@[simp] theorem State.copyMem_qnts : (s.copyMem a b n).qnts = s.qnts := rfl
@[simp] theorem State.copyMem_elts : (s.copyMem a b n).elts = s.elts := rfl
@[simp] theorem State.copyMem_ports : (s.copyMem a b n).ports = s.ports := rfl
@[simp] theorem State.copyMem_fab : (s.copyMem a b n).fab = s.fab := rfl
@[simp] theorem State.copyMem_colls : (s.copyMem a b n).colls = s.colls := rfl
@[simp] theorem State.copyMem_early : (s.copyMem a b n).early = s.early := rfl
@[simp] theorem State.copyMem_vigil : (s.copyMem a b n).vigil = s.vigil := rfl
@[simp] theorem State.copyMem_lanFull : (s.copyMem a b n).lanFull = s.lanFull := rfl
end

section
variable (v : Nat)
@[simp] theorem State.msix_pending : (s.msix v).pending = s.pending := rfl
@[simp] theorem State.msix_tied : (s.msix v).tied = s.tied := rfl
@[simp] theorem State.msix_variant : (s.msix v).variant = s.variant := rfl
@[simp] theorem State.msix_freeCount : (s.msix v).freeCount = s.freeCount := rfl
@[simp] theorem State.msix_regs : (s.msix v).regs = s.regs := rfl
@[simp] theorem State.msix_mem : (s.msix v).mem = s.mem := rfl
@[simp] theorem State.msix_poison : (s.msix v).poison = s.poison := rfl
@[simp] theorem State.msix_accPois : (s.msix v).accPois = s.accPois := rfl
@[simp] theorem State.msix_boot : (s.msix v).boot = s.boot := rfl
@[simp] theorem State.msix_clk : (s.msix v).clk = s.clk := rfl
@[simp] theorem State.msix_gov : (s.msix v).gov = s.gov := rfl
@[simp] theorem State.msix_therm : (s.msix v).therm = s.therm := rfl
@[simp] theorem State.msix_temps : (s.msix v).temps = s.temps := rfl
@[simp] theorem State.msix_thermtrip : (s.msix v).thermtrip = s.thermtrip := rfl
@[simp] theorem State.msix_brakeN : (s.msix v).brakeN = s.brakeN := rfl
@[simp] theorem State.msix_smbAddr : (s.msix v).smbAddr = s.smbAddr := rfl
@[simp] theorem State.msix_ages : (s.msix v).ages = s.ages := rfl
@[simp] theorem State.msix_sec : (s.msix v).sec = s.sec := rfl
@[simp] theorem State.msix_hist : (s.msix v).hist = s.hist := rfl
@[simp] theorem State.msix_evt : (s.msix v).evt = s.evt := rfl
@[simp] theorem State.msix_mgmt : (s.msix v).mgmt = s.mgmt := rfl
@[simp] theorem State.msix_retEng : (s.msix v).retEng = s.retEng := rfl
@[simp] theorem State.msix_badPairs : (s.msix v).badPairs = s.badPairs := rfl
@[simp] theorem State.msix_permPairs : (s.msix v).permPairs = s.permPairs := rfl
@[simp] theorem State.msix_retElt : (s.msix v).retElt = s.retElt := rfl
@[simp] theorem State.msix_retQnt : (s.msix v).retQnt = s.retQnt := rfl
@[simp] theorem State.msix_badLanes : (s.msix v).badLanes = s.badLanes := rfl
@[simp] theorem State.msix_selftestGen : (s.msix v).selftestGen = s.selftestGen := rfl
@[simp] theorem State.msix_queues : (s.msix v).queues = s.queues := rfl
@[simp] theorem State.msix_ctrs : (s.msix v).ctrs = s.ctrs := rfl
@[simp] theorem State.msix_ctrSnap : (s.msix v).ctrSnap = s.ctrSnap := rfl
@[simp] theorem State.msix_visits : (s.msix v).visits = s.visits := rfl
@[simp] theorem State.msix_flight : (s.msix v).flight = s.flight := rfl
@[simp] theorem State.msix_nextId : (s.msix v).nextId = s.nextId := rfl
@[simp] theorem State.msix_cals : (s.msix v).cals = s.cals := rfl
@[simp] theorem State.msix_txns : (s.msix v).txns = s.txns := rfl
@[simp] theorem State.msix_capTable : (s.msix v).capTable = s.capTable := rfl
@[simp] theorem State.msix_owner : (s.msix v).owner = s.owner := rfl
@[simp] theorem State.msix_ctxs : (s.msix v).ctxs = s.ctxs := rfl
@[simp] theorem State.msix_pages : (s.msix v).pages = s.pages := rfl
@[simp] theorem State.msix_nextFrame : (s.msix v).nextFrame = s.nextFrame := rfl
@[simp] theorem State.msix_nextFpage : (s.msix v).nextFpage = s.nextFpage := rfl
@[simp] theorem State.msix_images : (s.msix v).images = s.images := rfl
@[simp] theorem State.msix_ftl : (s.msix v).ftl = s.ftl := rfl
@[simp] theorem State.msix_engs : (s.msix v).engs = s.engs := rfl
@[simp] theorem State.msix_clus : (s.msix v).clus = s.clus := rfl
@[simp] theorem State.msix_scales : (s.msix v).scales = s.scales := rfl
@[simp] theorem State.msix_qnts : (s.msix v).qnts = s.qnts := rfl
@[simp] theorem State.msix_elts : (s.msix v).elts = s.elts := rfl
@[simp] theorem State.msix_ports : (s.msix v).ports = s.ports := rfl
@[simp] theorem State.msix_fab : (s.msix v).fab = s.fab := rfl
@[simp] theorem State.msix_colls : (s.msix v).colls = s.colls := rfl
@[simp] theorem State.msix_early : (s.msix v).early = s.early := rfl
@[simp] theorem State.msix_vigil : (s.msix v).vigil = s.vigil := rfl
@[simp] theorem State.msix_lanFull : (s.msix v).lanFull = s.lanFull := rfl
end

/-! ### Readers that an update leaves alone -/

@[simp] theorem State.setReg_ctx_same (r : Reg) (i : Nat) (v : W64) (c0 : Nat) : (s.setReg r i v).ctx c0 = s.ctx c0 := rfl
@[simp] theorem State.setReg_queue_same (r : Reg) (i : Nat) (v : W64) (q0 : Nat) : (s.setReg r i v).queue q0 = s.queue q0 := rfl
@[simp] theorem State.setReg_ctr_same (r : Reg) (i : Nat) (v : W64) (c0 i0 : Nat) : (s.setReg r i v).ctr c0 i0 = s.ctr c0 i0 := rfl
@[simp] theorem State.setReg_page_same (r : Reg) (i : Nat) (v : W64) (c0 p0 : Nat) : (s.setReg r i v).page c0 p0 = s.page c0 p0 := rfl
@[simp] theorem State.setReg_flightOf_same (r : Reg) (i : Nat) (v : W64) (n0 : Nat) : (s.setReg r i v).flightOf n0 = s.flightOf n0 := rfl
@[simp] theorem State.setReg_byte_same (r : Reg) (i : Nat) (v : W64) (a0 : Nat) : (s.setReg r i v).byte a0 = s.byte a0 := rfl
@[simp] theorem State.setReg_port_same (r : Reg) (i : Nat) (v : W64) (p0 : Nat) : (s.setReg r i v).port p0 = s.port p0 := rfl
@[simp] theorem State.setReg_eng_same (r : Reg) (i : Nat) (v : W64) (e0 : Nat) : (s.setReg r i v).eng e0 = s.eng e0 := rfl
@[simp] theorem State.setReg_now_same (r : Reg) (i : Nat) (v : W64) : (s.setReg r i v).now = s.now := rfl

@[simp] theorem State.setCtx_reg_same (c : Nat) (x : CtxS) (r0 : Reg) (i0 : Nat) : (s.setCtx c x).reg r0 i0 = s.reg r0 i0 := rfl
@[simp] theorem State.setCtx_queue_same (c : Nat) (x : CtxS) (q0 : Nat) : (s.setCtx c x).queue q0 = s.queue q0 := rfl
@[simp] theorem State.setCtx_ctr_same (c : Nat) (x : CtxS) (c0 i0 : Nat) : (s.setCtx c x).ctr c0 i0 = s.ctr c0 i0 := rfl
@[simp] theorem State.setCtx_page_same (c : Nat) (x : CtxS) (c0 p0 : Nat) : (s.setCtx c x).page c0 p0 = s.page c0 p0 := rfl
@[simp] theorem State.setCtx_flightOf_same (c : Nat) (x : CtxS) (n0 : Nat) : (s.setCtx c x).flightOf n0 = s.flightOf n0 := rfl
@[simp] theorem State.setCtx_byte_same (c : Nat) (x : CtxS) (a0 : Nat) : (s.setCtx c x).byte a0 = s.byte a0 := rfl
@[simp] theorem State.setCtx_port_same (c : Nat) (x : CtxS) (p0 : Nat) : (s.setCtx c x).port p0 = s.port p0 := rfl
@[simp] theorem State.setCtx_eng_same (c : Nat) (x : CtxS) (e0 : Nat) : (s.setCtx c x).eng e0 = s.eng e0 := rfl
@[simp] theorem State.setCtx_now_same (c : Nat) (x : CtxS) : (s.setCtx c x).now = s.now := rfl

@[simp] theorem State.setQueue_reg_same (q : Nat) (x : QueueS) (r0 : Reg) (i0 : Nat) : (s.setQueue q x).reg r0 i0 = s.reg r0 i0 := rfl
@[simp] theorem State.setQueue_ctx_same (q : Nat) (x : QueueS) (c0 : Nat) : (s.setQueue q x).ctx c0 = s.ctx c0 := rfl
@[simp] theorem State.setQueue_ctr_same (q : Nat) (x : QueueS) (c0 i0 : Nat) : (s.setQueue q x).ctr c0 i0 = s.ctr c0 i0 := rfl
@[simp] theorem State.setQueue_page_same (q : Nat) (x : QueueS) (c0 p0 : Nat) : (s.setQueue q x).page c0 p0 = s.page c0 p0 := rfl
@[simp] theorem State.setQueue_flightOf_same (q : Nat) (x : QueueS) (n0 : Nat) : (s.setQueue q x).flightOf n0 = s.flightOf n0 := rfl
@[simp] theorem State.setQueue_byte_same (q : Nat) (x : QueueS) (a0 : Nat) : (s.setQueue q x).byte a0 = s.byte a0 := rfl
@[simp] theorem State.setQueue_port_same (q : Nat) (x : QueueS) (p0 : Nat) : (s.setQueue q x).port p0 = s.port p0 := rfl
@[simp] theorem State.setQueue_eng_same (q : Nat) (x : QueueS) (e0 : Nat) : (s.setQueue q x).eng e0 = s.eng e0 := rfl
@[simp] theorem State.setQueue_now_same (q : Nat) (x : QueueS) : (s.setQueue q x).now = s.now := rfl

@[simp] theorem State.setCtr_reg_same (c i : Nat) (v : W32) (r0 : Reg) (i0 : Nat) : (s.setCtr c i v).reg r0 i0 = s.reg r0 i0 := rfl
@[simp] theorem State.setCtr_ctx_same (c i : Nat) (v : W32) (c0 : Nat) : (s.setCtr c i v).ctx c0 = s.ctx c0 := rfl
@[simp] theorem State.setCtr_queue_same (c i : Nat) (v : W32) (q0 : Nat) : (s.setCtr c i v).queue q0 = s.queue q0 := rfl
@[simp] theorem State.setCtr_page_same (c i : Nat) (v : W32) (c0 p0 : Nat) : (s.setCtr c i v).page c0 p0 = s.page c0 p0 := rfl
@[simp] theorem State.setCtr_flightOf_same (c i : Nat) (v : W32) (n0 : Nat) : (s.setCtr c i v).flightOf n0 = s.flightOf n0 := rfl
@[simp] theorem State.setCtr_byte_same (c i : Nat) (v : W32) (a0 : Nat) : (s.setCtr c i v).byte a0 = s.byte a0 := rfl
@[simp] theorem State.setCtr_port_same (c i : Nat) (v : W32) (p0 : Nat) : (s.setCtr c i v).port p0 = s.port p0 := rfl
@[simp] theorem State.setCtr_eng_same (c i : Nat) (v : W32) (e0 : Nat) : (s.setCtr c i v).eng e0 = s.eng e0 := rfl
@[simp] theorem State.setCtr_now_same (c i : Nat) (v : W32) : (s.setCtr c i v).now = s.now := rfl

@[simp] theorem State.setCal_reg_same (n : Nat) (x : CalS) (r0 : Reg) (i0 : Nat) : (s.setCal n x).reg r0 i0 = s.reg r0 i0 := rfl
@[simp] theorem State.setCal_ctx_same (n : Nat) (x : CalS) (c0 : Nat) : (s.setCal n x).ctx c0 = s.ctx c0 := rfl
@[simp] theorem State.setCal_queue_same (n : Nat) (x : CalS) (q0 : Nat) : (s.setCal n x).queue q0 = s.queue q0 := rfl
@[simp] theorem State.setCal_ctr_same (n : Nat) (x : CalS) (c0 i0 : Nat) : (s.setCal n x).ctr c0 i0 = s.ctr c0 i0 := rfl
@[simp] theorem State.setCal_page_same (n : Nat) (x : CalS) (c0 p0 : Nat) : (s.setCal n x).page c0 p0 = s.page c0 p0 := rfl
@[simp] theorem State.setCal_flightOf_same (n : Nat) (x : CalS) (n0 : Nat) : (s.setCal n x).flightOf n0 = s.flightOf n0 := rfl
@[simp] theorem State.setCal_byte_same (n : Nat) (x : CalS) (a0 : Nat) : (s.setCal n x).byte a0 = s.byte a0 := rfl
@[simp] theorem State.setCal_port_same (n : Nat) (x : CalS) (p0 : Nat) : (s.setCal n x).port p0 = s.port p0 := rfl
@[simp] theorem State.setCal_eng_same (n : Nat) (x : CalS) (e0 : Nat) : (s.setCal n x).eng e0 = s.eng e0 := rfl
@[simp] theorem State.setCal_now_same (n : Nat) (x : CalS) : (s.setCal n x).now = s.now := rfl

@[simp] theorem State.setOwner_reg_same (k : Nat) (o : Option Nat) (r0 : Reg) (i0 : Nat) : (s.setOwner k o).reg r0 i0 = s.reg r0 i0 := rfl
@[simp] theorem State.setOwner_ctx_same (k : Nat) (o : Option Nat) (c0 : Nat) : (s.setOwner k o).ctx c0 = s.ctx c0 := rfl
@[simp] theorem State.setOwner_queue_same (k : Nat) (o : Option Nat) (q0 : Nat) : (s.setOwner k o).queue q0 = s.queue q0 := rfl
@[simp] theorem State.setOwner_ctr_same (k : Nat) (o : Option Nat) (c0 i0 : Nat) : (s.setOwner k o).ctr c0 i0 = s.ctr c0 i0 := rfl
@[simp] theorem State.setOwner_page_same (k : Nat) (o : Option Nat) (c0 p0 : Nat) : (s.setOwner k o).page c0 p0 = s.page c0 p0 := rfl
@[simp] theorem State.setOwner_flightOf_same (k : Nat) (o : Option Nat) (n0 : Nat) : (s.setOwner k o).flightOf n0 = s.flightOf n0 := rfl
@[simp] theorem State.setOwner_byte_same (k : Nat) (o : Option Nat) (a0 : Nat) : (s.setOwner k o).byte a0 = s.byte a0 := rfl
@[simp] theorem State.setOwner_port_same (k : Nat) (o : Option Nat) (p0 : Nat) : (s.setOwner k o).port p0 = s.port p0 := rfl
@[simp] theorem State.setOwner_eng_same (k : Nat) (o : Option Nat) (e0 : Nat) : (s.setOwner k o).eng e0 = s.eng e0 := rfl
@[simp] theorem State.setOwner_now_same (k : Nat) (o : Option Nat) : (s.setOwner k o).now = s.now := rfl

@[simp] theorem State.setPage_reg_same (c p : Nat) (x : PageS) (r0 : Reg) (i0 : Nat) : (s.setPage c p x).reg r0 i0 = s.reg r0 i0 := rfl
@[simp] theorem State.setPage_ctx_same (c p : Nat) (x : PageS) (c0 : Nat) : (s.setPage c p x).ctx c0 = s.ctx c0 := rfl
@[simp] theorem State.setPage_queue_same (c p : Nat) (x : PageS) (q0 : Nat) : (s.setPage c p x).queue q0 = s.queue q0 := rfl
@[simp] theorem State.setPage_ctr_same (c p : Nat) (x : PageS) (c0 i0 : Nat) : (s.setPage c p x).ctr c0 i0 = s.ctr c0 i0 := rfl
@[simp] theorem State.setPage_flightOf_same (c p : Nat) (x : PageS) (n0 : Nat) : (s.setPage c p x).flightOf n0 = s.flightOf n0 := rfl
@[simp] theorem State.setPage_byte_same (c p : Nat) (x : PageS) (a0 : Nat) : (s.setPage c p x).byte a0 = s.byte a0 := rfl
@[simp] theorem State.setPage_port_same (c p : Nat) (x : PageS) (p0 : Nat) : (s.setPage c p x).port p0 = s.port p0 := rfl
@[simp] theorem State.setPage_eng_same (c p : Nat) (x : PageS) (e0 : Nat) : (s.setPage c p x).eng e0 = s.eng e0 := rfl
@[simp] theorem State.setPage_now_same (c p : Nat) (x : PageS) : (s.setPage c p x).now = s.now := rfl

@[simp] theorem State.setEng_reg_same (e : Nat) (x : EngS) (r0 : Reg) (i0 : Nat) : (s.setEng e x).reg r0 i0 = s.reg r0 i0 := rfl
@[simp] theorem State.setEng_ctx_same (e : Nat) (x : EngS) (c0 : Nat) : (s.setEng e x).ctx c0 = s.ctx c0 := rfl
@[simp] theorem State.setEng_queue_same (e : Nat) (x : EngS) (q0 : Nat) : (s.setEng e x).queue q0 = s.queue q0 := rfl
@[simp] theorem State.setEng_ctr_same (e : Nat) (x : EngS) (c0 i0 : Nat) : (s.setEng e x).ctr c0 i0 = s.ctr c0 i0 := rfl
@[simp] theorem State.setEng_page_same (e : Nat) (x : EngS) (c0 p0 : Nat) : (s.setEng e x).page c0 p0 = s.page c0 p0 := rfl
@[simp] theorem State.setEng_flightOf_same (e : Nat) (x : EngS) (n0 : Nat) : (s.setEng e x).flightOf n0 = s.flightOf n0 := rfl
@[simp] theorem State.setEng_byte_same (e : Nat) (x : EngS) (a0 : Nat) : (s.setEng e x).byte a0 = s.byte a0 := rfl
@[simp] theorem State.setEng_port_same (e : Nat) (x : EngS) (p0 : Nat) : (s.setEng e x).port p0 = s.port p0 := rfl
@[simp] theorem State.setEng_now_same (e : Nat) (x : EngS) : (s.setEng e x).now = s.now := rfl

@[simp] theorem State.setClusS_reg_same (k : Nat) (x : ClusS) (r0 : Reg) (i0 : Nat) : (s.setClusS k x).reg r0 i0 = s.reg r0 i0 := rfl
@[simp] theorem State.setClusS_ctx_same (k : Nat) (x : ClusS) (c0 : Nat) : (s.setClusS k x).ctx c0 = s.ctx c0 := rfl
@[simp] theorem State.setClusS_queue_same (k : Nat) (x : ClusS) (q0 : Nat) : (s.setClusS k x).queue q0 = s.queue q0 := rfl
@[simp] theorem State.setClusS_ctr_same (k : Nat) (x : ClusS) (c0 i0 : Nat) : (s.setClusS k x).ctr c0 i0 = s.ctr c0 i0 := rfl
@[simp] theorem State.setClusS_page_same (k : Nat) (x : ClusS) (c0 p0 : Nat) : (s.setClusS k x).page c0 p0 = s.page c0 p0 := rfl
@[simp] theorem State.setClusS_flightOf_same (k : Nat) (x : ClusS) (n0 : Nat) : (s.setClusS k x).flightOf n0 = s.flightOf n0 := rfl
@[simp] theorem State.setClusS_byte_same (k : Nat) (x : ClusS) (a0 : Nat) : (s.setClusS k x).byte a0 = s.byte a0 := rfl
@[simp] theorem State.setClusS_port_same (k : Nat) (x : ClusS) (p0 : Nat) : (s.setClusS k x).port p0 = s.port p0 := rfl
@[simp] theorem State.setClusS_eng_same (k : Nat) (x : ClusS) (e0 : Nat) : (s.setClusS k x).eng e0 = s.eng e0 := rfl
@[simp] theorem State.setClusS_now_same (k : Nat) (x : ClusS) : (s.setClusS k x).now = s.now := rfl

@[simp] theorem State.setPort_reg_same (p : Nat) (x : PortS) (r0 : Reg) (i0 : Nat) : (s.setPort p x).reg r0 i0 = s.reg r0 i0 := rfl
@[simp] theorem State.setPort_ctx_same (p : Nat) (x : PortS) (c0 : Nat) : (s.setPort p x).ctx c0 = s.ctx c0 := rfl
@[simp] theorem State.setPort_queue_same (p : Nat) (x : PortS) (q0 : Nat) : (s.setPort p x).queue q0 = s.queue q0 := rfl
@[simp] theorem State.setPort_ctr_same (p : Nat) (x : PortS) (c0 i0 : Nat) : (s.setPort p x).ctr c0 i0 = s.ctr c0 i0 := rfl
@[simp] theorem State.setPort_page_same (p : Nat) (x : PortS) (c0 p0 : Nat) : (s.setPort p x).page c0 p0 = s.page c0 p0 := rfl
@[simp] theorem State.setPort_flightOf_same (p : Nat) (x : PortS) (n0 : Nat) : (s.setPort p x).flightOf n0 = s.flightOf n0 := rfl
@[simp] theorem State.setPort_byte_same (p : Nat) (x : PortS) (a0 : Nat) : (s.setPort p x).byte a0 = s.byte a0 := rfl
@[simp] theorem State.setPort_eng_same (p : Nat) (x : PortS) (e0 : Nat) : (s.setPort p x).eng e0 = s.eng e0 := rfl
@[simp] theorem State.setPort_now_same (p : Nat) (x : PortS) : (s.setPort p x).now = s.now := rfl

@[simp] theorem State.setEpt_reg_same (n : Nat) (x : EptS) (r0 : Reg) (i0 : Nat) : (s.setEpt n x).reg r0 i0 = s.reg r0 i0 := rfl
@[simp] theorem State.setEpt_ctx_same (n : Nat) (x : EptS) (c0 : Nat) : (s.setEpt n x).ctx c0 = s.ctx c0 := rfl
@[simp] theorem State.setEpt_queue_same (n : Nat) (x : EptS) (q0 : Nat) : (s.setEpt n x).queue q0 = s.queue q0 := rfl
@[simp] theorem State.setEpt_ctr_same (n : Nat) (x : EptS) (c0 i0 : Nat) : (s.setEpt n x).ctr c0 i0 = s.ctr c0 i0 := rfl
@[simp] theorem State.setEpt_page_same (n : Nat) (x : EptS) (c0 p0 : Nat) : (s.setEpt n x).page c0 p0 = s.page c0 p0 := rfl
@[simp] theorem State.setEpt_flightOf_same (n : Nat) (x : EptS) (n0 : Nat) : (s.setEpt n x).flightOf n0 = s.flightOf n0 := rfl
@[simp] theorem State.setEpt_byte_same (n : Nat) (x : EptS) (a0 : Nat) : (s.setEpt n x).byte a0 = s.byte a0 := rfl
@[simp] theorem State.setEpt_port_same (n : Nat) (x : EptS) (p0 : Nat) : (s.setEpt n x).port p0 = s.port p0 := rfl
@[simp] theorem State.setEpt_eng_same (n : Nat) (x : EptS) (e0 : Nat) : (s.setEpt n x).eng e0 = s.eng e0 := rfl
@[simp] theorem State.setEpt_now_same (n : Nat) (x : EptS) : (s.setEpt n x).now = s.now := rfl

@[simp] theorem State.setGov_reg_same (d : Nat) (x : GovS) (r0 : Reg) (i0 : Nat) : (s.setGov d x).reg r0 i0 = s.reg r0 i0 := rfl
@[simp] theorem State.setGov_ctx_same (d : Nat) (x : GovS) (c0 : Nat) : (s.setGov d x).ctx c0 = s.ctx c0 := rfl
@[simp] theorem State.setGov_queue_same (d : Nat) (x : GovS) (q0 : Nat) : (s.setGov d x).queue q0 = s.queue q0 := rfl
@[simp] theorem State.setGov_ctr_same (d : Nat) (x : GovS) (c0 i0 : Nat) : (s.setGov d x).ctr c0 i0 = s.ctr c0 i0 := rfl
@[simp] theorem State.setGov_page_same (d : Nat) (x : GovS) (c0 p0 : Nat) : (s.setGov d x).page c0 p0 = s.page c0 p0 := rfl
@[simp] theorem State.setGov_flightOf_same (d : Nat) (x : GovS) (n0 : Nat) : (s.setGov d x).flightOf n0 = s.flightOf n0 := rfl
@[simp] theorem State.setGov_byte_same (d : Nat) (x : GovS) (a0 : Nat) : (s.setGov d x).byte a0 = s.byte a0 := rfl
@[simp] theorem State.setGov_port_same (d : Nat) (x : GovS) (p0 : Nat) : (s.setGov d x).port p0 = s.port p0 := rfl
@[simp] theorem State.setGov_eng_same (d : Nat) (x : GovS) (e0 : Nat) : (s.setGov d x).eng e0 = s.eng e0 := rfl
@[simp] theorem State.setGov_now_same (d : Nat) (x : GovS) : (s.setGov d x).now = s.now := rfl

@[simp] theorem State.setAge_reg_same (d : Nat) (x : AgeS) (r0 : Reg) (i0 : Nat) : (s.setAge d x).reg r0 i0 = s.reg r0 i0 := rfl
@[simp] theorem State.setAge_ctx_same (d : Nat) (x : AgeS) (c0 : Nat) : (s.setAge d x).ctx c0 = s.ctx c0 := rfl
@[simp] theorem State.setAge_queue_same (d : Nat) (x : AgeS) (q0 : Nat) : (s.setAge d x).queue q0 = s.queue q0 := rfl
@[simp] theorem State.setAge_ctr_same (d : Nat) (x : AgeS) (c0 i0 : Nat) : (s.setAge d x).ctr c0 i0 = s.ctr c0 i0 := rfl
@[simp] theorem State.setAge_page_same (d : Nat) (x : AgeS) (c0 p0 : Nat) : (s.setAge d x).page c0 p0 = s.page c0 p0 := rfl
@[simp] theorem State.setAge_flightOf_same (d : Nat) (x : AgeS) (n0 : Nat) : (s.setAge d x).flightOf n0 = s.flightOf n0 := rfl
@[simp] theorem State.setAge_byte_same (d : Nat) (x : AgeS) (a0 : Nat) : (s.setAge d x).byte a0 = s.byte a0 := rfl
@[simp] theorem State.setAge_port_same (d : Nat) (x : AgeS) (p0 : Nat) : (s.setAge d x).port p0 = s.port p0 := rfl
@[simp] theorem State.setAge_eng_same (d : Nat) (x : AgeS) (e0 : Nat) : (s.setAge d x).eng e0 = s.eng e0 := rfl
@[simp] theorem State.setAge_now_same (d : Nat) (x : AgeS) : (s.setAge d x).now = s.now := rfl

@[simp] theorem State.setClusClk_reg_same (k : Nat) (x : ClusClk) (r0 : Reg) (i0 : Nat) : (s.setClusClk k x).reg r0 i0 = s.reg r0 i0 := rfl
@[simp] theorem State.setClusClk_ctx_same (k : Nat) (x : ClusClk) (c0 : Nat) : (s.setClusClk k x).ctx c0 = s.ctx c0 := rfl
@[simp] theorem State.setClusClk_queue_same (k : Nat) (x : ClusClk) (q0 : Nat) : (s.setClusClk k x).queue q0 = s.queue q0 := rfl
@[simp] theorem State.setClusClk_ctr_same (k : Nat) (x : ClusClk) (c0 i0 : Nat) : (s.setClusClk k x).ctr c0 i0 = s.ctr c0 i0 := rfl
@[simp] theorem State.setClusClk_page_same (k : Nat) (x : ClusClk) (c0 p0 : Nat) : (s.setClusClk k x).page c0 p0 = s.page c0 p0 := rfl
@[simp] theorem State.setClusClk_flightOf_same (k : Nat) (x : ClusClk) (n0 : Nat) : (s.setClusClk k x).flightOf n0 = s.flightOf n0 := rfl
@[simp] theorem State.setClusClk_byte_same (k : Nat) (x : ClusClk) (a0 : Nat) : (s.setClusClk k x).byte a0 = s.byte a0 := rfl
@[simp] theorem State.setClusClk_port_same (k : Nat) (x : ClusClk) (p0 : Nat) : (s.setClusClk k x).port p0 = s.port p0 := rfl
@[simp] theorem State.setClusClk_eng_same (k : Nat) (x : ClusClk) (e0 : Nat) : (s.setClusClk k x).eng e0 = s.eng e0 := rfl

@[simp] theorem State.updFlight_reg_same (n : Nat) (f : Flight → Flight) (r0 : Reg) (i0 : Nat) : (s.updFlight n f).reg r0 i0 = s.reg r0 i0 := rfl
@[simp] theorem State.updFlight_ctx_same (n : Nat) (f : Flight → Flight) (c0 : Nat) : (s.updFlight n f).ctx c0 = s.ctx c0 := rfl
@[simp] theorem State.updFlight_queue_same (n : Nat) (f : Flight → Flight) (q0 : Nat) : (s.updFlight n f).queue q0 = s.queue q0 := rfl
@[simp] theorem State.updFlight_ctr_same (n : Nat) (f : Flight → Flight) (c0 i0 : Nat) : (s.updFlight n f).ctr c0 i0 = s.ctr c0 i0 := rfl
@[simp] theorem State.updFlight_page_same (n : Nat) (f : Flight → Flight) (c0 p0 : Nat) : (s.updFlight n f).page c0 p0 = s.page c0 p0 := rfl
@[simp] theorem State.updFlight_byte_same (n : Nat) (f : Flight → Flight) (a0 : Nat) : (s.updFlight n f).byte a0 = s.byte a0 := rfl
@[simp] theorem State.updFlight_port_same (n : Nat) (f : Flight → Flight) (p0 : Nat) : (s.updFlight n f).port p0 = s.port p0 := rfl
@[simp] theorem State.updFlight_eng_same (n : Nat) (f : Flight → Flight) (e0 : Nat) : (s.updFlight n f).eng e0 = s.eng e0 := rfl
@[simp] theorem State.updFlight_now_same (n : Nat) (f : Flight → Flight) : (s.updFlight n f).now = s.now := rfl

@[simp] theorem State.updImage_reg_same (n : Nat) (f : ImageS → ImageS) (r0 : Reg) (i0 : Nat) : (s.updImage n f).reg r0 i0 = s.reg r0 i0 := rfl
@[simp] theorem State.updImage_ctx_same (n : Nat) (f : ImageS → ImageS) (c0 : Nat) : (s.updImage n f).ctx c0 = s.ctx c0 := rfl
@[simp] theorem State.updImage_queue_same (n : Nat) (f : ImageS → ImageS) (q0 : Nat) : (s.updImage n f).queue q0 = s.queue q0 := rfl
@[simp] theorem State.updImage_ctr_same (n : Nat) (f : ImageS → ImageS) (c0 i0 : Nat) : (s.updImage n f).ctr c0 i0 = s.ctr c0 i0 := rfl
@[simp] theorem State.updImage_page_same (n : Nat) (f : ImageS → ImageS) (c0 p0 : Nat) : (s.updImage n f).page c0 p0 = s.page c0 p0 := rfl
@[simp] theorem State.updImage_flightOf_same (n : Nat) (f : ImageS → ImageS) (n0 : Nat) : (s.updImage n f).flightOf n0 = s.flightOf n0 := rfl
@[simp] theorem State.updImage_byte_same (n : Nat) (f : ImageS → ImageS) (a0 : Nat) : (s.updImage n f).byte a0 = s.byte a0 := rfl
@[simp] theorem State.updImage_port_same (n : Nat) (f : ImageS → ImageS) (p0 : Nat) : (s.updImage n f).port p0 = s.port p0 := rfl
@[simp] theorem State.updImage_eng_same (n : Nat) (f : ImageS → ImageS) (e0 : Nat) : (s.updImage n f).eng e0 = s.eng e0 := rfl
@[simp] theorem State.updImage_now_same (n : Nat) (f : ImageS → ImageS) : (s.updImage n f).now = s.now := rfl

@[simp] theorem State.addFlight_reg_same (f : Flight) (r0 : Reg) (i0 : Nat) : (s.addFlight f).reg r0 i0 = s.reg r0 i0 := rfl
@[simp] theorem State.addFlight_ctx_same (f : Flight) (c0 : Nat) : (s.addFlight f).ctx c0 = s.ctx c0 := rfl
@[simp] theorem State.addFlight_queue_same (f : Flight) (q0 : Nat) : (s.addFlight f).queue q0 = s.queue q0 := rfl
@[simp] theorem State.addFlight_ctr_same (f : Flight) (c0 i0 : Nat) : (s.addFlight f).ctr c0 i0 = s.ctr c0 i0 := rfl
@[simp] theorem State.addFlight_page_same (f : Flight) (c0 p0 : Nat) : (s.addFlight f).page c0 p0 = s.page c0 p0 := rfl
@[simp] theorem State.addFlight_byte_same (f : Flight) (a0 : Nat) : (s.addFlight f).byte a0 = s.byte a0 := rfl
@[simp] theorem State.addFlight_port_same (f : Flight) (p0 : Nat) : (s.addFlight f).port p0 = s.port p0 := rfl
@[simp] theorem State.addFlight_eng_same (f : Flight) (e0 : Nat) : (s.addFlight f).eng e0 = s.eng e0 := rfl
@[simp] theorem State.addFlight_now_same (f : Flight) : (s.addFlight f).now = s.now := rfl

@[simp] theorem State.updFab_reg_same (f : FabS → FabS) (r0 : Reg) (i0 : Nat) : (s.updFab f).reg r0 i0 = s.reg r0 i0 := rfl
@[simp] theorem State.updFab_ctx_same (f : FabS → FabS) (c0 : Nat) : (s.updFab f).ctx c0 = s.ctx c0 := rfl
@[simp] theorem State.updFab_queue_same (f : FabS → FabS) (q0 : Nat) : (s.updFab f).queue q0 = s.queue q0 := rfl
@[simp] theorem State.updFab_ctr_same (f : FabS → FabS) (c0 i0 : Nat) : (s.updFab f).ctr c0 i0 = s.ctr c0 i0 := rfl
@[simp] theorem State.updFab_page_same (f : FabS → FabS) (c0 p0 : Nat) : (s.updFab f).page c0 p0 = s.page c0 p0 := rfl
@[simp] theorem State.updFab_flightOf_same (f : FabS → FabS) (n0 : Nat) : (s.updFab f).flightOf n0 = s.flightOf n0 := rfl
@[simp] theorem State.updFab_byte_same (f : FabS → FabS) (a0 : Nat) : (s.updFab f).byte a0 = s.byte a0 := rfl
@[simp] theorem State.updFab_port_same (f : FabS → FabS) (p0 : Nat) : (s.updFab f).port p0 = s.port p0 := rfl
@[simp] theorem State.updFab_eng_same (f : FabS → FabS) (e0 : Nat) : (s.updFab f).eng e0 = s.eng e0 := rfl
@[simp] theorem State.updFab_now_same (f : FabS → FabS) : (s.updFab f).now = s.now := rfl

@[simp] theorem State.updColl_reg_same (c b : Nat) (f : CollS → CollS) (r0 : Reg) (i0 : Nat) : (s.updColl c b f).reg r0 i0 = s.reg r0 i0 := rfl
@[simp] theorem State.updColl_ctx_same (c b : Nat) (f : CollS → CollS) (c0 : Nat) : (s.updColl c b f).ctx c0 = s.ctx c0 := rfl
@[simp] theorem State.updColl_queue_same (c b : Nat) (f : CollS → CollS) (q0 : Nat) : (s.updColl c b f).queue q0 = s.queue q0 := rfl
@[simp] theorem State.updColl_ctr_same (c b : Nat) (f : CollS → CollS) (c0 i0 : Nat) : (s.updColl c b f).ctr c0 i0 = s.ctr c0 i0 := rfl
@[simp] theorem State.updColl_page_same (c b : Nat) (f : CollS → CollS) (c0 p0 : Nat) : (s.updColl c b f).page c0 p0 = s.page c0 p0 := rfl
@[simp] theorem State.updColl_flightOf_same (c b : Nat) (f : CollS → CollS) (n0 : Nat) : (s.updColl c b f).flightOf n0 = s.flightOf n0 := rfl
@[simp] theorem State.updColl_byte_same (c b : Nat) (f : CollS → CollS) (a0 : Nat) : (s.updColl c b f).byte a0 = s.byte a0 := rfl
@[simp] theorem State.updColl_port_same (c b : Nat) (f : CollS → CollS) (p0 : Nat) : (s.updColl c b f).port p0 = s.port p0 := rfl
@[simp] theorem State.updColl_eng_same (c b : Nat) (f : CollS → CollS) (e0 : Nat) : (s.updColl c b f).eng e0 = s.eng e0 := rfl
@[simp] theorem State.updColl_now_same (c b : Nat) (f : CollS → CollS) : (s.updColl c b f).now = s.now := rfl

@[simp] theorem State.updTxn_reg_same (n : Nat) (f : Txn → Txn) (r0 : Reg) (i0 : Nat) : (s.updTxn n f).reg r0 i0 = s.reg r0 i0 := rfl
@[simp] theorem State.updTxn_ctx_same (n : Nat) (f : Txn → Txn) (c0 : Nat) : (s.updTxn n f).ctx c0 = s.ctx c0 := rfl
@[simp] theorem State.updTxn_queue_same (n : Nat) (f : Txn → Txn) (q0 : Nat) : (s.updTxn n f).queue q0 = s.queue q0 := rfl
@[simp] theorem State.updTxn_ctr_same (n : Nat) (f : Txn → Txn) (c0 i0 : Nat) : (s.updTxn n f).ctr c0 i0 = s.ctr c0 i0 := rfl
@[simp] theorem State.updTxn_page_same (n : Nat) (f : Txn → Txn) (c0 p0 : Nat) : (s.updTxn n f).page c0 p0 = s.page c0 p0 := rfl
@[simp] theorem State.updTxn_flightOf_same (n : Nat) (f : Txn → Txn) (n0 : Nat) : (s.updTxn n f).flightOf n0 = s.flightOf n0 := rfl
@[simp] theorem State.updTxn_byte_same (n : Nat) (f : Txn → Txn) (a0 : Nat) : (s.updTxn n f).byte a0 = s.byte a0 := rfl
@[simp] theorem State.updTxn_port_same (n : Nat) (f : Txn → Txn) (p0 : Nat) : (s.updTxn n f).port p0 = s.port p0 := rfl
@[simp] theorem State.updTxn_eng_same (n : Nat) (f : Txn → Txn) (e0 : Nat) : (s.updTxn n f).eng e0 = s.eng e0 := rfl
@[simp] theorem State.updTxn_now_same (n : Nat) (f : Txn → Txn) : (s.updTxn n f).now = s.now := rfl

@[simp] theorem State.dropTxn_reg_same (n : Nat) (r0 : Reg) (i0 : Nat) : (s.dropTxn n).reg r0 i0 = s.reg r0 i0 := rfl
@[simp] theorem State.dropTxn_ctx_same (n : Nat) (c0 : Nat) : (s.dropTxn n).ctx c0 = s.ctx c0 := rfl
@[simp] theorem State.dropTxn_queue_same (n : Nat) (q0 : Nat) : (s.dropTxn n).queue q0 = s.queue q0 := rfl
@[simp] theorem State.dropTxn_ctr_same (n : Nat) (c0 i0 : Nat) : (s.dropTxn n).ctr c0 i0 = s.ctr c0 i0 := rfl
@[simp] theorem State.dropTxn_page_same (n : Nat) (c0 p0 : Nat) : (s.dropTxn n).page c0 p0 = s.page c0 p0 := rfl
@[simp] theorem State.dropTxn_flightOf_same (n : Nat) (n0 : Nat) : (s.dropTxn n).flightOf n0 = s.flightOf n0 := rfl
@[simp] theorem State.dropTxn_byte_same (n : Nat) (a0 : Nat) : (s.dropTxn n).byte a0 = s.byte a0 := rfl
@[simp] theorem State.dropTxn_port_same (n : Nat) (p0 : Nat) : (s.dropTxn n).port p0 = s.port p0 := rfl
@[simp] theorem State.dropTxn_eng_same (n : Nat) (e0 : Nat) : (s.dropTxn n).eng e0 = s.eng e0 := rfl
@[simp] theorem State.dropTxn_now_same (n : Nat) : (s.dropTxn n).now = s.now := rfl

@[simp] theorem State.setVigil_reg_same (q : Nat) (x : VigilQ) (r0 : Reg) (i0 : Nat) : (s.setVigil q x).reg r0 i0 = s.reg r0 i0 := rfl
@[simp] theorem State.setVigil_ctx_same (q : Nat) (x : VigilQ) (c0 : Nat) : (s.setVigil q x).ctx c0 = s.ctx c0 := rfl
@[simp] theorem State.setVigil_queue_same (q : Nat) (x : VigilQ) (q0 : Nat) : (s.setVigil q x).queue q0 = s.queue q0 := rfl
@[simp] theorem State.setVigil_ctr_same (q : Nat) (x : VigilQ) (c0 i0 : Nat) : (s.setVigil q x).ctr c0 i0 = s.ctr c0 i0 := rfl
@[simp] theorem State.setVigil_page_same (q : Nat) (x : VigilQ) (c0 p0 : Nat) : (s.setVigil q x).page c0 p0 = s.page c0 p0 := rfl
@[simp] theorem State.setVigil_flightOf_same (q : Nat) (x : VigilQ) (n0 : Nat) : (s.setVigil q x).flightOf n0 = s.flightOf n0 := rfl
@[simp] theorem State.setVigil_byte_same (q : Nat) (x : VigilQ) (a0 : Nat) : (s.setVigil q x).byte a0 = s.byte a0 := rfl
@[simp] theorem State.setVigil_port_same (q : Nat) (x : VigilQ) (p0 : Nat) : (s.setVigil q x).port p0 = s.port p0 := rfl
@[simp] theorem State.setVigil_eng_same (q : Nat) (x : VigilQ) (e0 : Nat) : (s.setVigil q x).eng e0 = s.eng e0 := rfl
@[simp] theorem State.setVigil_now_same (q : Nat) (x : VigilQ) : (s.setVigil q x).now = s.now := rfl

@[simp] theorem State.wr_reg_same (a : Nat) (bs : List Byte) (p : Bool) (r0 : Reg) (i0 : Nat) : (s.wr a bs p).reg r0 i0 = s.reg r0 i0 := rfl
@[simp] theorem State.wr_ctx_same (a : Nat) (bs : List Byte) (p : Bool) (c0 : Nat) : (s.wr a bs p).ctx c0 = s.ctx c0 := rfl
@[simp] theorem State.wr_queue_same (a : Nat) (bs : List Byte) (p : Bool) (q0 : Nat) : (s.wr a bs p).queue q0 = s.queue q0 := rfl
@[simp] theorem State.wr_ctr_same (a : Nat) (bs : List Byte) (p : Bool) (c0 i0 : Nat) : (s.wr a bs p).ctr c0 i0 = s.ctr c0 i0 := rfl
@[simp] theorem State.wr_page_same (a : Nat) (bs : List Byte) (p : Bool) (c0 p0 : Nat) : (s.wr a bs p).page c0 p0 = s.page c0 p0 := rfl
@[simp] theorem State.wr_flightOf_same (a : Nat) (bs : List Byte) (p : Bool) (n0 : Nat) : (s.wr a bs p).flightOf n0 = s.flightOf n0 := rfl
@[simp] theorem State.wr_port_same (a : Nat) (bs : List Byte) (p : Bool) (p0 : Nat) : (s.wr a bs p).port p0 = s.port p0 := rfl
@[simp] theorem State.wr_eng_same (a : Nat) (bs : List Byte) (p : Bool) (e0 : Nat) : (s.wr a bs p).eng e0 = s.eng e0 := rfl
@[simp] theorem State.wr_now_same (a : Nat) (bs : List Byte) (p : Bool) : (s.wr a bs p).now = s.now := rfl

@[simp] theorem State.zero_reg_same (a n : Nat) (r0 : Reg) (i0 : Nat) : (s.zero a n).reg r0 i0 = s.reg r0 i0 := rfl
@[simp] theorem State.zero_ctx_same (a n : Nat) (c0 : Nat) : (s.zero a n).ctx c0 = s.ctx c0 := rfl
@[simp] theorem State.zero_queue_same (a n : Nat) (q0 : Nat) : (s.zero a n).queue q0 = s.queue q0 := rfl
@[simp] theorem State.zero_ctr_same (a n : Nat) (c0 i0 : Nat) : (s.zero a n).ctr c0 i0 = s.ctr c0 i0 := rfl
@[simp] theorem State.zero_page_same (a n : Nat) (c0 p0 : Nat) : (s.zero a n).page c0 p0 = s.page c0 p0 := rfl
@[simp] theorem State.zero_flightOf_same (a n : Nat) (n0 : Nat) : (s.zero a n).flightOf n0 = s.flightOf n0 := rfl
@[simp] theorem State.zero_port_same (a n : Nat) (p0 : Nat) : (s.zero a n).port p0 = s.port p0 := rfl
@[simp] theorem State.zero_eng_same (a n : Nat) (e0 : Nat) : (s.zero a n).eng e0 = s.eng e0 := rfl
@[simp] theorem State.zero_now_same (a n : Nat) : (s.zero a n).now = s.now := rfl

@[simp] theorem State.copyMem_reg_same (a b n : Nat) (r0 : Reg) (i0 : Nat) : (s.copyMem a b n).reg r0 i0 = s.reg r0 i0 := rfl
@[simp] theorem State.copyMem_ctx_same (a b n : Nat) (c0 : Nat) : (s.copyMem a b n).ctx c0 = s.ctx c0 := rfl
@[simp] theorem State.copyMem_queue_same (a b n : Nat) (q0 : Nat) : (s.copyMem a b n).queue q0 = s.queue q0 := rfl
@[simp] theorem State.copyMem_ctr_same (a b n : Nat) (c0 i0 : Nat) : (s.copyMem a b n).ctr c0 i0 = s.ctr c0 i0 := rfl
@[simp] theorem State.copyMem_page_same (a b n : Nat) (c0 p0 : Nat) : (s.copyMem a b n).page c0 p0 = s.page c0 p0 := rfl
@[simp] theorem State.copyMem_flightOf_same (a b n : Nat) (n0 : Nat) : (s.copyMem a b n).flightOf n0 = s.flightOf n0 := rfl
@[simp] theorem State.copyMem_port_same (a b n : Nat) (p0 : Nat) : (s.copyMem a b n).port p0 = s.port p0 := rfl
@[simp] theorem State.copyMem_eng_same (a b n : Nat) (e0 : Nat) : (s.copyMem a b n).eng e0 = s.eng e0 := rfl
@[simp] theorem State.copyMem_now_same (a b n : Nat) : (s.copyMem a b n).now = s.now := rfl

@[simp] theorem State.msix_reg_same (v : Nat) (r0 : Reg) (i0 : Nat) : (s.msix v).reg r0 i0 = s.reg r0 i0 := rfl
@[simp] theorem State.msix_ctx_same (v : Nat) (c0 : Nat) : (s.msix v).ctx c0 = s.ctx c0 := rfl
@[simp] theorem State.msix_queue_same (v : Nat) (q0 : Nat) : (s.msix v).queue q0 = s.queue q0 := rfl
@[simp] theorem State.msix_ctr_same (v : Nat) (c0 i0 : Nat) : (s.msix v).ctr c0 i0 = s.ctr c0 i0 := rfl
@[simp] theorem State.msix_page_same (v : Nat) (c0 p0 : Nat) : (s.msix v).page c0 p0 = s.page c0 p0 := rfl
@[simp] theorem State.msix_flightOf_same (v : Nat) (n0 : Nat) : (s.msix v).flightOf n0 = s.flightOf n0 := rfl
@[simp] theorem State.msix_byte_same (v : Nat) (a0 : Nat) : (s.msix v).byte a0 = s.byte a0 := rfl
@[simp] theorem State.msix_port_same (v : Nat) (p0 : Nat) : (s.msix v).port p0 = s.port p0 := rfl
@[simp] theorem State.msix_eng_same (v : Nat) (e0 : Nat) : (s.msix v).eng e0 = s.eng e0 := rfl
@[simp] theorem State.msix_now_same (v : Nat) : (s.msix v).now = s.now := rfl

end Sys2Proof.Machine
end

