-- ==== Sys2Proof/WellFormed.lean ====
section
/-! DEFINITION. Well-formed commands: the bounds that the types of the operands leave open. -/

namespace Sys2Proof

/-- A fabric packet carries at most 512 bytes of payload (R278). -/
def pktOk (p : Pkt) : Bool := decide (p.payload.length ≤ 512)

/-- A unit of a die by its number (R5, R353). -/
def govUnitOk : GovUnit → Bool
  | .engine i => decide (i < 256)
  | .elt i => decide (i < 32)
  | .qnt i => decide (i < 16)
  | .coll => true

/-- A P-384 public key is 97 bytes, and a signature two values of 48 (R412). -/
def fwReqOk : FwReq → Bool
  | .write _ _ => true
  | .verify k g => k.length == 97 && g.length == 96
  | .activate => true

/-- The numbers of a bring-up report are within a part of eight dies (R1, R5, R373); the windows have 20 bases (R411). -/
def bringUpOk (r : BringUp) : Bool :=
  (r.badEngines.all fun e => decide (e < 2048))
  && (r.badPairs.all fun p => decide (p.1 < 2048) && decide (p.2 < 64))
  && (r.badElts.all fun e => decide (e < 256)) && (r.badQnts.all fun q => decide (q < 128))
  && (r.badPortLanes.all fun p => decide (p.1 < 24) && decide (p.2 < 8))
  && (r.badClusters.all fun k => decide (k < 128))
  && r.slackPs.length == 8 && (r.vrNack.all fun d => decide (d < 8))
  && (r.vrRaiseNack.all fun d => decide (d < 8)) && r.bases.length == 20

/-- A command is well formed. -/
def Instr.wf : Instr → Bool
  | .eltKernel _ p _ _ => decide (p.streams.length ≤ 4)
  | .thermalSample t => t.length == 96 && t.all fun x => decide (x < 1024)
  | .imageBufferWrite o b => decide (o.toNat + b.length ≤ 16777216)
  | .flitDataReceive _ f | .flitNakReceive _ f => decide (f.payload.length ≤ 232)
  | .flitAckReceive _ _ p _ | .controlFlitReceive _ p _ => decide (p.length ≤ 232)
  | .txnVote _ i b p => pktOk (Pkt.leading [i, b] p)
  | .txnDecision _ i p => pktOk (Pkt.leading [i] p)
  | .fabReadRequest _ p => pktOk p
  | .fabWriteRequest _ p => pktOk p
  | .fabAtomicRequest _ p => pktOk p
  | .fabResponse _ p => pktOk p
  | .collExponent _ p => pktOk p
  | .collScale _ p => pktOk p
  | .collContribution _ p => pktOk p
  | .collGather _ p => pktOk p
  | .unitReleaseRequest _ u => govUnitOk u
  | .securityAlarm l => l.all fun k => decide (k < 6)
  | .alarmRearm k => decide (k.toNat < 6)
  | .signedMaintenanceRequest _ _ k g => k.length == 97 && g.length == 96
  | .pldmFwUpdate _ r => fwReqOk r
  | .bringupDone r => bringUpOk r
  | .eqxRecordReceive _ _ r => r.alm.all fun e => decide (e.1 < 4096)
  | .nop _ | .ctrSet _ _ _ | .capRead _ _ _ | .ctrRead _ _ _ _ | .ctrWaitMem _ _ _ | .ctrWaitMemRetest _
  | .unassignedOpcode _ _ | .memCopy _ _ _ _ _ | .tbCopy _ _ | .tbBuild _ _ | .arrMatmul _ _ | .arrDrain _ _
  | .arrMode _ _ _ | .arrMapRead _ _ _ _ | .qntConvert _ _ | .qntScaleLoad _ _ | .qntOutlierSelect _ _
  | .almSlotWrite _ _ | .eltUpdate _ _ | .rngStreamReg _ _ | .fabGet _ _ _ _ | .fabPut _ _ _ _ | .fabAtomic _ _
  | .fabFence _ | .fabTbCopy _ _ | .collReduceScatter _ _ | .collAllGather _ _ | .fenceClear _ _
  | .partRejoin _ _ _ | .tierMap _ _ | .tierUnmap _ _ | .tierSeal _ _ | .tierUnseal _ _ | .tierMigrate _ _
  | .tierQuery _ _ | .eqxBarrier _ _ | .eqxProtect _ _ | .eqxResume _ | .imageList _ _ | .imageRelease _ _
  | .harvest _ _ | .cfgBegin _ | .cfgWrite _ _ | .cfgAbort _ | .cfgCommit _ _ | .calLoad _ _ | .queueCreate _ _
  | .queueDestroy _ _ | .ctxAssign _ _ | .checkTile _ _ _ _ | .vigilSnapshot _ _ _ _ | .cntSelect _ _
  | .cfgDbProd _ _ | .cfgDbCons _ _ | .commandComplete _ | .arrAccept _ _ | .spillRegionAcquire _ | .rowIssue _ _ _
  | .cellUpdate _ _ | .runPromotion _ _ | .spillAdd _ _ | .drainStart _ _ | .epilogueRowOutput _ _ | .slotFree _ _
  | .chainRowReceive _ | .preloadRegionAcquire _ _ | .preloadRowComplete _ _ _ | .outlierTerm _ _ _
  | .deferredSramWrite _ | .outlierGranuleAcquire _ | .eqxDrainDone _ | .eqxSyncPulseEnd | .eqxTimeout _
  | .digestComputeDone _ | .digestRootReceive _ _ _ | .stepCopyDone _ _ | .ckptPageDrained _ _ | .ckptSeal _
  | .harvestComplete _ _ | .cfgApplyIdle _ | .voteTimeout _ _
  | .decisionWaitTimeout _ _ | .ngfPortEnable _ _ | .ngfPortRetrain _ | .ngfPortEncrypt _ _ | .linkTrainDone _ _
  | .linkTrainTimeout _ | .alignDone _ | .alignTimeout _ | .capabilityFlitSend _ | .capabilityFlitReceive _ _
  | .negotiateTimeout _ | .fecLockLoss _
  | .e2eAck _ _ | .e2eRetxTimeout _ _ | .eptFill _ | .txnSlotFree | .collBusyResend _ _
  | .reduceDeadline _ _ | .hbmPatrol _ _ _ | .pageMoveDone _ _ | .flashReadComplete _ _ _ | .readDisturbScrub _ _
  | .badBlockDetect _ _ | .flashChannelFailure _ | .ctxStructUe _ | .partStructUe | .dieLinkLoss _
  | .cpHeartbeatTimeout _ | .injectedCheckTile _ _ | .refclkLoss | .pllLock | .pllLockTimeout | .droopStart _
  | .droopEnd _ | .clockGate _ | .ppsEdge | .govTick _ | .overcurrent _ | .emergencyRegrant _ | .brakeNAssert
  | .brakeNRelease | .ageingMeasure _ | .ageingMeasureDone _ _ _ | .alarmNRelease | .vwmKekLoad | .kekLoadDone
  | .vwmKekErase | .vwmAlarmClassWrite _ | .vwmCheckCtrlWrite _ | .porstNDeassert | .porstNAssert | .warmReset _
  | .perstNRelease | .romComplete _ | .vwmBootLenWrite _ | .vwmBootGo | .vwmBootWarmReset | .verifyDone
  | .bringupTimeout _ | .aonResetRelease | .aonRailFall | .pldmBaseRequest _ | .pldmMonitorRequest _ _
  | .mgmtFwStartTimeout | .pldmOemRequest _ _ | .spdmRequest _ _ | .evtMsixCoalesce | .vigilExamine _
  | .vigilFollowRequest _ _ | .engCntClear _ _ | .engRunaheadWrite _ _ | .accCtrlClear _ _
  | .splStageQuotaWrite _ _ | .splCtrlClearWait _ _ | .splCtrlClearExp _ _ | .qntCtrlClear _ _ | .almBaseWrite _ _
  | .cfgRngSeedWrite _ _ | .cfgRngStepWrite _ _ | .cfgStreamBaseWrite _ _ | .tierQuotaHbmWrite _ _
  | .tierQuotaFlashWrite _ _ | .eqxCtrlWrite _ _ | .eqxGroupBaseWrite _ _ | .eqxGroupWrite _ _
  | .eqxTimeoutWrite _ _ | .eqxCreditsWrite _ _ | .eqxSyncCfgWrite _ | .clkPpsCtrlWrite _ | .ngfPartIdWrite _
  | .ngfFabDigestWrite _ | .ngfCtxCtrlWrite _ _ | .ngfCtrlClear _ | .cfgCtrlClear _ | .govCtrlWrite _ _
  | .vwmEvtCtrlWrite _ | .vwmEvtConsWrite _ | .vwmVigilCtrlWrite _ | .vwmLcCtrlClear _ _ | .lanCtrlWrite _
  | .lanConsWrite _ | .w1cWrite _ _ _ | .registerWrite _ _ _ | .mctpSetEndpointId _ _ | .arpIcmpEchoRequest _
  | .dhcpAddressAssign _ | .mgmtFwBankStart => true

end Sys2Proof
end

