-- ==== Sys2Proof/Tests/Slice0.lean ====
section
/-! SUPPORT. The model's own tests: ill-formed commands refused, a witness for the hypotheses of every statement, clause
by clause, and single steps whose outcomes the spec gives. -/

namespace Sys2Proof.Tests

open Sys2Proof Sys2Proof.Machine

set_option Elab.async false

/-! ### Small states -/

/-- A header of a one-slot packet at the head of queue q. -/
def hdr (q : BitVec 15) : Hdr :=
  { ring := q, queue := q, pver := 1, tag := 7, fence := false, waitEn := false, signalEn := false, noCpl := false
    irq := false, stageEnd := false, lantern := false, size := 0, waitCtr := 0, signalCtr := 0, waitValue := 0 }

/-- A header of a two-slot packet. -/
def hdr2 (q : BitVec 15) : Hdr := { hdr q with size := 1 }

/-- A page in HBM. -/
def inHbm (frame : Nat) : PageS := { PageS.none with st := .hbm, frame := frame }

/-- A queue of context 0 with eight published slots. -/
def work : QueueS :=
  { QueueS.none with
    present := true, pver := 1, ringLog2 := 8, cplLog2 := 8, maxInflight := 4, prod := 8, published := 8, unread := 3 }

/-- A ready part: the admin queue, queue 1 of context 0, pages 0 to 7 of context 0 in HBM, clusters 0 and 1 owned. -/
def base : State :=
  { State.reset with
    boot := { State.reset.boot with
      phase := .ready, running := true, pllLocked := true
      bases := (List.range 20).map fun i => bootPage + if i == 10 then 0x4000000 else 0x100000 * (i + 1) }
    queues := [(0, adminQueue), (1, work)]
    pages := (List.range 8).map fun i => (i, inHbm i)
    nextFrame := 8
    owner := [(0, some 0), (1, some 0)]
    nextId := 5 }

/-- The base state with the packets of the admin queue published instead. -/
def admin : State := { base with queues := [(0, { adminQueue with published := 8 }), (1, { work with published := 0 })] }

/-- The base state with a HBM and a flash quota for context 0. -/
def rich : State := (base.setReg .tierQuotaHbm 0 64).setReg .tierQuotaFlash 0 64

/-- A packet is dispatched, as a computation. -/
def readyB (s : State) (h : Hdr) (o : Opc) : Bool :=
  inRange h.ring.toNat s.nQueues && s.queueLive h.ring.toNat && s.turn h.ring.toNat
  && decide (h.size.toNat + 1 ≤ (s.queue h.ring.toNat).published)
  && (s.visited h.ring.toNat).fetchFault h.ring.toNat (h.size.toNat + 1) == none
  && s.headerFault h.ring.toNat h (some o) == none
  && s.headWait h.ring.toNat h o (s.applyStops s.txnScopes (s.ctxOf h)) == none

theorem ready_of {s : State} {h : Hdr} {o : Opc} (r : readyB s h o = true) : s.Ready h o := by
  simp only [readyB, Bool.and_eq_true, decide_eq_true_eq, beq_iff_eq] at r
  exact ⟨⟨r.1.1.1.1.1.1, r.1.1.1.1.1.2, r.1.1.1.1.2, r.1.1.1.2, r.1.1.2⟩, r.1.2, r.2⟩

theorem served_of {s : State} {h : Hdr} (r : (inRange h.ring.toNat s.nQueues && s.queueLive h.ring.toNat
    && s.turn h.ring.toNat && decide (h.size.toNat + 1 ≤ (s.queue h.ring.toNat).published)
    && (s.visited h.ring.toNat).fetchFault h.ring.toNat (h.size.toNat + 1) == none) = true) : s.Served h := by
  simp only [Bool.and_eq_true, decide_eq_true_eq, beq_iff_eq] at r
  exact ⟨r.1.1.1.1, r.1.1.1.2, r.1.1.2, r.1.2, r.2⟩

/-! ### Witnesses: the block, the head of a queue, control commands -/


theorem witness_IdleStepIsANanosecond : base.pending = [] ∧ base.boot.running = true
    ∧ State.reset.pending = [] ∧ State.reset.boot.running = false := by decide +kernel

theorem witness_MemoryStaysCanonical : base.memWf ∧ ∃ t, step base = .next t :=
  ⟨show Map.wf memDefault base.mem by decide +kernel, _, rfl⟩

theorem witness_AbsentUnitsFault :
    let s := { State.reset with variant := Variant.m2 }
    s.absentUnit (.droopStart 127) = some ("cluster", 127) ∧ s.absentUnit (.govTick 7) = some ("die", 7)
    ∧ s.absentUnit (.rowIssue 2047 0 false) = some ("engine", 2047) ∧ s.absentUnit (.fecLockLoss 23) = some ("port", 23)
    ∧ s.absentUnit (.readDisturbScrub 31 true) = some ("flash channel", 31)
    ∧ s.absentUnit (.outlierGranuleAcquire 127) = some ("quantiser", 127)
    ∧ s.absentUnit (.unitReleaseRequest 0 (.qnt 16)) = some ("unit", 0) ∧ s.absentUnit (.dieLinkLoss 31) = some ("die link", 31)
    ∧ s.absentUnit (.vigilExamine 0x7FFF) = some ("queue", 0x7FFF)
    ∧ s.absentUnit (.govCtrlWrite 7 0) = some ("register", 7) := by decide +kernel

/-- Queue 1 waits for counter 3 to reach 9. -/
def waits : Hdr := { hdr 1 with waitEn := true, waitCtr := 3, waitValue := 9 }

/-- Queue 1's ring lies in page 9, which nothing has mapped. -/
def ringAway : State := { base with queues := [(0, adminQueue), (1, { work with ringBase := 0x1200000 })] }

/-- The admin state with a poisoned first slot of the admin ring. -/
def adminPoisoned : State := { admin with poison := NatSet.ins (physAdmin 0 / 64) [] }

theorem witness_WaitingPacketStays :
    (packetOf (.nop (hdr 1)) = some (hdr 1, ⟨0x000, 0, .any, false⟩)
      ∧ packetOf (.ctrSet waits 0 0) = some (waits, ⟨0x001, 0, .any, false⟩)
      ∧ (adminPoisoned.queueLive 0 = true ∧ adminPoisoned.turn 0 = true ∧ (adminPoisoned.queue 0).ctx = adminCtx
        ∧ (((adminPoisoned.queue 0).slotAddrs 1).all fun a => adminPoisoned.ringOk adminCtx a) = true
        ∧ (((adminPoisoned.queue 0).slotAddrs 1).any fun a => adminPoisoned.vaPoisoned adminCtx a) = true)) ∧
    State.reset.queueLive (hdr 1).ring.toNat = false ∧ inRange (0x7FFF : BitVec 15).toNat ({ base with variant := .m2 } : State).nQueues = false
    ∧ (let s := { base with queues := [(0, { adminQueue with published := 1 }), (1, work)] }
      s.turn (hdr 1).ring.toNat = false)
    ∧ (inRange (hdr 1).ring.toNat base.nQueues = true ∧ base.queueLive (hdr 1).ring.toNat = true
      ∧ base.turn (hdr 1).ring.toNat = true)
    ∧ (let s := { base with queues := [(0, adminQueue), (1, { work with published := 0 })] }
      s.queueLive (hdr 1).ring.toNat = true ∧ s.turn (hdr 1).ring.toNat = true
      ∧ (s.queue (hdr 1).ring.toNat).published < (hdr 1).size.toNat + 1)
    ∧ (ringAway.queueLive 1 = true ∧ ringAway.turn 1 = true
      ∧ (((ringAway.queue 1).slotAddrs 1).any fun a => !ringAway.ringOk (ringAway.queue 1).ctx a) = true)
    ∧ (let s := { base with poison := NatSet.ins (memStride / 64) [] }
      s.queueLive 1 = true ∧ s.turn 1 = true ∧ (((s.queue 1).slotAddrs 1).all fun a => s.ringOk (s.queue 1).ctx a) = true
      ∧ (((s.queue 1).slotAddrs 1).any fun a => s.vaPoisoned (s.queue 1).ctx a) = true ∧ (s.queue 1).ctx ≠ adminCtx)
    ∧ (base.Served waits ∧ base.headerFault waits.ring.toNat waits (some ⟨0x001, 0, .any, false⟩) = none
      ∧ base.headWait waits.ring.toNat waits ⟨0x001, 0, .any, false⟩ (base.applyStops base.txnScopes (base.ctxOf waits))
        = some (2, 3)) := by
  and_intros
  all_goals first | exact served_of (by decide +kernel) | decide +kernel

theorem witness_HeaderFaultsInOrder :
    (({ hdr 1 with pver := 2 } : Hdr).pver.toNat ≠ (base.queue 1).pver)
    ∧ ((hdr 0).pver.toNat = (base.queue 0).pver ∧ (base.queue 0).ctx = adminCtx)
    ∧ ((hdr 1).pver.toNat = (base.queue 1).pver ∧ (base.queue 1).ctx ≠ adminCtx)
    ∧ (hdr 2).queue.toNat ≠ 1 ∧ (hdr 1).queue.toNat = 1 ∧ (hdr2 1).size.toNat ≠ 0 ∧ (hdr 1).size.toNat = 0 := by
  decide +kernel

theorem witness_HeaderFaultCompletes :
    let h : Hdr := { hdr 1 with pver := 2 }
    packetOf (.nop h) = some (h, ⟨0x000, 0, .any, false⟩)
    ∧ packetOf (.memCopy h 0 0 0 []) = some (h, ⟨0x100, 0, .context, true⟩)
    ∧ base.Served h ∧ base.faultWait h.ring.toNat = none
    ∧ (let s := { base with queues := [(0, adminQueue), (1, { work with maxInflight := 0 })] }
      s.Served h ∧ s.faultWait h.ring.toNat = some (4, 0)
      ∧ s.headerFault h.ring.toNat h (some ⟨0x000, 0, .any, false⟩) = some ⟨St.badVersion, 0⟩)
    ∧ base.headerFault h.ring.toNat h (some ⟨0x000, 0, .any, false⟩) = some ⟨St.badVersion, 0⟩
    ∧ base.headerFault h.ring.toNat h (some ⟨0x100, 0, .context, true⟩) = some ⟨St.badVersion, 0⟩
    ∧ assignedOpcodes.contains (0x7FF : BitVec 12).toNat = false
    ∧ base.headerFault h.ring.toNat h none = some ⟨St.badVersion, 0⟩ := by
  and_intros
  all_goals first | exact served_of (by decide +kernel) | decide +kernel

/-- A command in flight. -/
def job (id : Nat) (w : Work) : Flight := { base.mkFlight 1 (hdr 1) 0x004 with id := id, work := w }

theorem witness_ControlCommandsRun :
    (base.Ready (hdr 1) ⟨0x000, 0, .any, false⟩ ∧ base.Ready (hdr 1) ⟨0x001, 0, .any, false⟩)
    ∧ (base.Ready (hdr 1) ⟨0x002, 0, .any, true⟩
      ∧ (base.dispatched (hdr 1) 0x002).capReadErr (base.ctxOf (hdr 1)) 0x1000 64 = none)
    ∧ (base.Ready (hdr 1) ⟨0x003, 0, .any, false⟩
      ∧ (base.dispatched (hdr 1) 0x003).ctrReadErr (base.ctxOf (hdr 1)) 0 4 0x1000 = none)
    ∧ (base.Ready (hdr 1) ⟨0x004, 0, .any, false⟩ ∧ (0x1000 : W64).toNat % 8 = 0)
    ∧ (let s := { base with flight := [job 3 .plain] }
      s.flightOf 3 = some (job 3 .plain)
      ∧ (s.chkRead 0 4 0x1000 8 = none ∧ s.vaPoisoned 0 0x1000 = false ∧ (0 : W64).toNat ≤ (s.rd64 0 0x1000).toNat)
      ∧ (s.chkRead 0 4 0x10000000000 8 = some ⟨St.unmapped, 0⟩) ∧ (job 3 .plain).made = false
      ∧ ({ job 3 .plain with made := true } : Flight).made = true
      ∧ (s.rd64 0 0x1000).toNat < (5 : W64).toNat)
    ∧ (let s := { base with poison := NatSet.ins ((memStride + 0x1000) / 64) [] }
      s.chkRead 0 4 0x1000 8 = none ∧ s.vaPoisoned 0 (0x1000 : W64).toNat = true)
    ∧ (base.flashPieces 3 0 [((0x1000 : W64).toNat, 8)] = []
      ∧ ({ base with pages := [(0, { PageS.none with st := .flash, fpage := 9 })] } : State).flashPieces 3 0
        [((0x1000 : W64).toNat, 8)] ≠ []) := by
  and_intros
  all_goals first | exact ready_of (by decide +kernel) | decide +kernel

theorem witness_DoorbellsPublishAndFree :
    (base.queue (1 : BitVec 15).toNat).present = true ∧ base.boot.phase = .ready
    ∧ (9 : BitVec 16).toNat < 2 ^ (base.queue 1).ringLog2 ∧ 2 ^ (base.queue 1).ringLog2 ≤ (256 : BitVec 16).toNat
    ∧ (2 : BitVec 16).toNat < 2 ^ (base.queue 1).cplLog2 ∧ 2 ^ (base.queue 1).cplLog2 ≤ (256 : BitVec 16).toNat
    ∧ (let s := { base with flight := [job 3 (.waitMem 0x1000 9)] }
      (s.queueFlights 1).find? (fun g => match g.work with | .waitMem _ _ => true | _ => false)
        = some (job 3 (.waitMem 0x1000 9))
      ∧ (job 3 (.waitMem 0x1000 9)).work = .waitMem 0x1000 9 ∧ s.boot.partFault = false ∧ s.boot.running = true
      ∧ s.reading 3 = false
      ∧ ({ s with ftl := { s.ftl with reads := [⟨some 3, 0, 9, 0x1000, 8⟩] } } : State).reading 3 = true) := by
  decide +kernel

/-! ### Witnesses: data movement and engines -/

/-- TB_COPY of one block from page 0 to page 1. -/
def tbc : TbCopyP := { src := 0, dst := 0x200000, count := 1, srcStep := 0, dstStep := 0, check := false }

/-- TB_BUILD of 64 4-bit codes of one row. -/
def tbb : TbBuildP :=
  { type := 0x0410, strideLines := 1, src := 0, srcStride := 64, scaleAddr := 0x1000, row0 := 0, nCodes := 64, nRows := 1
    col0 := 0, dst := 0x200000 }

/-- A read of one line of a flash page. -/
def lineRead : FlashRead := ⟨some 3, 0, 9, 0, 64⟩

theorem witness_DataMovementRuns :
    (base.Ready (hdr 1) ⟨0x100, 0, .context, true⟩
      ∧ (base.dispatched (hdr 1) 0x100).memCopyErr (base.ctxOf (hdr 1)) 0 0x200000 64 = none)
    ∧ (base.Ready (hdr 1) ⟨0x101, 0, .context, true⟩
      ∧ (base.dispatched (hdr 1) 0x101).tbCopyErr (base.ctxOf (hdr 1)) tbc = none)
    ∧ (base.Ready (hdr 1) ⟨0x102, 0, .context, true⟩
      ∧ (base.dispatched (hdr 1) 0x102).tbBuildErr (base.ctxOf (hdr 1)) tbb = none)
    ∧ base.flashPieces 3 0 [(0, 64)] = []
    ∧ (let s := { base with pages := [(0, { PageS.none with st := .flash, fpage := 9 })], flight := [job 3 .plain] }
      s.flashPieces 3 0 [(0, 64)] ≠ [] ∧ s.flightOf 3 = some (job 3 .plain))
    ∧ (let s := { base with ftl := { base.ftl with reads := [lineRead] }, flight := [job 3 .plain] }
      inRange (0 : BitVec 5).toNat s.nChan = true
      ∧ s.ftl.reads.find? (fun r => r.chan == (0 : BitVec 5).toNat) = some lineRead ∧ lineRead.flight = some 3
      ∧ (s.endRead lineRead 0 false).reading 3 = false
      ∧ (s.endRead lineRead 0 false).flightOf 3 = some (job 3 .plain) ∧ 0 < lineRead.len
      ∧ (({ s with ftl := { base.ftl with reads := [lineRead, lineRead] } } : State).endRead lineRead 0 false).reading 3 = true)
    ∧ ({ lineRead with flight := none } : FlashRead).flight = none
    ∧ base.ftl.reads.find? (fun r => r.chan == (0 : BitVec 5).toNat) = none := by
  and_intros
  all_goals first | exact ready_of (by decide +kernel) | decide +kernel

theorem witness_PatrolCountsAndPoisons :
    base.readPhys (0 : BitVec 6).toNat (64 : W64).toNat = some (memStride + 64) ∧ memStride ≤ memStride + 64
    ∧ memStride + 64 < 2 * memStride := by decide +kernel

/-- A command for engine 0: a 4-bit by 4-bit step of one row and one column. -/
def mm : MatmulP :=
  { engine := 0, quarter := 0, slot := 0, cont := false, init := 0, drain := true, typeA := 0x0410, typeB := 0x0410
    ta := false, tb := false, mRows := 1, nCols := 1, kLen := 1, aBase := 0, aStride := 1, bBase := 64, bStride := 1
    aScale := 0, bScale := 0, preloadDesc := 0, epiDesc := 0 }

def drainCmd : DrainP := { engine := 0, slot := 0, discard := true, epiDesc := 0 }

theorem witness_ArrayCommandsReachEngines :
    (base.Ready (hdr2 1) ⟨0x200, 1, .context, false⟩
      ∧ (base.dispatched (hdr2 1) 0x200).chkEngine (base.ctxOf (hdr2 1)) 4 mm.engine.toNat = none)
    ∧ (base.Ready (hdr 1) ⟨0x201, 0, .context, false⟩
      ∧ (base.dispatched (hdr 1) 0x201).chkEngine (base.ctxOf (hdr 1)) 4 drainCmd.engine.toNat = none)
    ∧ (base.Ready (hdr 1) ⟨0x202, 0, .context, false⟩
      ∧ (base.dispatched (hdr 1) 0x202).chkEngine (base.ctxOf (hdr 1)) 4 (1 : BitVec 11).toNat = none)
    ∧ (base.Ready (hdr 1) ⟨0x700, 0, .context, false⟩
      ∧ (base.dispatched (hdr 1) 0x700).chkEngine (base.ctxOf (hdr 1)) 4 (1 : BitVec 11).toNat = none)
    ∧ (base.Ready (hdr 1) ⟨0x203, 0, .any, false⟩
      ∧ (base.dispatched (hdr 1) 0x203).mapReadErr (base.ctxOf (hdr 1)) 0x1000 0 2 = none) := by
  and_intros
  all_goals first | exact ready_of (by decide +kernel) | decide +kernel

theorem witness_EngineFieldChecks :
    inRange 4096 base.nEng = false ∧ (inRange 64 base.nEng = true ∧ base.ownerOf (64 / 16) ≠ some 0)
    ∧ (inRange 3 base.nEng = true ∧ base.ownerOf (3 / 16) = some 0
      ∧ ({ base with retEng := [3] } : State).retEng.contains 3 = true ∧ base.retEng.contains 3 = false) := by
  decide +kernel

/-- A descriptor that passes raw values on. -/
def epi0 : Epi := ⟨0, true, false, false, false, false, 0, 0, 0, 0, 0, 0, 0, 0, 0, 1, 0, 0, 0, 0, 0, 0⟩

/-- A placed tile of one row and one column. -/
def tile0 : Tile :=
  { id := 0, queue := 1, ctx := 0, slot := 0, init := 0, typeA := 0x0410, typeB := 0x0410, ta := false, tb := false
    m := 1, n := 1, base := 0, steps := 1, closed := true, drain := true, first := epi0, last := some epi0, pre := none
    flight := 3, abandoned := false, tablePoison := false, placed := true, isOver := false, scaleA := [], scaleB := []
    poisRows := [], poisCols := [], region := [], needGr := 0, pitch := 1 }

/-- The base state with one unit of engine 0. -/
def withUnit (quarter : Bool) (u : UnitS) : State :=
  { base with engs := [(0, { EngS.none with quarter := quarter, units := [(0, u)] })] }

/-- The slot of the tile, in a state. -/
def slot0 (st : SlotSt) : SlotS := { SlotS.none with st := st, tile := some 0 }

def drain0 : DrainS :=
  { tile := 0, slot := 0, flight := 3, desc := epi0, per := 1, rows := [], next := 1, readAt := 0
    outs := [(0, 0, [])], done := 1, freeAt := some 0, stats := DrainStats.none }

/-- A unit that drains the tile. -/
def draining : UnitS := { UnitS.none with tiles := [tile0], slots := [(0, slot0 .drain)], drains := [drain0] }

def pre0 : Pre := ⟨true, false, false, 0, 0, 0, 0, 0, 0, 0, 0⟩

/-- A unit whose tile preloads. -/
def preloading : UnitS :=
  { UnitS.none with tiles := [{ tile0 with pre := some pre0 }], slots := [(0, slot0 .fill)] }

def row0 : ChainRow := ⟨16, 0, 0, 0, 1, 0, 1, 2, 0, 0, true, [], none⟩

theorem unitLive0 (quarter : Bool) (u : UnitS) : (withUnit quarter u).UnitLive 0 0 := by
  refine ⟨?_, ?_, Or.inr rfl⟩ <;> cases quarter <;> rfl

theorem witness_EngineRowsRun :
    (let s := { base with engs := [(0, { EngS.none with inbox := [(3, 1, 0, .matmul mm)] })] }
     s.UnitLive 0 0 ∧ (s.eng 0).modeUntil ≤ s.clusCycles (clusterOfEng 0) ∧ s.frontRuns 0 = none
     ∧ (s.eng 0).head 0 = some (3, 1, 0, .matmul mm))
    ∧ (let s := { base with engs := [(0, { EngS.none with inbox := [(3, 1, 0, .mode true)] })] }
      (s.eng 0).modeUntil ≤ s.clusCycles (clusterOfEng 0) ∧ (s.frontRuns 0).isSome = true)
    ∧ (let s := { withUnit false draining with gov := [(0, { GovS.none with granted := [.engine 0] })] }
      s.UnitLive 0 0 ∧ s.engGranted (0 : BitVec 11).toNat = true ∧ (s.unit 0 0).busy = true)
    ∧ ((withUnit false draining).engGranted (0 : BitVec 11).toNat = false
      ∧ (let s := { base with engs := [(0, { EngS.none with modeUntil := 32 })] }
        s.clusCycles (clusterOfEng (0 : BitVec 11).toNat) < (s.eng (0 : BitVec 11).toNat).modeUntil))
    ∧ ((takeDue (fun (x : Issue) => x.due) 4 [⟨4, 0, 0, [], true, false, true⟩]).isSome = true)
    ∧ ((takeDue (fun (x : Promo) => x.due) 4 [⟨4, 0, 0, [], false, true⟩]).isSome = true)
    ∧ ((takeDue (fun (x : SpillDue) => x.due) 4 [⟨4, 0, 0, true⟩]).isSome = true)
    ∧ (((withUnit false { UnitS.none with tiles := [{ tile0 with needGr := 2 }] }).eng 0).spillWaiter.isSome = true) := by
  refine ⟨⟨⟨rfl, rfl, Or.inr rfl⟩, ?_, rfl, ?_⟩, ?_, ⟨⟨rfl, rfl, Or.inr rfl⟩, ?_⟩, ?_, ?_, ?_, ?_, ?_⟩ <;> decide +kernel

theorem witness_EngineRowsRun_drains :
    (let u := { UnitS.none with tiles := [tile0], slots := [(0, { slot0 .drain with drainAt := some 0 })] }
     (withUnit false u).UnitLive 0 0 ∧ ((withUnit false u).unit 0 0).drainDue = some tile0)
    ∧ (let u := (withUnit false draining).unit 0 0
      u.drains.findSome? (fun d => (d.outs.head?.filter fun o => decide (o.1 ≤ u.cycle)).map fun o => (d, o))
        = some (drain0, (0, 0, [])) ∧ u.tile? 0 = some tile0
      ∧ u.drains.find? (fun d => (d.freeAt.any fun n => decide (n ≤ u.cycle)) && (u.slot d.slot).tile == some d.tile
          && (u.tile? d.tile).any fun t => !t.first.midLink || decide (t.m ≤ d.done)) = some drain0)
    ∧ (let s := { base with engs := [(0, { EngS.none with chainIn := [row0] })] }
      ((s.eng 0).chainIn.findSome? (fun x => s.receive 0 x)).isSome = true
      ∧ (base.eng 0).chainIn.findSome? (fun x => base.receive 0 x) = none)
    ∧ (let s := withUnit true preloading
      (s.eng 0).quarter = true ∧ (s.unit 0 0).freePre = some 0
      ∧ ((s.unit 0 0).tiles.find? (fun t => t.placed && !t.isOver && t.pre.isSome
          && ((s.unit 0 0).slot t.slot).tile == some t.id && ((s.unit 0 0).slot t.slot).st == .fill
          && ((s.unit 0 0).slot t.slot).preRegion.isNone)).isSome = true)
    ∧ (let s := withUnit false { preloading with slots := [(0, { slot0 .fill with outliers := [(0, [])] })] }
      ((s.unit 0 0).preTile 0 (fun x => !(s.eng 0).quarter || x.preRegion.isSome)).isSome = true
      ∧ (((s.unit 0 0).slot 0).outliers.any fun o => o.1 == 0) = true)
    ∧ (((withUnit false preloading).unit 0 0).preTile 0 (fun x => !x.outliers.any fun o => o.1 == 0)
        = some ({ tile0 with pre := some pre0 }, pre0) ∧ pre0.outlier = true
      ∧ (let s := { withUnit false preloading with gov := [(0, { GovS.none with granted := [.elt 0] })] }
        s.reading tile0.flight = false ∧ s.termElt (clusterOfEng 0) = 0 ∧ s.grantedTo 0 (.elt 0) = true))
    ∧ (let s := { (base.setReg .vwmCheckCtrl 0 1) with clk := { base.clk with timebase := 2000000 } }
      s.fld .vwmCheckCtrl 0 15 0 = 1 ∧ (s.eng 0).checkReady = true ∧ s.retEng.contains 0 = false ∧ s.boot.phase = .ready
      ∧ (s.eng 0).checkAt + 1000000 * 1 ≤ s.now ∧ s.engGranted 0 = false
      ∧ ({ s with gov := [(0, { GovS.none with granted := [.engine 0] })] } : State).engGranted 0 = true) := by
  refine ⟨⟨unitLive0 _ _, ?_⟩, ?_, ?_, ?_, ?_, ?_, ?_⟩ <;> decide +kernel

theorem witness_DeferredStoreLands :
    let s := { base with engs := [(0, { EngS.none with deferred := [⟨3, 64, [1, 2], false⟩] })] }
    s.UnitLive (0 : BitVec 11).toNat 0
    ∧ (∀ c, s.ownerOf (clusterOfEng (0 : BitVec 11).toNat) = some c → s.Calm c)
    ∧ (s.eng 0).deferred.find? (fun d => !s.stillRead 0 d.off d.bytes.length) = some ⟨3, 64, [1, 2], false⟩ :=
  ⟨⟨rfl, rfl, Or.inr rfl⟩, fun _ h => by cases h; rfl, by decide +kernel⟩


/-! ### Witnesses: quantisers, element engines -/

/-- One BF16 element to one row of 4-bit codes. -/
def conv0 : ConvertP :=
  { quantiser := 0, scaleSrc := 0, capture := false, outMode := 0, almCheck := false, statsEn := false, colmaxEn := false
    typeIn := 1, typeOut := 0x0410, almSlot := 0, scaleRegBase := 0, n0 := 1, n1 := 1, srcAddr := 0, srcStride := 2
    dstAddr := 0x1000, dstStride := 64, scaleAddr := 0x2000, listAddr := 0, sideAddr := 0, sideStride := 0
    colmaxAddr := 0, blkAddr := 0, rndStream := 0, elemBase := 0, ldElems := 1, mxScaleAddr := 0 }

def scaleLoad0 : ScaleLoadP := { quantiser := 0, store := false, regBase := 0, count := 4, addr := 0x1000 }

def outlier0 : OutlierP :=
  { quantiser := 0, gap := 1, almSlot := 0, statsEn := false, length := 4, cap := 2, colmaxAddr := 0x1000
    listAddr := 0x2000 }

theorem witness_QuantiserCommandsRun :
    (base.Ready (hdr2 1) ⟨0x300, 1, .context, false⟩
      ∧ (base.dispatched (hdr2 1) 0x300).convertErr (base.ctxOf (hdr2 1)) conv0 = none)
    ∧ (base.Ready (hdr 1) ⟨0x301, 0, .context, false⟩
      ∧ (base.dispatched (hdr 1) 0x301).scaleLoadErr (base.ctxOf (hdr 1)) scaleLoad0 = none)
    ∧ (base.Ready (hdr 1) ⟨0x302, 0, .context, false⟩
      ∧ (base.dispatched (hdr 1) 0x302).outlierErr (base.ctxOf (hdr 1)) outlier0 = none)
    ∧ (let s := { base with qnts := [(0, [3])], flight := [job 3 .plain], gov := [(0, { GovS.none with granted := [.qnt 0] })] }
      inRange (0 : BitVec 7).toNat s.nQnt = true ∧ s.boot.partFault = false ∧ s.boot.running = true
      ∧ s.qntFront (0 : BitVec 7).toNat = some (job 3 .plain)
      ∧ base.qntFront (0 : BitVec 7).toNat = none ∧ (s.qntList 0).head? = some 3 ∧ s.flightOf 3 = some (job 3 .plain)) := by
  and_intros
  all_goals first | exact ready_of (by decide +kernel) | decide +kernel

/-- One element of an Adam update. -/
def upd0 : UpdateP :=
  { elt := 0, opt := 1, remEn := false, typeM := 1, typeV := 1, typeG := 1, typeW := 1, n := 1, wAddr := 0x1000
    remAddr := 0, mAddr := 0x2000, vAddr := 0x3000, gAddr := 0x4000, lr := 0, beta1 := 0, beta2 := 0, eps := 0, wd := 0
    gradScale := 0, bc1 := 0, bc2 := 0, mStream := 0, vStream := 1, elemBase := 0 }

def kern0 : KernelP :=
  { elt := 0, infOk := false, kernelAddr := 0, n := 1, argAddr := 0, elemBase := 0, streams := [0, 0, 0, 0]
    dstAddr := 0, dstLen := 0, streamCount := 0 }

def reg0 : StreamRegP := { unregister := false, stream := 3, base := 0x1000, len := 64 }

theorem witness_ElementCommandsRun :
    (base.Ready (hdr2 1) ⟨0x321, 1, .context, false⟩
      ∧ firstErr ((base.dispatched (hdr2 1) 0x321).chkUpdate (base.ctxOf (hdr2 1)) upd0) = none)
    ∧ (base.Ready (hdr2 1) ⟨0x320, 1, .context, false⟩
      ∧ (base.dispatched (hdr2 1) 0x320).kernelErr (base.ctxOf (hdr2 1)) kern0 true = none)
    ∧ (base.Ready (hdr 1) ⟨0x330, 0, .context, false⟩
      ∧ (base.dispatched (hdr 1) 0x330).streamRegErr (base.ctxOf (hdr 1)) reg0 = none)
    ∧ (let f := { job 3 .plain with cmd := some (.eltUpdate (hdr2 1) upd0) }
      let s := { base with elts := [(0, [3])], flight := [f], gov := [(0, { GovS.none with granted := [.elt 0] })] }
      (s.eltList 0).head? = some 3 ∧ s.flightOf 3 = some f ∧ s.eltFront 0 = some f) := by
  and_intros
  all_goals first | exact ready_of (by decide +kernel) | decide +kernel

/-! ### Witnesses: the fabric and collectives -/

def atomic0 : FabAtomicP := { addr := 0x2000000001000, operand := 1, compare := 0, op := 0, oldAddr := 0x1000 }

/-- A copy of one tile block from part 2. -/
def fabTbc : TbCopyP := { src := 0x2000000000000, dst := 0x200000, count := 1, srcStep := 0, dstStep := 0, check := false }

theorem witness_FabricCommandsRun :
    (base.Ready (hdr 1) ⟨0x400, 0, .context, true⟩
      ∧ firstErr [(base.dispatched (hdr 1) 0x400).chkMove (base.ctxOf (hdr 1)) 6 0x1000 (64 : W64).toNat, chkFabLen 64]
        = none)
    ∧ (base.Ready (hdr 1) ⟨0x401, 0, .context, true⟩
      ∧ firstErr [(base.dispatched (hdr 1) 0x401).chkRead (base.ctxOf (hdr 1)) 4 0x1000 (64 : W64).toNat, chkFabLen 64]
        = none)
    ∧ (base.Ready (hdr 1) ⟨0x402, 0, .context, true⟩
      ∧ firstErr [chkAlign 4 atomic0.addr 8, chkAlign 11 atomic0.oldAddr 8,
        (base.dispatched (hdr 1) 0x402).chkMove (base.ctxOf (hdr 1)) 11 atomic0.oldAddr 8] = none)
    ∧ base.Ready (hdr 1) ⟨0x403, 0, .context, true⟩
    ∧ (base.Ready (hdr 1) ⟨0x404, 0, .context, true⟩
      ∧ (base.dispatched (hdr 1) 0x404).fabTbErr (base.ctxOf (hdr 1)) fabTbc = none) := by
  and_intros
  all_goals first | exact ready_of (by decide +kernel) | decide +kernel

/-- The base state with port 0 up and part 2 in the endpoint cache. -/
def linked : State :=
  { base with
    ports := [(0, { PortS.none with st := .up, lanes := 8 })]
    fab := { base.fab with cache := [2] } }

/-- A packet of part 2 for this part, its ECRC filled in. -/
def pkt (cls : BitVec 4) (fop : BitVec 8) (phase : Nat) : Pkt :=
  let k : Pkt :=
    { cls := cls, pver := 1, fop := fop, dstPart := 0, srcPart := 2, dstCtx := 0, srcCtx := 0, seq := 1, tagSlot := 0
      status := 0, poison := 0, w4 := 0, w5 := BitVec.ofNat 32 (phase * 2 ^ 20), w6 := 8, payload := [], ecrc := 0 }
  { k with ecrc := Pkt.crc k }

/-- A packet sent to part 2 at time 0 and not acknowledged. -/
def unack (retx : Nat) (k : Pkt) : Unacked :=
  { seq := 4, pkt := k, sentAt := 0, retx := retx, flight := 3, lantern := false, port := 0, sent := 0, tag := 0 }

/-- The base state at time `now` with that packet. -/
def sent (now retx : Nat) (k : Pkt) : State :=
  { linked with
    clk := { base.clk with timebase := now }
    fab := { linked.fab with epts := [(2, { EptS.none with unacked := [unack retx k] })] } }

def waiting0 : FabWait := ⟨3, 2, pkt 0 2 0, .put, false⟩

theorem witness_FabricRowsRun :
    (inRange (0 : BitVec 5).toNat linked.nPorts = true
      ∧ linked.takes 0 (pkt 0 1 0) 0 0x01 = true ∧ linked.takes 0 (pkt 0 2 0) 0 0x02 = true
      ∧ linked.takes 0 (pkt 0 3 0) 0 0x03 = true ∧ linked.takes 0 (pkt 1 4 0) 1 0x04 = true
      ∧ linked.fab.cache.contains (pkt 0 1 0).srcPart.toNat = true)
    ∧ (let s := { linked with fab := base.fab }
      s.takes 0 (pkt 0 1 0) 0 0x01 = true ∧ s.fab.cache.contains (pkt 0 1 0).srcPart.toNat = false)
    ∧ linked.takes 0 (pkt 0 1 0) 0 0x02 = false
    ∧ (let s := sent 5 0 (pkt 0 2 0)
      s.unacked (2 : BitVec 16).toNat (4 : W32).toNat = some (unack 0 (pkt 0 2 0))
      ∧ s.now < (unack 0 (pkt 0 2 0)).sentAt + retxNs
      ∧ s.unacked (2 : BitVec 16).toNat (5 : W32).toNat = none
      ∧ s.tied.contains (.e2eRetxTimeout 2 5) = false)
    ∧ (let s := sent retxNs 7 (pkt 0 2 0)
      s.unacked (2 : BitVec 16).toNat (4 : W32).toNat = some (unack 7 (pkt 0 2 0))
      ∧ s.now = (unack 7 (pkt 0 2 0)).sentAt + retxNs ∧ (unack 7 (pkt 0 2 0)).retx < 8
      ∧ s.comes (isAckOf (2 : BitVec 16) (4 : W32)) = false
      ∧ ({ s with pending := [.e2eAck 2 4] } : State).comes (isAckOf (2 : BitVec 16) (4 : W32)) = true
      ∧ ({ s with tied := [.e2eRetxTimeout 2 4] } : State).tied.contains (.e2eRetxTimeout 2 4) = true)
    ∧ (let s := sent (retxNs + 1) 8 (pkt 0 2 0)
      s.unacked (2 : BitVec 16).toNat (4 : W32).toNat = some (unack 8 (pkt 0 2 0))
      ∧ (unack 8 (pkt 0 2 0)).sentAt + retxNs < s.now ∧ 8 ≤ (unack 8 (pkt 0 2 0)).retx)
    ∧ (let s := base.updFab fun f => { f with missOut := [waiting0] }
      s.fab.cache.contains (2 : BitVec 16).toNat = false ∧ s.fab.awaits (2 : BitVec 16).toNat = true
      ∧ base.fab.awaits (2 : BitVec 16).toNat = false)
    ∧ (let s := { base.updFab fun f => { f with missIn := [⟨2, 0, 0, pkt 0 1 0⟩] } with
        boot := { base.boot with partFault := true } }
      s.fab.awaits (2 : BitVec 16).toNat = true ∧ s.fab.missOut = [] ∧ s.fab.missRetx = [])
    ∧ (let s := base.updFab fun f => { f with waiting := [waiting0] }
      s.fab.waiting.find? (fun w => !s.fenced w.flight) = some waiting0 ∧ s.txnFree = true
      ∧ (waiting0.partner == s.ownPart && waiting0.kind != .coll) = false
      ∧ (({ waiting0 with partner := 0 } : FabWait).partner == s.ownPart && waiting0.kind != .coll) = true) := by
  decide +kernel

theorem witness_RemoteAccessesBounded :
    (base.remoteRead 0 64 64).1 = St.ok ∧ 35184372088832 < 35184372088832 + [0#8].length
    ∧ (base.remoteRead 0 0x2000000 64).1 ≠ St.ok
    ∧ (let s := base.setReg .almBase 0 0x100000
      0x100000 + [0#8].length ≤ 35184372088832 ∧ s.dmForbidden 0 0x100000 [0#8].length = true
      ∧ s.dmForbidden 0 0x100000 8 = true ∧ 0x100000 % 8 = 0)
    ∧ (base.dmForbidden 0 0x2000000 [0#8].length = false ∧ (base.page 0 (0x2000000 / 2097152)).st = .unmapped)
    ∧ (let s := { base with pages := [(0, { inHbm 0 with sealed := true }), (1, inHbm 1)] }
      s.dmForbidden 0 64 [0#8].length = false ∧ (s.page 0 (64 / 2097152)).st ≠ .unmapped
      ∧ (s.page 0 (64 / 2097152)).sealed = true ∧ s.dmForbidden 0 64 8 = false
      ∧ 2 ∈ pagesTouched 0x3FFFFF 2 ∧ (s.page 0 2).st = .unmapped) := by decide +kernel

/-- The base state in a group of two parts, this part first: the group table at 4000H of context 0, and at 5000H a
descriptor of both ranks with one slot (0, 1). -/
def grouped : State :=
  let s := (base.setReg .eqxGroupBase 0 0x4000).setReg .eqxGroup 0 2
  let s := s.wr (memStride + 0x4000) (leBytes 4 0 ++ leBytes 4 (65536 + 2)) false
  let s := s.wr (memStride + 0x5000) (leBytes 4 2 ++ leBytes 4 1 ++ leBytes 4 (65536 * 1) ++ leBytes 4 1) false
  { s with ports := linked.ports, fab := linked.fab }

def reduce0 : ReduceP :=
  { die := 0, bucket := 9, typeIn := 1, typeOut := 1, n := 2, partAddr := 0x1000, outAddr := 0x2000, groupAddr := 0x5000
    deadlineUs := 1, recAddr := 0x3000 }

def gather0 : GatherP :=
  { die := 0, bucket := 9, type := 1, n := 2, shardAddr := 0x1000, outAddr := 0x2000, groupAddr := 0x5000 }

/-- The bucket of that reduction, as it is made. -/
def bucket0 : CollS := ReduceP.made 0 3 0 false reduce0 ([0, 1], [(0, 1)]) []

theorem witness_CollectivesRun :
    (grouped.Ready (hdr 1) ⟨0x411, 0, .context, false⟩
      ∧ (grouped.dispatched (hdr 1) 0x411).gatherErr (grouped.ctxOf (hdr 1)) gather0 = none
      ∧ (grouped.dispatched (hdr 1) 0x411).readDesc (grouped.ctxOf (hdr 1)) gather0.groupAddr.toNat
        = some ([0, 1], [(0, 1)])
      ∧ (grouped.dispatched (hdr 1) 0x411).ownRank (grouped.ctxOf (hdr 1)) = some 0)
    ∧ (grouped.Ready (hdr2 1) ⟨0x410, 1, .context, false⟩
      ∧ (grouped.dispatched (hdr2 1) 0x410).reduceErr (grouped.ctxOf (hdr2 1)) reduce0 = none
      ∧ (grouped.dispatched (hdr2 1) 0x410).readDesc (grouped.ctxOf (hdr2 1)) reduce0.groupAddr.toNat
        = some ([0, 1], [(0, 1)])
      ∧ (grouped.dispatched (hdr2 1) 0x410).ownRank (grouped.ctxOf (hdr2 1)) = some 0)
    ∧ (inRange (0 : BitVec 5).toNat linked.nPorts = true ∧ linked.fab.cache.contains (pkt 2 0x10 1).srcPart.toNat = true
      ∧ linked.takes 0 (pkt 2 0x10 1) 2 0x10 = true ∧ Pkt.phase (pkt 2 0x10 1) = 1
      ∧ linked.takes 0 (pkt 2 0x11 2) 2 0x11 = true ∧ Pkt.phase (pkt 2 0x11 2) = 2
      ∧ linked.takes 0 (pkt 2 0x12 3) 2 0x12 = true ∧ Pkt.phase (pkt 2 0x12 3) = 3
      ∧ linked.takes 0 (pkt 2 0x13 4) 2 0x13 = true ∧ Pkt.phase (pkt 2 0x13 4) = 4)
    ∧ (let s := sent 10000 0 (pkt 2 0x10 1)
      (s.ept (2 : BitVec 16).toNat).unacked.find? (fun u => u.seq == (4 : W32).toNat) = some (unack 0 (pkt 2 0x10 1))
      ∧ (unack 0 (pkt 2 0x10 1)).pkt.cls = 2 ∧ (unack 0 (pkt 2 0x10 1)).sentAt + 10000 ≤ s.now)
    ∧ (let x := { bucket0 with armed1 := true, expAt := some 0 }
      let s := { grouped with colls := [x], clk := { base.clk with timebase := 1000 } }
      s.coll (0 : BitVec 6).toNat (9 : BitVec 20).toNat = some x ∧ 1000 ≤ s.now ∧ x.armed1 = true ∧ x.expPassed = false
      ∧ x.expiry x.expAt = some 1000)
    ∧ (let x := { bucket0 with armed3 := true, expPassed := true, conAt := some 0 }
      let s := { grouped with colls := [x], clk := { base.clk with timebase := 1000 } }
      s.coll (0 : BitVec 6).toNat (9 : BitVec 20).toNat = some x ∧ 1000 ≤ s.now ∧ x.armed3 = true ∧ x.expPassed = true
      ∧ x.conPassed = false ∧ x.expiry x.conAt = some 1000) := by
  and_intros
  all_goals first | exact ready_of (by decide +kernel) | decide +kernel

/-! ### Witnesses: the tiers and the flash layer -/

/-- Page 20 of the context, unmapped. -/
def tier (page : Nat) (count : BitVec 24) (target : Bool) : TierP :=
  { target := target, va := BitVec.ofNat 64 (page * 2097152), count := count, dstAddr := 0x1000 }

/-- `rich` with page `page` in a state. -/
def withPage (n : Nat) (x : PageS) : State := { rich with pages := Map.set (fun _ => PageS.none) rich.pages n x }

theorem witness_TierCommandsRun :
    (rich.Ready (hdr 1) ⟨0x500, 0, .context, true⟩
      ∧ (rich.dispatched (hdr 1) 0x500).tierMapErr (rich.ctxOf (hdr 1)) (tier 20 2 false) = none)
    ∧ (rich.Ready (hdr 1) ⟨0x501, 0, .context, true⟩
      ∧ (rich.dispatched (hdr 1) 0x501).tierRangeErr (rich.ctxOf (hdr 1)) (tier 1 2 false) = none)
    ∧ (rich.Ready (hdr 1) ⟨0x502, 0, .context, true⟩
      ∧ (rich.dispatched (hdr 1) 0x502).tierRangeErr (rich.ctxOf (hdr 1)) (tier 1 2 false) = none)
    ∧ (rich.Ready (hdr 1) ⟨0x503, 0, .context, true⟩
      ∧ (rich.dispatched (hdr 1) 0x503).tierUnsealErr (rich.ctxOf (hdr 1)) (tier 1 2 false) = none)
    ∧ (rich.Ready (hdr 1) ⟨0x504, 0, .context, true⟩
      ∧ (rich.dispatched (hdr 1) 0x504).tierMigrateErr (rich.ctxOf (hdr 1)) (tier 1 2 false) = none)
    ∧ (rich.Ready (hdr 1) ⟨0x505, 0, .context, true⟩
      ∧ (rich.dispatched (hdr 1) 0x505).tierQueryErr (rich.ctxOf (hdr 1)) (tier 1 2 false) = none) := by
  and_intros
  all_goals first | exact ready_of (by decide +kernel) | decide +kernel

/-- Context 0 protects page 1. -/
def protected1 : State := rich.updCtx 0 fun x => { x with ranges := [⟨1, 1, false⟩] }

theorem witness_TierChecksDecide :
    (rich.place 0 ({ tier 1 1 false with va := 0x1000000000000 } : TierP).va.toNat = .hole
      ∧ rich.place 0 0xF00000000000 = .sram 0 ∧ rich.ownerOf (0 / 33554432) = some 0
      ∧ rich.place 0 0xF00004000000 = .sram 0x4000000 ∧ rich.ownerOf (0x4000000 / 33554432) ≠ some 0)
    ∧ (0 : Nat) ≠ adminCtx
    ∧ ({ tier 1 1 false with va := 64 } : TierP).va.toNat % 2097152 ≠ 0
    ∧ (let p := tier 16777215 2 false
      p.va.toNat < 35184372088832 ∧ p.va.toNat % 2097152 = 0 ∧ 16777216 < p.va.toNat / 2097152 + p.count.toNat)
    ∧ (tier 1 0 false).count.toNat = 0
    ∧ (let p := tier 1 1 true
      p.va.toNat % 2097152 = 0 ∧ p.va.toNat / 2097152 + p.count.toNat ≤ 16777216 ∧ p.count.toNat ≠ 0
      ∧ 0 < p.count.toNat ∧ (protected1.page 0 (p.va.toNat / 2097152 + 0)).st ≠ .unmapped
      ∧ protected1.protPage 0 (p.va.toNat / 2097152 + 0) = true
      ∧ rich.protPage 0 (p.va.toNat / 2097152 + 0) = false
      ∧ (rich.page 0 (p.va.toNat / 2097152 + 0)).sealed = false ∧ p.target = true
      ∧ ((withPage 1 { inHbm 1 with sealed := true }).page 0 (p.va.toNat / 2097152 + 0)).sealed = true)
    ∧ (let p := tier 16777215 1 false
      p.va.toNat % 2097152 = 0 ∧ p.va.toNat / 2097152 + p.count.toNat = 16777216 ∧ p.count.toNat ≠ 0
      ∧ (∀ n, n < p.count.toNat → (rich.page 0 (p.va.toNat / 2097152 + n)).st = .unmapped)
      ∧ p.target = false ∧ p.dstAddr.toNat % 64 = 0 ∧ ({ p with dstAddr := 8 } : TierP).dstAddr.toNat % 64 ≠ 0)
    ∧ (rich.hbmUse 0 + 1 ≤ (rich.reg .tierQuotaHbm 0).toNat ∧ (base.reg .tierQuotaHbm 0).toNat < base.hbmUse 0 + 1) := by
  decide +kernel

def imgPage (n : Nat) (drained : Bool) : ImgPage :=
  { page := n, frame := n, drained := drained, fpage := 0, chan := 0, segPoison := 0, crc := 0, leaves := [] }

/-- An image of context 0 with page 1. -/
def image0 (st : ImageSt) (drained : Bool) : ImageS :=
  { id := 6, ctx := 0, st := st, epoch := 3, pages := [imgPage 1 drained], extra := [], partId := 0, replica := 0, rank := 0
    streamTab := [], seed := 1, step := 2, cfgDigest := [], root := 0, almCrc := 0, streamCrc := 0, key := true
    wrappedUnder := some 7, quota := 9, header := List.replicate 184 0 ++ leBytes 8 (crc64 (List.replicate 184 0)), marks := [] }

/-- `rich` with that image, a KEK and the regions that a harvest needs. -/
def withImage (st : ImageSt) (drained : Bool) : State :=
  { (rich.setReg .almBase 0 0x400000).setReg .cfgStreamBase 0 0x800000 with
    images := [image0 st drained], sec := { rich.sec with kek := some 7 } }

/-- `rich` with flash channel 0 working. -/
def channelled : State := rich.setReg .ftlChannels 0 1

theorem witness_PageMovesKeepBytes :
    (let x := (withPage 0 { PageS.none with st := .up, frame := 9, fpage := 4 }).page (0 : BitVec 6).toNat (0 : BitVec 24).toNat
     x.st = .up ∧ x.frame < 2 ^ 40 ∧ x.fpage < 2 ^ 40)
    ∧ (let s := { channelled with pages := [(0, { PageS.none with st := .down, frame := 9 })] }
      let x := s.page (0 : BitVec 6).toNat (0 : BitVec 24).toNat
      x.st = .down ∧ x.frame < 2 ^ 40 ∧ s.nextFpage < 2 ^ 40 ∧ s.draining = false ∧ 0 < 32 ∧ s.chanWorks 0 = true)
    ∧ (withImage .draining false).draining = true
    ∧ (rich.page (0 : BitVec 6).toNat (0 : BitVec 24).toNat).st = .hbm := by decide +kernel

theorem witness_FlashLayerRows :
    inRange (0 : BitVec 5).toNat rich.nChan = true
    ∧ ({ rich with ftl := { rich.ftl with scrubs := NatSet.ins 0 [] } } : State).ftl.scrubs.contains (0 : BitVec 5).toNat = true
    ∧ rich.ftl.scrubs.contains (0 : BitVec 5).toNat = false
    ∧ rich.ftl.readOnly = false ∧ ({ rich with ftl := { rich.ftl with readOnly := true } } : State).ftl.readOnly = true
    ∧ channelled.chanWorks (0 : BitVec 5).toNat = true ∧ rich.chanWorks (0 : BitVec 5).toNat = false
    ∧ (let e : Nat × PageS := (0, { PageS.none with st := .flash, fpage := 4, chan := 0 })
      let s := { channelled with pages := [e], images := [image0 .draining false] }
      s.chanWorks (0 : BitVec 5).toNat = true ∧ e ∈ s.pages ∧ e.2.chan = (0 : BitVec 5).toNat ∧ e.2.st = .flash
      ∧ ∀ m ∈ s.images, m.st = .draining → ∀ p ∈ m.pages, p.drained = false → p.frame < 2 ^ 40) := by
  decide +kernel

theorem witness_StepCopyEnds :
    (let x := (withPage 0 { inHbm 9 with copying := some 12 }).page (0 : BitVec 6).toNat (0 : BitVec 24).toNat
     x.copying = some 12 ∧ 12 < 2 ^ 40 ∧ x.frame < 2 ^ 40 ∧ 12 ≠ x.frame ∧ x.waits = [])
    ∧ (let w : WaitStore := ⟨some 3, 0x100, [1, 2], false⟩
      let s := { withPage 0 { inHbm 9 with copying := some 12, waits := [w] } with flight := [job 3 .plain] }
      (s.page (0 : BitVec 6).toNat (0 : BitVec 24).toNat).waits = [] ++ [w] ∧ w.poison = false
      ∧ s.flightOf 3 = some (job 3 .plain) ∧ (job 3 .plain).status = St.ok
      ∧ Apart (physFrame 12 0x102) (physFrame 12 (w.addr % 2097152)) w.bytes.length)
    ∧ (rich.page (0 : BitVec 6).toNat (0 : BitVec 24).toNat).copying = none ∧ rich.boot.partFault = false := by
  unfold Apart
  decide +kernel

theorem witness_FirstWriteMakesAStepCopy :
    let x := protected1.page 0 (0x200000 / 2097152)
    x.st = .hbm ∧ x.sealed = false ∧ x.waits = [] ∧ x.copying = none ∧ x.creditWait = false
    ∧ protected1.needsCopy 0 (0x200000 / 2097152) = true
    ∧ protected1.hbmUse 0 < (protected1.reg .tierQuotaHbm 0).toNat
    ∧ (let s := protected1.setReg .tierQuotaHbm 0 8
      s.needsCopy 0 (0x200000 / 2097152) = true ∧ (s.page 0 (0x200000 / 2097152)).st = .hbm
      ∧ (s.reg .tierQuotaHbm 0).toNat ≤ s.hbmUse 0 ∧ s.frameHeld 0 1 = false)
    ∧ (let s := { protected1 with images := [image0 .draining false] }
      s.needsCopy 0 (0x200000 / 2097152) = true ∧ s.frameHeld 0 x.frame = true
      ∧ (s.reg .eqxCredits 0).toNat ≤ (s.ctx 0).creditsHeld.length
      ∧ (s.setReg .eqxCredits 0 1).frameHeld 0 x.frame = true
      ∧ ¬ ((s.setReg .eqxCredits 0 1).reg .eqxCredits 0).toNat ≤ ((s.setReg .eqxCredits 0 1).ctx 0).creditsHeld.length
      ∧ (s.setReg .eqxCredits 0 1).hbmUse 0 < ((s.setReg .eqxCredits 0 1).reg .tierQuotaHbm 0).toNat) := by
  decide +kernel

/-! ### Witnesses: the Equinox -/

/-- `grouped` with context 0 in a phase. -/
def inPhase (p : EqxPhase) : State := grouped.updCtx 0 fun x => { x with phase := p }

def prot0 : ProtectP := { unprotect := false, digest := false, va := 0x200000, count := 1 }

/-- A member's record of an epoch. -/
def rec0 (epoch : W64) : ExRec :=
  { epoch := epoch, digest := 0, nonfinite := false, poison := false, reductionMissing := false, copyQuota := false
    ckptReady := false, alm := [] }

theorem witness_EquinoxRuns :
    (grouped.Ready (hdr 1) ⟨0x510, 0, .context, false⟩
      ∧ (grouped.dispatched (hdr 1) 0x510).barrierErr (grouped.ctxOf (hdr 1)) = none)
    ∧ (base.Ready (hdr 1) ⟨0x511, 0, .context, false⟩
      ∧ (base.dispatched (hdr 1) 0x511).protectErr (base.ctxOf (hdr 1)) prot0 = none)
    ∧ ((inPhase .held).Ready (hdr 1) ⟨0x512, 0, .context, true⟩
      ∧ (((inPhase .held).dispatched (hdr 1) 0x512).ctx ((inPhase .held).ctxOf (hdr 1))).phase = .held)
    ∧ (base.Ready (hdr 1) ⟨0x512, 0, .context, true⟩
      ∧ ((base.dispatched (hdr 1) 0x512).ctx (base.ctxOf (hdr 1))).phase ≠ .held)
    ∧ (((inPhase .drain).ctx (0 : BitVec 6).toNat).phase = .drain ∧ (inPhase .drain).drained (0 : BitVec 6).toNat = true)
    ∧ (let s := (inPhase .exchange).setReg .eqxTimeout 0 1
      s.answers (0 : BitVec 6).toNat = true ∧ s.ownRank (0 : BitVec 6).toNat ≠ some (1 : BitVec 16).toNat
      ∧ (s.unfenced (0 : BitVec 6).toNat).contains (1 : BitVec 16).toNat = true
      ∧ ((s.ctx (0 : BitVec 6).toNat).records.any fun p => p.1 == (1 : BitVec 16).toNat) = false
      ∧ (s.ctx (0 : BitVec 6).toNat).phase ≠ .held ∧ s.now < s.eqxExpiry (0 : BitVec 6).toNat
      ∧ s.tied.contains (.eqxTimeout 0) = false)
    ∧ (((inPhase .held).ctx (0 : BitVec 6).toNat).phase = .held
      ∧ ((inPhase .held).ctx (0 : BitVec 6).toNat).lateRecs.contains (1 : BitVec 16).toNat = false
      ∧ (((inPhase .held).updCtx 0 fun x => { x with lateRecs := [1] }).ctx (0 : BitVec 6).toNat).lateRecs.contains
          (1 : BitVec 16).toNat = true)
    ∧ (let s := (inPhase .exchange).setReg .eqxTimeout 0 0
      (s.ctx (0 : BitVec 6).toNat).phase = .exchange ∧ s.boot.partFault = false
      ∧ s.eqxExpiry (0 : BitVec 6).toNat ≤ s.now ∧ s.eqxExpiry (0 : BitVec 6).toNat = s.now
      ∧ s.comes (isRecordOf (0 : BitVec 6)) = false
      ∧ ({ s with pending := [.eqxRecordReceive 0 1 (rec0 1)] } : State).comes (isRecordOf (0 : BitVec 6)) = true
      ∧ ({ s with clk := { s.clk with timebase := 5 } } : State).eqxExpiry (0 : BitVec 6).toNat < 5)
    ∧ (let s := { base with clk := { base.clk with syncEnd := some 0 } }
      s.clk.syncEnd = some 0 ∧ 0 ≤ s.now)
    ∧ (let s := inPhase .digest
      (s.ctx (0 : BitVec 6).toNat).phase = .digest ∧ s.ownRank (0 : BitVec 6).toNat = some 0
      ∧ ((s.ctx (0 : BitVec 6).toNat).roots.any fun p => p.1 == 0) = false
      ∧ s.answers (0 : BitVec 6).toNat = true
      ∧ ((s.ctx (0 : BitVec 6).toNat).roots.any fun p => p.1 == (1 : BitVec 16).toNat) = false) := by
  and_intros
  all_goals first | exact ready_of (by decide +kernel) | decide +kernel

theorem witness_DecideTakesTheFirstRow :
    (∃ a ∈ [(0, rec0 1), (1, rec0 2)].map (fun p : Nat × ExRec => p.2.epoch.toNat),
      ∃ b ∈ [(0, rec0 1), (1, rec0 2)].map (fun p : Nat × ExRec => p.2.epoch.toNat), a ≠ b)
    ∧ (let recs : List (Nat × ExRec) := [(0, rec0 1), (1, { rec0 1 with digest := 5 })]
      (∀ a ∈ recs.map (fun p => p.2.epoch.toNat), ∀ b ∈ recs.map (fun p => p.2.epoch.toNat), a = b)
      ∧ ∃ p ∈ recs, ∃ q ∈ recs, p.2.digest ≠ q.2.digest)
    ∧ (let recs : List (Nat × ExRec) := [(0, rec0 1), (1, { rec0 1 with poison := true })]
      (∀ a ∈ recs.map (fun p => p.2.epoch.toNat), ∀ b ∈ recs.map (fun p => p.2.epoch.toNat), a = b)
      ∧ (∀ p ∈ recs, ∀ q ∈ recs, p.2.digest = q.2.digest)
      ∧ ∃ p ∈ recs, p.2.nonfinite = true ∨ p.2.poison = true ∨ p.2.reductionMissing = true ∨ p.2.copyQuota = true)
    ∧ (let recs : List (Nat × ExRec) := [(0, rec0 1), (1, rec0 1)]
      (∀ p ∈ recs, ∀ q ∈ recs, p.2.digest = q.2.digest)
      ∧ ∀ p ∈ recs, p.2.nonfinite = false ∧ p.2.poison = false ∧ p.2.reductionMissing = false ∧ p.2.copyQuota = false) := by
  decide +kernel

theorem witness_MajoritiesAreRight : [3, 3, 2] ≠ [] ∧ majorityEpoch [3, 3, 2] = 3 ∧ majorityEpoch [3, 2] = 2
    ∧ majorityRoot [(0, 5), (1, 5), (2, 6)] = some 5 ∧ majorityRoot [(0, 5), (1, 5)] = none := by decide +kernel

/-! ### Witnesses: images -/

theorem witness_ImagesRun :
    ((withImage .sealed true).Ready (hdr 1) ⟨0x513, 0, .context, true⟩
      ∧ ((withImage .sealed true).dispatched (hdr 1) 0x513).imageListErr ((withImage .sealed true).ctxOf (hdr 1)) 0x1000
        = none)
    ∧ ((withImage .sealed true).Ready (hdr 1) ⟨0x514, 0, .context, true⟩
      ∧ ((withImage .sealed true).dispatched (hdr 1) 0x514).imageOf ((withImage .sealed true).ctxOf (hdr 1)) 6
        = some (image0 .sealed true))
    ∧ ((withImage .sealed true).Ready (hdr 1) ⟨0x515, 0, .context, true⟩
      ∧ ((withImage .sealed true).dispatched (hdr 1) 0x515).harvestErr (withImage .sealed true).nextId
        ((withImage .sealed true).ctxOf (hdr 1)) 6 = none)
    ∧ (let s := { withImage .sealed true with flight := [job 3 (.harvest 6)] }
      (s.ctxFlights (0 : BitVec 6).toNat).find? (fun f => match f.work with | .harvest _ => !f.finished | _ => false)
        = some (job 3 (.harvest 6))
      ∧ (job 3 (.harvest 6)).work = .harvest 6 ∧ s.image 6 = some (image0 .sealed true)
      ∧ s.regionFault (0 : BitVec 6).toNat (image0 .sealed true) = none
      ∧ ({ s with pages := [] } : State).regionFault (0 : BitVec 6).toNat (image0 .sealed true) = some St.unmapped)
    ∧ (let s := withImage .draining false
      s.image (6 : W32).toNat = some (image0 .draining false) ∧ (image0 .draining false).st = .draining
      ∧ (image0 .draining false).pages.find? (fun x => x.page == (1 : BitVec 24).toNat) = some (imgPage 1 false)
      ∧ (imgPage 1 false).drained = false
      ∧ (s.drainNext (image0 .draining false)).contains (imgPage 1 false).page = true
      ∧ channelled.chanWorks 0 = true
      ∧ s.ftl.readOnly = false ∧ ({ s with ftl := { s.ftl with readOnly := true } } : State).ftl.readOnly = true)
    ∧ (let s := withImage .draining true
      s.image (6 : W32).toNat = some (image0 .draining true) ∧ s.sec.kek = some 7 ∧ (image0 .draining true).key = true
      ∧ s.ftl.readOnly = false ∧ ({ s with ftl := { s.ftl with readOnly := true } } : State).ftl.readOnly = true
      ∧ ∀ p ∈ (image0 .draining true).pages, p.drained = true) := by
  and_intros
  all_goals first | exact ready_of (by decide +kernel) | decide +kernel

/-! ### Witnesses: transactions, queues, completion -/

/-- A transaction of queue 1. -/
def txn0 (st : TxnSt) (changes : List Change) : Txn :=
  { id := 8, queue := 1, ctx := 0, changes := changes, st := st, idle := st == .pending, group := st == .voting, txnId := 5
    voteUs := 1, flight := 3, own := 0, votedAt := 0 }

def withTxn (x : Txn) : State := { grouped with txns := [x] }

def commit0 : CommitP := { idle := false, group := false, txnId := 5, voteUs := 0 }

def almWrite0 : AlmWriteP :=
  { slot := 1, clearFlags := false, setWidth := true, setConfig := true, widthMin := 2, widthMax := 8, width := 4
    adaptEn := false, blkStorm := false, thrHi := 0, thrLo := 0, stormThr := 0, lowSteps := 1 }

/-- A write of EQX_TIMEOUT of context 0. -/
def cfgWrite0 (a : W64) (wide : Bool) : CfgWriteP := { addr := a, wide := wide, value := 1, mask := 1 }

/-- The base state with a queue 2 that is a member of calendar 0. -/
def calendar : State :=
  { base with
    queues := [(0, adminQueue), (1, work),
      (2, { work with calMember := true, cal := 0, member := 0 })]
    txns := [txn0 .opened []] }

def calLoad0 : CalLoadP := { cal := 0, length := 1, loopEnd := 1, loopStart := 0, loopCount := 0, addr := 0x1000 }

/-- `grouped` with the context in HELD, its own rank fenced and the transaction open. -/
def held0 : State :=
  (withTxn (txn0 .opened [])).updCtx 0 fun x => { x with phase := .held, fence := NatSet.ins 0 [] }

theorem witness_TransactionCommandsRun :
    (base.Ready (hdr 1) ⟨0x600, 0, .any, true⟩
      ∧ (base.dispatched (hdr 1) 0x600).openTxn (hdr 1).ring.toNat = none
      ∧ (base.dispatched (hdr 1) 0x600).txns.length < 64)
    ∧ (let s := withTxn (txn0 .opened [])
      s.Ready (hdr 1) ⟨0x600, 0, .any, true⟩
      ∧ ((s.dispatched (hdr 1) 0x600).openTxn (hdr 1).ring.toNat).isSome = true
      ∧ s.Ready (hdr 1) ⟨0x602, 0, .any, true⟩
      ∧ (s.dispatched (hdr 1) 0x602).openTxn (hdr 1).ring.toNat = some (txn0 .opened [])
      ∧ s.Ready (hdr 1) ⟨0x603, 0, .any, true⟩
      ∧ (s.dispatched (hdr 1) 0x603).openTxn (hdr 1).ring.toNat = some (txn0 .opened [])
      ∧ (s.dispatched (hdr 1) 0x603).commitBad (s.ctxOf (hdr 1)) (txn0 .opened []) commit0 = false
      ∧ (txn0 .opened []).changes.length < 8192
      ∧ s.Ready (hdr 1) ⟨0x601, 0, .any, true⟩
      ∧ (s.dispatched (hdr 1) 0x601).openTxn (hdr 1).ring.toNat = some (txn0 .opened [])
      ∧ s.Ready (hdr 1) ⟨0x310, 0, .context, true⟩
      ∧ firstErr ((s.dispatched (hdr 1) 0x310).slotWriteChecks (s.ctxOf (hdr 1)) almWrite0) = none
      ∧ s.Ready (hdr 1) ⟨0x430, 0, .context, true⟩)
    ∧ (let s := held0
      s.Ready (hdr 1) ⟨0x431, 0, .context, true⟩
      ∧ (s.dispatched (hdr 1) 0x431).openTxn (hdr 1).ring.toNat = some (txn0 .opened [])
      ∧ (s.dispatched (hdr 1) 0x431).canRejoin (s.ctxOf (hdr 1)) = true)
    ∧ (calendar.Ready (hdr 1) ⟨0x610, 0, .context, true⟩
      ∧ (calendar.dispatched (hdr 1) 0x610).openTxn (hdr 1).ring.toNat = some (txn0 .opened [])
      ∧ firstErr ((calendar.dispatched (hdr 1) 0x610).calLoadChecks (calendar.ctxOf (hdr 1)) calLoad0) = none) := by
  and_intros
  all_goals first | exact ready_of (by decide +kernel) | decide +kernel

/-- The packet of a vote or decision of transaction 5 with the words `ws`, its ECRC filled in. -/
def mgmtPkt (fop : BitVec 8) (ws : List W32) : Pkt :=
  let k := { pkt 3 fop 0 with payload := List.replicate (64 - 4 * ws.length) 0 }
  { k with ecrc := Pkt.crc (Pkt.leading ws k) }

theorem witness_TransactionRowsRun_packets :
    inRange (0 : BitVec 5).toNat linked.nPorts = true
    ∧ linked.fab.cache.contains (mgmtPkt 1 [5, 0]).srcPart.toNat = true ∧ (mgmtPkt 1 [5, 0]).dstCtx = 0
    ∧ linked.takes 0 (Pkt.leading [5, 0] (mgmtPkt 1 [5, 0])) 3 0x01 = true
    ∧ linked.takes 0 (Pkt.leading [5] (mgmtPkt 2 [5])) 3 0x02 = true
    ∧ linked.tied.contains (.voteTimeout 0 5) = false ∧ linked.tied.contains (.decisionWaitTimeout 0 5) = false := by
  decide +kernel

theorem witness_TransactionRowsRun :
    (let s := withTxn (txn0 .pending [])
     s.boot.phase = .ready ∧ (s.txns.any fun t => t.id == 8 && s.idlePoint t) = true)
    ∧ (let s := withTxn (txn0 .voting [])
      s.answers (0 : BitVec 6).toNat = true ∧ s.coordinates (0 : BitVec 6).toNat = true
      ∧ s.voting (0 : BitVec 6).toNat 5 = some (txn0 .voting [])
      ∧ (s.ctx (0 : BitVec 6).toNat).overdue.find? (fun o => o.1 == 5 && o.2.1 == 1) = none
      ∧ ((s.updCtx 0 fun x => { x with overdue := [(5, 1, true)] }).ctx (0 : BitVec 6).toNat).overdue.find?
          (fun o => o.1 == 5 && o.2.1 == 1) = some (5, 1, true)
      ∧ s.now < (txn0 .voting []).votedAt + (txn0 .voting []).voteUs * 1000
      ∧ s.now < (txn0 .voting []).votedAt + ((txn0 .voting []).voteUs + 1000) * 1000)
    ∧ (let s := { withTxn (txn0 .voting []) with clk := { base.clk with timebase := 1001000 } }
      s.answers (0 : BitVec 6).toNat = true ∧ s.coordinates (0 : BitVec 6).toNat = true
      ∧ s.voting (0 : BitVec 6).toNat 5 = some (txn0 .voting [])
      ∧ (txn0 .voting []).votedAt + (txn0 .voting []).voteUs * 1000 ≤ s.now
      ∧ (txn0 .voting []).votedAt + ((txn0 .voting []).voteUs + 1000) * 1000 ≤ s.now) := by decide +kernel

def create0 : QueueCreateP :=
  { queue := 2, context := 0, priv := false, calMember := false, member := 0, cal := 0, pver := 1, ringLog2 := 6
    cplLog2 := 6, ringBase := 0, cplBase := 0x10000, maxInflight := 1, msix := 0 }

def assign0 (release : Bool) : CtxAssignP := { context := 0, release := release, mask := if release then 1 else 4 }

def select0 : CntSelectP :=
  { die := 0, counter := 0, enable := true, event := 1, qualifier := 0, ctxEn := true, ctx := 0 }

theorem witness_AdminCommandsRun :
    (admin.Ready (hdr 0) ⟨0x620, 0, .admin, false⟩ ∧ (admin.dispatched (hdr 0) 0x620).queueCreateErr create0 = none)
    ∧ (admin.Ready (hdr 0) ⟨0x621, 0, .admin, false⟩
      ∧ (admin.dispatched (hdr 0) 0x621).queueDestroyErr (1 : BitVec 15).toNat = none)
    ∧ (admin.Ready (hdr 0) ⟨0x622, 0, .admin, false⟩ ∧ (admin.dispatched (hdr 0) 0x622).ctxAssignErr (assign0 false) = none
      ∧ (assign0 false).release = false)
    ∧ ((admin.dispatched (hdr 0) 0x622).ctxAssignErr (assign0 true) = none ∧ (assign0 true).release = true)
    ∧ (base.Ready (hdr 1) ⟨0x702, 0, .any, false⟩
      ∧ (base.dispatched (hdr 1) 0x702).cntSelectErr (hdr 1).ring.toNat (base.ctxOf (hdr 1)) select0 = none) := by
  and_intros
  all_goals first | exact ready_of (by decide +kernel) | decide +kernel

/-- A command whose work is over. -/
def over0 (w : Work) : Flight := { job 3 w with finished := true }

theorem witness_CompletionWaitsForEffects :
    (let s := { base with flight := [job 3 .plain] }
     s.flightOf 3 = some (job 3 .plain) ∧ (job 3 .plain).finished = false)
    ∧ (let s := { base with flight := [over0 .plain] }
      s.flightOf 3 = some (over0 .plain) ∧ (over0 .plain).finished = true ∧ s.waitingStores 3 = false
      ∧ s.boot.running = true ∧ (s.lastWork (over0 .plain)).isSome = true)
    ∧ (let s := { base with flight := [job 2 .plain, over0 (.fabFence [2])] }
      s.flightOf 3 = some (over0 (.fabFence [2])) ∧ s.lastWork (over0 (.fabFence [2])) = none) := by decide +kernel

/-! ### Witnesses: ports -/

/-- The base state with port 0 in a state. -/
def portIn (p : PortS) : State := { base with ports := [(0, p)] }

theorem witness_PortsComeUp :
    (inRange (0 : BitVec 5).toNat base.nPorts = true ∧ base.boot.phase = .ready
      ∧ (base.port (0 : BitVec 5).toNat).st = .disabled)
    ∧ (let s := portIn { PortS.none with st := .train }
      inRange (0 : BitVec 5).toNat s.nPorts = true ∧ (s.port (0 : BitVec 5).toNat).st = .train
      ∧ (s.port (0 : BitVec 5).toNat).st ≠ .disabled
      ∧ lanesOf (s.goodLanes (0 : BitVec 5).toNat (255 : BitVec 8).toNat) ≠ 0
      ∧ lanesOf (s.goodLanes (0 : BitVec 5).toNat (7 : BitVec 8).toNat) = 0
      ∧ (s.port (0 : BitVec 5).toNat).attempts < 3)
    ∧ (let s := { portIn { PortS.none with st := .train, attempts := 3 } with
        clk := { base.clk with timebase := 500000000 } }
      (s.port (0 : BitVec 5).toNat).st = .train ∧ (s.port (0 : BitVec 5).toNat).enteredAt + 500000000 ≤ s.now
      ∧ 3 ≤ (s.port (0 : BitVec 5).toNat).attempts)
    ∧ (let s := { portIn { PortS.none with st := .align } with clk := { base.clk with timebase := 10000000 } }
      (s.port (0 : BitVec 5).toNat).st = .align ∧ (s.port (0 : BitVec 5).toNat).aligned = false
      ∧ (s.port (0 : BitVec 5).toNat).enteredAt + 10000000 ≤ s.now)
    ∧ (let s := { portIn { PortS.none with st := .negotiate } with clk := { base.clk with timebase := 10000000 } }
      (s.port (0 : BitVec 5).toNat).st = .negotiate ∧ (s.port (0 : BitVec 5).toNat).enteredAt + 10000000 ≤ s.now
      ∧ (s.port (0 : BitVec 5).toNat).capNext ≤ s.now)
    ∧ (let s := portIn { PortS.none with st := .negotiate, capNext := 1000 }
      (s.port (0 : BitVec 5).toNat).st = .negotiate ∧ s.now < (s.port (0 : BitVec 5).toNat).capNext) := by
  decide +kernel

def cap (vmin : BitVec 8) (d : W64) : CapFlit :=
  { vmin := vmin, vmax := 2, switchPort := false, partId := 2, digest := d, encrypt := false, lanes := 8, keyOk := true }

theorem witness_CheckDecidesUpOrQuarantine :
    (let s := portIn { PortS.none with st := .negotiate }
     inRange (0 : BitVec 5).toNat s.nPorts = true ∧ (s.port (0 : BitVec 5).toNat).st = .negotiate
     ∧ ((s.fld .ngfPortCtrl (0 : BitVec 5).toNat 2 2 == 1) && (cap 1 0).encrypt) = false
     ∧ ((portIn { PortS.none with st := .negotiate }).setReg .ngfPortCtrl 0 4).fld .ngfPortCtrl (0 : BitVec 5).toNat 2 2 = 1
     ∧ ({ cap 1 0 with encrypt := true, keyOk := false } : CapFlit).encrypt = true
     ∧ 1 < (cap 2 0).vmin.toNat ∧ (cap 1 0).vmin.toNat ≤ 1 ∧ 1 ≤ (cap 1 0).vmax.toNat ∧ (cap 1 0).keyOk = true
     ∧ ((cap 1 0).digest = s.reg .ngfFabDigest 0
      ∧ (cap 1 0).encrypt = (s.fld .ngfPortCtrl (0 : BitVec 5).toNat 2 2 == 1))
     ∧ ¬ ((cap 1 9).digest = s.reg .ngfFabDigest 0
      ∧ (cap 1 9).encrypt = (s.fld .ngfPortCtrl (0 : BitVec 5).toNat 2 2 == 1)))
    ∧ (linked.port (0 : BitVec 5).toNat).st = .up := by decide +kernel

/-- A flit of a type, its CRC filled in. -/
def flit (ftype : Nat) (n a : BitVec 12) : Flit :=
  let f : Flit :=
    { fseq := n, ackseq := a, vc := 1, credits := 0, creditVc := 0, firstPkt := 0, payload := [], fcrc := 0, tag := 0 }
  { f with fcrc := Flit.crc ftype f }

theorem witness_CheckDecidesUpOrQuarantine_control :
    let f := { flit flitControl 0 0 with fcrc := 0 }
    (linked.port (0 : BitVec 5).toNat).sound 0 flitControl (flit flitControl 0 0) = true
    ∧ (linked.port (0 : BitVec 5).toNat).sound 0 flitControl f = false
    ∧ (let bs := (linked.port (0 : BitVec 5).toNat).clear 0 flitControl (flit flitControl 0 0)
      BitVec.ofNat 64 (ofLeBytes (bs.take 8)) = linked.reg .ngfFabDigest 0
      ∧ (ofLeBytes ((bs.drop 8).take 1) % 2 == 1) = (linked.port (0 : BitVec 5).toNat).encrypt
      ∧ BitVec.ofNat 64 (ofLeBytes (bs.take 8)) ≠ (linked.setReg .ngfFabDigest 0 9).reg .ngfFabDigest 0) := by
  decide +kernel

theorem witness_FlitRowsRun :
    (inRange (0 : BitVec 5).toNat linked.nPorts = true ∧ (linked.port (0 : BitVec 5).toNat).st = .up
      ∧ (linked.port (0 : BitVec 5).toNat).queued = []
      ∧ (linked.port (0 : BitVec 5).toNat).sound 0 flitData (flit flitData 0 0) = true
      ∧ (linked.port (0 : BitVec 5).toNat).sound 0 flitData { flit flitData 0 0 with vc := 2 } = false
      ∧ (linked.port (0 : BitVec 5).toNat).sound 0 flitAck (flit flitAck 0 4) = true
      ∧ (linked.port (0 : BitVec 5).toNat).sound 0 flitNak (flit flitNak 0 4) = true
      ∧ (flit flitData 0 0).fseq.toNat = (linked.port (0 : BitVec 5).toNat).rxNext
      ∧ (flit flitData 3 0).fseq.toNat ≠ (linked.port (0 : BitVec 5).toNat).rxNext)
    ∧ (let d := fun n => flit flitData n 0
      let p := { PortS.none with st := .up, replay := [d 5, d 6], replayFrom := 5, replayCount := 15 }
      freeReplay 4 p.replay = [d 5, d 6]
      ∧ (([d 5, d 6].length = p.replay.length ∧ (d 5).fseq.toNat = p.replayFrom) ∧ 15 ≤ p.replayCount)
      ∧ freeReplay 5 p.replay = [d 6]
      ∧ ¬ ([d 6].length = p.replay.length ∧ (d 6).fseq.toNat = p.replayFrom)
      ∧ ¬ (15 ≤ { p with replayCount := 14 }.replayCount)) := by decide +kernel

/-! ### Witnesses: clocks, the governor, ageing, thermal limits, faults -/

/-- The machine in phase ROM. -/
def inRom (locked : Bool) : State :=
  { State.reset with boot := { State.reset.boot with phase := .rom, porst := true, pllLocked := locked, running := locked } }

/-- The base state at a time. -/
def at' (t : Nat) : State := { base with clk := { base.clk with timebase := t, delivered := t } }

theorem witness_ClockRowsRun :
    ((inRom false).boot.phase = .rom ∧ (inRom false).boot.pllLocked = false)
    ∧ (base.boot.phase ≠ .off ∧ base.boot.phase ≠ .failed)
    ∧ (let s := at' 64
      inRange (0 : BitVec 7).toNat s.nClus = true ∧ s.boot.running = true
      ∧ ((clusterUnits (0 : BitVec 7).toNat).any fun u =>
          s.unitBusy (dieOfClus (0 : BitVec 7).toNat) u || s.grantedTo (dieOfClus (0 : BitVec 7).toNat) u) = false
      ∧ (s.clusClk (0 : BitVec 7).toNat).lastBusy + 64 ≤ s.clusCycles (0 : BitVec 7).toNat)
    ∧ (base.setReg .clkPpsCtrl 0 1).fld .clkPpsCtrl 0 0 0 = 1 := by decide +kernel

def withGov (g : GovS) : State := { at' 64 with gov := [(0, g)] }

theorem witness_GovernorRowsRun :
    (inRange (0 : BitVec 3).toNat base.dies = true ∧ base.boot.running = true ∧ base.shut = false
      ∧ (base.govOf (0 : BitVec 3).toNat).emergDue = false ∧ (base.govOf (0 : BitVec 3).toNat).brake = none
      ∧ base.tickDue (0 : BitVec 3).toNat = false ∧ (at' 100).tickDue (0 : BitVec 3).toNat = true
      ∧ ((withGov { GovS.none with emergDue := true }).govOf (0 : BitVec 3).toNat).emergDue = true
      ∧ ((withGov { GovS.none with brake := some ⟨500, 3⟩ }).govOf (0 : BitVec 3).toNat).brake = some ⟨500, 3⟩
      ∧ (inRom false).boot.running = false ∧ base.boot.warming = false
      ∧ ({ base with boot := { base.boot with warming := true } } : State).boot.warming = true)
    ∧ (∀ u ∈ [GovUnit.engine 255, .elt 31, .qnt 15, .coll],
        let s := withGov { GovS.none with granted := [u] }
        s.grantedTo (0 : BitVec 3).toNat u = true
        ∧ (s.govOf (0 : BitVec 3).toNat).asking.contains u = false
        ∧ s.unitBusy (0 : BitVec 3).toNat u = false ∧ 64 ≤ s.idleCycles (0 : BitVec 3).toNat u)
    ∧ (let s := withGov { GovS.none with emergUntil := some 5 }
      (s.govOf (0 : BitVec 3).toNat).emergUntil = some 5 ∧ 5 ≤ s.now) := by decide +kernel

def withAge (t : Nat) (a : AgeS) : State := { at' t with ages := [(0, a)] }

theorem witness_GovernorWavesAreBounded :
    (0 : Nat) < 10 ∧ (∃ u ∈ ([.coll, .engine 0] : List GovUnit), govWeight u ≤ 20)
    ∧ (releaseWave [.engine 0, .coll] 20 10).getLast? = some (.engine 0)
    ∧ (releaseFit [.coll, .engine 0] 20 10).getLast? = some (.engine 0) := by decide +kernel

theorem witness_AgeingRowsRun :
    (let s := withAge 5 { AgeS.none with guardMv := some 20 }
     inRange (0 : BitVec 3).toNat s.dies = true ∧ s.boot.running = true ∧ s.boot.phase = .ready
     ∧ (s.ageOf (0 : BitVec 3).toNat).measuring = none ∧ (s.ageOf (0 : BitVec 3).toNat).due ≤ s.now
     ∧ s.thermOf (0 : BitVec 3).toNat ≠ .throttle ∧ (inRom true).boot.phase ≠ .ready)
    ∧ (let s := { withAge 600000000000 AgeS.none with therm := [(0, .throttle)] }
      s.thermOf (0 : BitVec 3).toNat = .throttle ∧ (s.ageOf (0 : BitVec 3).toNat).due + 600000000000 ≤ s.now)
    ∧ (let s := withAge 2000000 { AgeS.none with guardMv := some 49, measuring := some 0 }
      (s.ageOf (0 : BitVec 3).toNat).measuring = some 0 ∧ 0 + 2000000 ≤ s.now ∧ s.guardMv (0 : BitVec 3).toNat < 50
      ∧ (s.ageOf (0 : BitVec 3).toNat).exhausted = false
      ∧ ((s.exhaust 0).ageOf (0 : BitVec 3).toNat).exhausted = true)
    ∧ 50 ≤ (withAge 0 { AgeS.none with guardMv := some 50 }).guardMv (0 : BitVec 3).toNat := by decide +kernel

theorem witness_ThermalLevelsHaveHysteresis :
    Therm.normal ≠ .shutdown ∧ Therm.next .normal 459 = .trip ∧ Therm.next .trip 360 = .trip
    ∧ Therm.next .normal 379 = .normal ∧ Therm.next .throttle 379 = .throttle ∧ Therm.next .normal 380 = .throttle
    ∧ Therm.next .throttle 419 = .throttle ∧ Therm.next .throttle 420 = .trip
    ∧ Therm.next .trip 359 = .normal ∧ Therm.next .normal 460 = .shutdown ∧ Therm.next .shutdown 80 = .shutdown
    ∧ base.boot.phase ≠ .off ∧ base.boot.aon = true ∧ 0 < base.dies := by decide +kernel

/-- A record of a failure in power cycle 0. -/
def failed0 : FaultRec := { kind := 2, permanent := false, index := 4, failCount := 1, lastPc := 0, prevPc := 0 }

theorem witness_FaultsEndWork :
    base.boot.phase = .ready ∧ base.boot.partFault = false ∧ (base.ctx (0 : BitVec 6).toNat).terminated = false
    ∧ base.hasLink (0 : BitVec 5).toNat = true ∧ inRange (0 : BitVec 3).toNat base.dies = true
    ∧ (let s := { base with hist := { base.hist with faults := [failed0, { failed0 with index := 5, permanent := true }], pc := 1 } }
      s.hist.faults.length ≤ historyRecords ∧ s.permanent 2 5 = true
      ∧ s.hist.faults.find? (fun r => r.kind == 2 && r.index == 4) = some failed0 ∧ failed0.lastPc ≠ s.hist.pc) := by
  decide +kernel

/-! ### Witnesses: alarms, resets, start-up, management -/

/-- The base state with sensor 3 in a class. -/
def classed (c : W64) : State := base.setReg .vwmAlarmClass 0 (c <<< 6)

def withSec (x : SecS) : State := { at' 20000000 with sec := x }

theorem witness_AlarmAndKeyRowsRun :
    ((classed 1).sensorWatched 3 = true ∧ (classed 1).sec.active.contains 3 = false ∧ (classed 1).alarmClass 3 = 1
      ∧ ({ base with boot := { base.boot with aon := false } } : State).boot.aon = false ∧ (classed 2).alarmClass 3 = 2 ∧ (classed 3).alarmClass 3 = 3
      ∧ (classed 3).sensorWatched 3 = true)
    ∧ (let s := withSec { base.sec with alarmNUntil := some 5 }
      s.sec.alarmNUntil = some 5 ∧ 5 ≤ s.now)
    ∧ (base.boot.phase = .ready ∧ base.boot.bases ≠ [] ∧ base.classC = false ∧ (base.reg .vwmKekAddr 0).toNat % 64 = 0
      ∧ (base.reg .vwmKekAddr 0).toNat + 256 ≤ 67108864
      ∧ ((base.setReg .vwmKekAddr 0 8).reg .vwmKekAddr 0).toNat % 64 ≠ 0
      ∧ 67108864 < ((base.setReg .vwmKekAddr 0 0x3FFFFC0).reg .vwmKekAddr 0).toNat + 256
      ∧ ({ classed 3 with sec := { base.sec with active := NatSet.ins 3 [] } } : State).classC = true)
    ∧ (withSec { base.sec with kekLoad := some (0, some 9, 4) }).sec.kekLoad = some (0, some 9, 4)
    ∧ (withSec { base.sec with kekLoad := some (0, none, 4) }).sec.kekLoad = some (0, none, 4)
    ∧ (let s := { base with boot := { base.boot with aon := true }, mgmt := { base.mgmt with running := true } }
      s.boot.aon = true ∧ s.mgmt.running = true) := by decide +kernel

/-- The part with its pins high and the always-on domain out of reset. -/
def pinned : State := { base with boot := { base.boot with porst := true, perst := true, aon := true } }

theorem witness_ResetRowsRun :
    (pinned.boot.porst = true ∧ (∀ m ∈ pinned.images, m.st ≠ .draining) ∧ pinned.boot.phase ≠ .off
      ∧ pinned.boot.aon = true)
    ∧ ({ pinned with boot := { pinned.boot with porst := false } } : State).boot.porst = false
    ∧ ((pinned.boot.running && pinned.anyGrant) = false ∧ pinned.shut = false
      ∧ (let s := { pinned with gov := [(0, { GovS.none with granted := [.engine 0] })] }
        (s.boot.running && s.anyGrant) = true ∧ 0 < s.dies))
    ∧ (let s := { pinned with boot := { pinned.boot with warming := true } }
      s.boot.warming = true ∧ (s.boot.running = false ∨ ∀ e ∈ s.gov, e.2.brake = none))
    ∧ (let s := { base with boot := { base.boot with aon := false } }
      s.boot.aon = false ∧ s.sec.meshDue = false
      ∧ ({ s with sec := { s.sec with meshDue := true } } : State).sec.meshDue = true) := by decide +kernel

def inBoot (p : BootPhase) : State := { pinned with boot := { pinned.boot with phase := p } }

/-- What firmware reports of a part without failures. -/
def report0 : BringUp :=
  { hbmFail := none, badEngines := [], badPairs := [], badElts := [], badQnts := [], badPortLanes := [], badClusters := []
    channels := 1, flashBytes := 0x100000000000, readOnly := false, slackPs := List.replicate 8 40, vrNack := []
    vrRaiseNack := []
    bases := pinned.boot.bases }

theorem witness_BootRowsRun :
    ((inBoot .rom).boot.phase = .rom ∧ (inBoot .rom).boot.pllLocked = true ∧ (inBoot .rom).boot.perst = true
      ∧ (inBoot .rom).badLink none = none ∧ (inBoot .rom).hasLink (1 : BitVec 5).toNat = true)
    ∧ ((inBoot .awaitFw).boot.phase = .awaitFw ∧ (16777215 : BitVec 24).toNat + [0#8].length ≤ 16777216
      ∧ base.boot.phase ≠ .awaitFw
      ∧ lenOk (((inBoot .awaitFw).setReg .vwmBootLen 0 4096).reg .vwmBootLen 0).toNat = true
      ∧ lenOk ((inBoot .awaitFw).reg .vwmBootLen 0).toNat = false)
    ∧ (inBoot .verify).boot.phase = .verify
    ∧ ((inBoot .bringup).boot.phase = .bringup ∧ (inBoot .bringup).basesOk report0.bases = true ∧ report0.hbmFail = none
      ∧ (inBoot .bringup).badStack none = none ∧ ({ report0 with hbmFail := some 3 } : BringUp).hbmFail = some 3
      ∧ (∀ d, d < (inBoot .bringup).dies → 15 ≤ nth 0 report0.slackPs d)
      ∧ (∀ d, d < (inBoot .bringup).dies → ((inBoot .bringup).ageOf d).measuring = none))
    ∧ (let aged := { inBoot .bringup with ages := [(0, { AgeS.none with guardMv := some 20 })] }
      let start := fun (r : BringUp) => (List.range aged.dies).foldl (fun (s : State) d =>
        s.startAge d (nth 0 r.slackPs d) (!r.vrNack.contains d) (!r.vrRaiseNack.contains d)) aged
      (start report0).ageing = false ∧ (start { report0 with slackPs := 14 :: List.replicate 7 40 }).ageing = true)
    ∧ (let s := { inBoot .bringup with clk := { base.clk with timebase := 5000000000 } }
      s.boot.phase = .bringup ∧ (s.reg .vwmBootStamp 0).toNat + 5000000000 ≤ s.now)
    ∧ ({ inBoot .bringup with boot := { (inBoot .bringup).boot with running := false } } : State).boot.running = false := by
  decide +kernel

/-- Vexward runs, with an address. -/
def managed : State := { pinned with mgmt := { base.mgmt with running := true, ip := some 5 } }

theorem witness_ManagementAnswers :
    (managed.answersOn .sgmii = true ∧ managed.answersOn .smbus = true ∧ managed.mgmt.verified = false
      ∧ ({ managed with mgmt := { managed.mgmt with verified := true } } : State).mgmt.verified = true)
    ∧ ({ managed with mgmt := { managed.mgmt with running := false } } : State).answersOn .i3c = false
    ∧ (let s := { managed with mgmt := { managed.mgmt with ip := none } }
      s.address = none ∧ s.boot.aon = true ∧ s.mgmt.running = true ∧ s.hist.staticIp = none)
    ∧ (let s := { pinned with mgmt := { base.mgmt with running := false, restart := some 0 } }
      s.mgmt.restart = some 0 ∧ s.boot.aon = true ∧ s.now ≤ 0 + 2000000000
      ∧ ({ s with clk := { s.clk with timebase := 2000000000 } } : State).now = 2000000000)
    ∧ (let s := { at' 10000 with evt := { base.evt with msixDue := true, msixLast := some 0 } }
      s.evt.msixDue = true ∧ s.evt.msixLast = some 0 ∧ 0 + 10000 ≤ s.now) := by decide +kernel

/-- Queue 1 waits for a counter, and Vigil has noted it. -/
def stuck : State :=
  let s := { at' 20000000000 with queues := [(0, adminQueue), (1, { work with waitState := 2, waitNode := 3 })] }
  (s.setReg .vwmVigilCtrl 0 100).setVigil 1 { s.vigilNow 1 with since := 0, last := 0 }

theorem witness_VigilRowsRun :
    (base.Ready (hdr 1) ⟨0x701, 0, .any, false⟩
      ∧ (base.dispatched (hdr 1) 0x701).snapErr (hdr 1).ring.toNat (base.ctxOf (hdr 1)) 0x1000 64 = none)
    ∧ (let s := { at' 20000000000 with flight := [job 3 .plain], queues := [(0, adminQueue), (1, { work with published := 0 })] }
      inRange (1 : BitVec 15).toNat s.nQueues = true ∧ s.boot.phase = .ready ∧ s.vigilDue (1 : BitVec 15).toNat = true
      ∧ (base.setVigil 1 { VigilQ.none with last := 1 }).vigilDue (1 : BitVec 15).toNat = false
      ∧ ((at' 20000000000).queueWait (1 : BitVec 15).toNat).code = 0)
    ∧ (stuck.vigilDue 1 = true ∧ (stuck.queueWait 1).code ≠ 0 ∧ (stuck.vigilOf 1).same (stuck.vigilNow 1) = true
      ∧ (stuck.vigilOf 1).suspect = false
      ∧ (stuck.vigilOf 1).since + stuck.fld .vwmVigilCtrl 0 15 0 * 1000000 ≤ stuck.now)
    ∧ (let s := stuck.setVigil 1 VigilQ.none
      (s.queueWait 1).code ≠ 0 ∧ (s.vigilOf 1).same (s.vigilNow 1) = false ∧ s.vigilDue 1 = true)
    ∧ (let s := stuck.setVigil 1 { stuck.vigilOf 1 with suspect := true }
      (s.queueWait 1).code ≠ 0 ∧ (s.vigilOf 1).same (s.vigilNow 1) = true ∧ (s.vigilOf 1).suspect = true
      ∧ s.vigilDue 1 = true)
    ∧ (managed.boot.aon = true ∧ managed.mgmt.running = true ∧ managed.boot.phase = .ready
      ∧ managed.vigil.ids.contains (7 : W64) = false
      ∧ ({ managed with vigil := { managed.vigil with ids := [7] } } : State).vigil.ids.contains (7 : W64) = true) := by
  and_intros
  all_goals first | exact ready_of (by decide +kernel) | decide +kernel

def event0 : EvtRec := { seq := 0, code := 0, sev := 0, ctx := none, origin := 0, time := 0, detail := [] }

theorem witness_EventLogIsARing :
    base.evt.log.length < 4096
    ∧ ({ base with evt := { base.evt with log := List.replicate 4096 event0 } } : State).evt.log.length = 4096 := by
  refine ⟨by decide +kernel, List.length_replicate⟩

/-! ### Witnesses: register writes -/

theorem witness_DirectWritesStore :
    base.boot.phase = .ready ∧ base.boot.bases ≠ [] ∧ inRange (0 : BitVec 11).toNat base.nEng = true
    ∧ inRange (0 : BitVec 3).toNat base.dies = true ∧ base.beyondAlign = false ∧ linked.beyondAlign = true ∧ (base.ctxFlights (0 : BitVec 6).toNat).isEmpty = true := by
  decide +kernel

theorem witness_IgnoredWritesOnlyFlag :
    (base.boot.phase = .ready ∧ base.boot.bases ≠ [] ∧ bits (base.merged .splStageQuota 0 0x010000 (BitVec.allOnes 64)) 23 16 ≠ 0)
    ∧ (({ base with flight := [job 3 .plain] } : State).ctxFlights (0 : BitVec 6).toNat).isEmpty = false
    ∧ (let s := base.setReg .ftlPages 0 100
      s.quotaRefused .tierQuotaHbm 0 7 = true ∧ s.quotaRefused .tierQuotaHbm 0 8 = false
      ∧ s.quotaRefused .tierQuotaFlash 0 101 = true ∧ s.quotaRefused .tierQuotaFlash 0 100 = false)
    ∧ (inRange (0 : BitVec 7).toNat base.nClus = true ∧ base.stageRefused 0 0x810000 = true
      ∧ base.stageRefused 0 0x800000 = false) := by decide +kernel

theorem witness_ClearRowsZeroTheirCounters :
    base.boot.phase = .ready ∧ base.boot.bases ≠ [] ∧ inRange (0 : BitVec 11).toNat base.nEng = true ∧ inRange (0 : BitVec 7).toNat base.nClus = true
    ∧ inRange (0 : BitVec 3).toNat base.dies = true ∧ (1 : W32).getLsbD 0 = true ∧ (2 : W32).getLsbD 1 = true := by
  decide +kernel

/-- The address of a register in the window of base number i. -/
def regAddr (i off : Nat) : W64 := BitVec.ofNat 64 (bootPage + 0x100000 * (i + 1) + off)

/-- The address of CFG_DB_STATE of queue 1, and that of the upper half of VWM_KEK_ADDR. -/
def dbState1 : W64 := BitVec.ofNat 64 (bootPage + 0x4000000 + 4096 + 8)
def kekAddrHigh : W64 := regAddr 15 0x2C

theorem witness_WritesByAddress :
    base.decodeReg (8 : W64).toNat = none
    ∧ (base.regLive .vwmAlarmStatus = true ∧ State.reset.regLive .vwmAlarmStatus = false
      ∧ base.decodeReg (regAddr 15 0x20).toNat = some (.vwmAlarmStatus, 0, false) ∧ Reg.vwmAlarmStatus ≠ .cfgDbState
      ∧ Reg.vwmAlarmStatus.info.w1c ≠ 0 ∧ Reg.vwmAlarmStatus.info.wide ≠ true)
    ∧ (base.decodeReg dbState1.toNat = some (.cfgDbState, 1, false) ∧ base.regLive .cfgDbState = true
      ∧ (base.queue 1).present = true ∧ (base.queue 2).present = false)
    ∧ base.decodeReg kekAddrHigh.toNat = some (.vwmKekAddr, 0, true)
    ∧ (base.decodeReg (regAddr 15 0).toNat = some (.vwmCheckCtrl, 0, false) ∧ Reg.vwmCheckCtrl.info.w1c = 0) := by
  decide +kernel

/-! ### Witnesses: numbers -/

theorem witness_NearestEvenIsNearest : 0 < (⟨5, 2⟩ : Mag).den ∧ 2 * ((⟨5, 2⟩ : Mag).num % 2) = (⟨5, 2⟩ : Mag).den := by decide

theorem witness_StochasticRoundingFollowsTheDraw : 0 < (⟨5, 2⟩ : Mag).den ∧ 65535 < 65536 ∧ (⟨4, 2⟩ : Mag).num % 2 = 0
    ∧ (⟨5, 2⟩ : Mag).stoch 32768 = 3 ∧ (⟨5, 2⟩ : Mag).stoch 32767 = 2
    ∧ roundInt (.fin true ⟨5, 2⟩) (.stoch 32768) = -2 ∧ roundInt (.fin true ⟨5, 2⟩) (.stoch 32767) = -3 := by decide +kernel

theorem witness_PackedCodesReadBack : 1 ≤ 3 ∧ 3 ≤ 8 ∧ 1 < [(-1 : Int), 2].length ∧ 5 / 3 < [(-1 : Int), 2].length
    ∧ 5 / 8 < (streamPack 3 [-1, 2]).length := by decide +kernel

/-- Sums at the top of their ranges. -/
def sums0 : StatSum :=
  { elements := 2 ^ 64 - 1, sat := 0, zeroed := 0, nonfinite := 0, errSum := 2 ^ 128 - 1, sigSum := 0
    blocksZero := 2 ^ 32 - 1, blocksSat := 0, blocksNonfinite := 0, outlierCand := 0, hist := List.replicate 64 7 }

theorem witness_StatisticsReadBack : sums0.elements < 2 ^ 64 ∧ sums0.errSum < 2 ^ 128 ∧ sums0.blocksZero < 2 ^ 32
    ∧ sums0.hist.length = 64 ∧ (∀ n ∈ sums0.hist, n < 2 ^ 32)
    ∧ StatSum.ofBytes (List.replicate 8 0 ++ StatSum.bytes sums0) = sums0 := by decide +kernel

/-! ### Ill-formed commands are refused -/

/-- A packet with a payload beyond 512 bytes. -/
def longPkt : Pkt := { pkt 0 1 0 with payload := List.replicate 513 0 }

theorem test_wf_refuses_streams : Instr.wf (.eltKernel (hdr2 1) { kern0 with streams := [1, 2, 3, 4, 5] } true []) = false := by
  decide
theorem test_wf_refuses_temperatures :
    Instr.wf (.thermalSample (List.replicate 95 20)) = false ∧ Instr.wf (.thermalSample (List.replicate 96 1024)) = false
    ∧ Instr.wf (.thermalSample (List.replicate 96 20)) = true := by decide +kernel
theorem test_wf_refuses_image_end : Instr.wf (.imageBufferWrite 0xFFFFFF [1, 2]) = false := by decide
theorem test_wf_refuses_flit :
    Instr.wf (.flitDataReceive 0 ⟨0, 0, 1, 0, 0, 0, List.replicate 233 0, 0, 0⟩) = false
    ∧ Instr.wf (.flitDataReceive 0 ⟨0, 0, 1, 0, 0, 0, List.replicate 232 0, 0, 0⟩) = true
    ∧ Instr.wf (.flitAckReceive 0 ⟨0, 0, 1, 0, 0, 0⟩ (List.replicate 233 0) ⟨0, 0⟩) = false
    ∧ Instr.wf (.controlFlitReceive 0 (List.replicate 233 0) (⟨0, 0, 1, 0, 0, 0⟩, ⟨0, 0⟩)) = false := by decide +kernel
theorem test_wf_refuses_packets :
    Instr.wf (.fabReadRequest 0 longPkt) = false ∧ Instr.wf (.fabWriteRequest 0 longPkt) = false
    ∧ Instr.wf (.fabAtomicRequest 0 longPkt) = false ∧ Instr.wf (.fabResponse 0 longPkt) = false
    ∧ Instr.wf (.collExponent 0 longPkt) = false ∧ Instr.wf (.collScale 0 longPkt) = false
    ∧ Instr.wf (.collContribution 0 longPkt) = false ∧ Instr.wf (.collGather 0 longPkt) = false
    ∧ Instr.wf (.txnVote 0 5 0 longPkt) = false ∧ Instr.wf (.txnDecision 0 5 longPkt) = false := by decide +kernel
theorem test_wf_refuses_units :
    Instr.wf (.unitReleaseRequest 0 (.engine 256)) = false ∧ Instr.wf (.unitReleaseRequest 0 (.elt 32)) = false
    ∧ Instr.wf (.unitReleaseRequest 0 (.qnt 16)) = false ∧ Instr.wf (.unitReleaseRequest 0 .coll) = true := by decide
theorem test_wf_refuses_sensors :
    Instr.wf (.securityAlarm [6]) = false ∧ Instr.wf (.alarmRearm 6) = false ∧ Instr.wf (.alarmRearm 5) = true := by decide
theorem test_wf_refuses_keys :
    Instr.wf (.signedMaintenanceRequest 0 0 [1] (List.replicate 96 0)) = false
    ∧ Instr.wf (.pldmFwUpdate .smbus (.verify (List.replicate 97 0) [])) = false := by decide +kernel
theorem test_wf_refuses_bringup :
    Instr.wf (.bringupDone { report0 with badEngines := [2048] }) = false
    ∧ Instr.wf (.bringupDone { report0 with badPairs := [(0, 64)] }) = false
    ∧ Instr.wf (.bringupDone { report0 with badElts := [256] }) = false
    ∧ Instr.wf (.bringupDone { report0 with badQnts := [128] }) = false
    ∧ Instr.wf (.bringupDone { report0 with badPortLanes := [(24, 0)] }) = false
    ∧ Instr.wf (.bringupDone { report0 with badClusters := [128] }) = false
    ∧ Instr.wf (.bringupDone { report0 with slackPs := [] }) = false
    ∧ Instr.wf (.bringupDone { report0 with vrRaiseNack := [8] }) = false
    ∧ Instr.wf (.bringupDone { report0 with bases := [] }) = false
    ∧ Instr.wf (.bringupDone report0) = true := by decide +kernel
theorem test_wf_refuses_almanac_slots :
    Instr.wf (.eqxRecordReceive 0 0 { rec0 1 with alm := [(4096, StatSum.zero)] }) = false := by decide

/-- The table gives no row bits. -/
theorem test_no_word_spells_a_command : decodeTableWord 8 0 = none ∧ base.withFetchWord 8 0 = base := by
  exact ⟨rfl, rfl⟩

/-! ### Single commands, against the cases and worked examples of the manual -/

/-- The state after a command; the state before it if it stops. -/
def go (c : Instr) (s : State) : State :=
  match exec c s with
  | .next t => t
  | _ => s

/-- Bytes in page 0 of context 0, written and read. -/
def put (s : State) (a : Nat) (bs : List Byte) : State := s.wr (memStride + a) bs false
def got (s : State) (a n : Nat) : Nat := ofLeBytes (s.rd (memStride + a) n)

/-- The base state with queue 1's completion ring at F000H. -/
def ring : State :=
  { base with queues := [(0, adminQueue), (1, { work with cplBase := 0xF000 })] }

/-- `ring` with a grant for quantiser 0. -/
def quantising : State := { ring with gov := [(0, { GovS.none with granted := [.qnt 0] })] }

/-- Status and detail of the first completion record of queue 1 (R317). -/
def record (s : State) : Nat × Nat := (got s 0xF001 1, got s 0xF00C 4)

/-- Chapter 00, case 1: opcode 0x9A0 completes with ST_BAD_OPCODE (0x41). -/
theorem test_unassigned_opcode : (record (go (.unassignedOpcode (hdr 1) 0x9A0) ring)).1 = 0x41 := by decide +kernel

/-- Chapter 00, case 2: the version is judged before the width. -/
theorem test_version_first :
    (record (go (.arrMatmul { hdr2 1 with pver := 2 } { mm with typeA := 0x0B10 }) ring)).1 = 0x40 := by decide +kernel

/-- Chapter 11, case 1: an ARR_MATMUL of size 0: ST_BAD_FIELD, detail 1, and the fetch index advances by one. -/
theorem test_size_fault : record (go (.arrMatmul (hdr 1) mm) ring) = (0x42, 1)
    ∧ ((go (.arrMatmul (hdr 1) mm) ring).queue 1).fetch = 1 := by decide +kernel

/-- Chapter 02, case 1: width code 0x9. -/
theorem test_width_nine : record (go (.arrMatmul (hdr2 1) { mm with typeA := 0x0910 }) ring) = (0x42, 5) := by
  decide +kernel

/-- Chapter 02, cases 2 and 3: FP32 is no quantiser input, and the width of BF16 is ignored. -/
theorem test_quantiser_formats :
    (record (go (.qntConvert (hdr2 1) { conv0 with typeIn := 3 }) ring)).1 = 0x42
    ∧ ((go (.qntConvert (hdr2 1) { conv0 with typeIn := 0x0701, scaleSrc := 1 })
      { quantising with scales := [(0, 0x3F000000)] }).flightOf 5).map (fun f => (f.status, f.finished))
      = some (St.ok, true) := by decide +kernel

/-- Chapter 06, one token at CSI-4: codes, scale 0.375 and side value. -/
theorem test_one_token :
    let s := put ring 0 ([0x3F50, 0xC028, 0x3DC0, 0x3FB4, 0x8000, 0x4220, 0x4020, 0xBF80].flatMap fun n => leBytes 2 n)
    let p := { conv0 with
      typeOut := 0x1410, n1 := 64, srcStride := 128, outMode := 1, listAddr := 0x3000, sideAddr := 0x4000
      sideStride := 2, ldElems := 64 }
    let t := { s with flight := [job 5 .plain] }.convert 5 0 0 (Conv.of p) [5] none
    got t 0x1000 4 = 0xD7004092 ∧ got t 0x2000 4 = 0x3EC00000 ∧ got t 0x4000 2 = 0x4220 := by decide +kernel

/-- Chapter 06, case 2: 100.0 over the register scale 0.5 clamps to 127, and the block saturates. -/
theorem test_calibrated_saturates :
    let s := put { quantising with scales := [(0, 0x3F000000)] } 0 [0xC8, 0x42]
    let t := go (.qntConvert (hdr2 1) { conv0 with typeOut := 0x1810, scaleSrc := 1 }) s
    got t 0x1000 1 = 127 ∧ t.reg .vwmLcSat 0 = 1 ∧ (t.evt.log.map fun e => e.code) = [0x0202] := by decide +kernel

/-- Chapter 02, the packing of CSI-5. -/
theorem test_csi5_packing :
    streamPack 5 [6, -15, 0, 9, -2, 15, 4, -5] = [0x26, 0x82, 0xE4, 0x1F, 0xD9] := by decide +kernel

/-- Chapter 02, cases 9 and 10: overflow in E4M3 and in BF16. -/
theorem test_overflow :
    (e4m3.write (.fin false ⟨500, 1⟩) .rne).pat = 0x7E ∧ (e4m3.write (.fin true ⟨500, 1⟩) .rne).pat = 0xFE
    ∧ (bf16.write (.fin false ⟨2 ^ 129, 1⟩) .rne).pat = 0x7F80 := by decide +kernel

/-- Chapter 03, cases 8 to 10: column groups of a unit. -/
theorem test_column_groups :
    ({ base with badPairs := [0] } : State).groups 0 0 0x0810 = 31
    ∧ ({ base with badPairs := [0] } : State).groups 0 0 0x0610 = 42
    ∧ (withUnit true UnitS.none).groups 0 1 0x0610 = 21 := by decide +kernel

/-- Chapter 03, the worked example: patterns of the a codes of k-group 0, and the table of lane 2. -/
theorem test_patterns_and_tables :
    (List.range 3).map (planePattern [3, 6, 0, 1]) = [9, 3, 2]
    ∧ (List.range 16).map (tableEntry [0, -1, 0, -1]) = [0, 0, -1, -1, 0, 0, -1, -1, -1, -1, -2, -2, -1, -1, -2, -2] := by
  decide +kernel

/-- Chapter 05, cancellation in a spill word. -/
theorem test_spill_cancels :
    let a := fun (x : Sp) (w : Int) (r : Nat) => spAdd x ⟨w, 0, false, false⟩ r
    let x1 := a ⟨1900000000, 0, false, false⟩ 1500000001 41000
    let x2 := a x1 (-2000000000) 0
    (x1.m, x1.e) = (1700000001, 1) ∧ (x2.m, x2.e) = (700000001, 1)
    ∧ ((a x2 (-1399999999) 12000).m, (a x2 (-1399999999) 12000).e) = (1, 1) := by decide +kernel

/-- Chapter 07, updates below the BF16 quantum. -/
theorem test_remainder :
    ((splitWeight (rne32 (.fin false ⟨0x8000 + 55, 65536⟩))).1.pat, (splitWeight (rne32 (.fin false ⟨0x8000 + 55, 65536⟩))).2)
      = (0x3F00, 55)
    ∧ ((splitWeight (rne32 (.fin false ⟨0x8000 + 135, 65536⟩))).1.pat,
        (splitWeight (rne32 (.fin false ⟨0x8000 + 135, 65536⟩))).2) = (0x3F01, -121) := by decide +kernel

/-- Chapter 07, case 3: one stream for both moments executes and sets dup. -/
theorem test_duplicate_stream :
    (go (.eltUpdate (hdr2 1) { upd0 with vStream := 0 }) ring).fld .cfgRngFlags 0 0 0 = 1 := by decide +kernel

/-- Chapter 06, the slot over eight steps: the rises and falls that its table gives at steps 200, 201 and 207. -/
theorem test_almanac_rule :
    let x : AlmCfg :=
      { widthMin := 4, widthMax := 8, width := 6, pending := 0, adaptEn := true, blkStorm := false, thrHi := 8388608
        thrLo := 2097152, stormThr := 64, lowSteps := 3, lowRun := 0, satAtMax := false, bandExhausted := false
        changeEpoch := 0 }
    let sums := fun (err sat : Nat) =>
      { StatSum.zero with elements := 8589934592, sigSum := 13510798882111488, errSum := err, sat := sat }
    (x.rule (sums 41883476534546 0) 200).pending = 7
    ∧ ((x.rule (sums 41883476534546 0) 200).rule (sums 0 0) 201).width = 7
    ∧ (x.rule (sums 21617278211378 18038862) 207).pending = 7
    ∧ (x.rule (sums 21617278211378 1717986) 207).pending = 0 := by decide +kernel

/-- Chapter 12, one die admitting its engines: seven in a tick. -/
theorem test_first_wave :
    let s := { at' 100 with gov := [(0, { GovS.none with uncore := uncoreFull, waiting := (List.range 20).map GovUnit.engine })] }
    ((go (.govTick 0) s).govOf 0).granted = (List.range 7).map GovUnit.engine
    ∧ (go (.govTick 0) s).reg .govWait 0 = 13 := by decide +kernel

/-- Chapter 12, case 5: ramp_limit 255 stores 250. -/
theorem test_ramp_limit : (go (.govCtrlWrite 0 255) base).fld .govCtrl 0 7 0 = 250 := by decide +kernel

/-- Chapter 11, two interleaved virtual stages: the end of the first iteration leads back to entry 4. -/
theorem test_calendar_loops :
    let k : CalS := ⟨true, [0, 1, 0, 1, 2, 3, 0, 1, 2, 3, 2, 3], 4, 8, 2, 2, 8, 0⟩
    (CalS.normalise 4 k).entry = 4 ∧ (CalS.normalise 4 { k with iter := 1 }).part = 3 := by decide +kernel

/-- Chapters 08 and 09: TIER_MIGRATE to flash of an unsealed page (case 1), of a protected page (case 10). -/
theorem test_migrate_refused :
    (record (go (.tierMigrate (hdr 1) (tier 1 1 true)) { rich with queues := ring.queues })).1 = 0x53
    ∧ (record (go (.tierMigrate (hdr 1) (tier 1 1 true)) { protected1 with queues := ring.queues })).1 = 0x42 := by
  decide +kernel

/-- Chapter 08, case 4: a copy to a sealed page completes with ST_SEALED. -/
theorem test_copy_to_sealed :
    (record (go (.memCopy (hdr 1) 0 0x200000 64 []) { ring with pages := [(0, inHbm 0), (1, { inHbm 1 with sealed := true })] })).1
      = 0x51 := by decide +kernel

/-- R208: MEM_COPY copies. -/
theorem test_mem_copy :
    (go (.memCopy (hdr 1) 0 0x1000 3 []) (put ring 0 [1, 2, 3, 4])).rd (memStride + 0x1000) 4 = [1, 2, 3, 0] := by
  decide +kernel

/-- Chapter 08, case 6: a quota below the use is ignored and flagged. -/
theorem test_quota_below_use :
    (go (.tierQuotaHbmWrite 0 7) rich).reg .tierQuotaHbm 0 = 64 ∧ (go (.tierQuotaHbmWrite 0 7) rich).reg .tierCtxErr 0 = 1 := by
  decide +kernel

/-- Chapter 09, case 6: HARVEST with a command of the context in flight. -/
theorem test_harvest_busy :
    (record (go (.harvest (hdr 1) 6) { withImage .sealed true with queues := ring.queues, flight := [job 3 .plain] })).1
      = 0x58 := by decide +kernel

/-- Chapter 10, cases 1 and 3: the link version, and lanes 2 and 6 missing at the third attempt. -/
theorem test_link :
    ((go (.capabilityFlitReceive 0 { cap 1 0 with vmax := 3 }) (portIn { PortS.none with st := .negotiate })).port 0).version
      = 1
    ∧ ((go (.linkTrainDone 0 0b10111011) (portIn { PortS.none with st := .train, attempts := 3 })).port 0).st = .failed := by
  decide +kernel

/-- Chapter 11, case 5: a staged write to a cluster of another context. -/
theorem test_stage_not_owner :
    let s := { withTxn (txn0 .opened []) with queues := ring.queues }
    let t := go (.cfgWrite (hdr 1) { addr := regAddr 2 (64 * 5), wide := false, value := 1, mask := 1 }) s
    (record t).1 = 0x43 ∧ t.txns = s.txns := by decide +kernel

/-- Chapter 13, case 2: a failure in a second power cycle is permanent. -/
theorem test_permanent_record :
    let s := { base with hist := { base.hist with faults := [failed0], pc := 1 } }
    s.permanent 2 4 = false ∧ (s.recordFailure 2 4).permanent 2 4 = true := by decide +kernel

/-- Chapter 15, case 1: the image buffer is closed during VERIFY. -/
theorem test_image_buffer_closed : go (.imageBufferWrite 0 [1]) (inBoot .verify) = inBoot .verify := by decide +kernel

/-- R371: a termination keeps when an engine's injected check tiles fall due, and their next pattern. -/
theorem test_clear_keeps_check_period :
    let s := { base with engs := [(0, { EngS.none with quarter := true, checkAt := 7, checkPat := 3 })] }
    (s.clearCluster 0).engs = [(0, { EngS.none with checkAt := 7, checkPat := 3 })] := by decide +kernel

/-- R399: a CHECK_TILE that waits only for the engine's grant waits for the governor. -/
theorem test_check_tile_waits_for_grant :
    let s := { base with engs := [(0, { EngS.none with inbox := [(3, 1, 0, .check 0 [])] })] }
    s.arrayWait 0 3 = ⟨11, some (.governor 0)⟩ := by decide +kernel

/-- R399: an ARR_MODE at the front that may run waits for nothing. -/
theorem test_mode_waits_for_nothing :
    let s := { base with engs := [(0, { EngS.none with inbox := [(3, 1, 0, .mode true)] })] }
    s.arrayWait 0 3 = ⟨0, none⟩ := by decide +kernel

/-- R100: while a command with cont 1 waits for its quarter, its queue's next one waits for it, whatever quarter it names. -/
theorem test_cont_comes_first :
    let m := fun (id : Nat) (quarter : BitVec 2) (cont : Bool) =>
      (id, 1, 0, ArrCmd.matmul { mm with quarter := quarter, cont := cont })
    let x := { EngS.none with quarter := true, inbox := [m 3 0 true, m 4 1 false] }
    (x.head 1).isNone = true ∧ (x.head 0).map (·.1) = some 3
    ∧ (({ x with inbox := [m 3 0 false, m 4 1 false] } : EngS).head 1).map (·.1) = some 4 := by decide +kernel

/-- R18, R199: an EQX_PROTECT of no pages in a reserved range; R309: a stream in tier 0 of another context's cluster. -/
theorem test_places_come_first :
    base.protectErr 0 { prot0 with va := 0x200000000000, count := 0 } = some ⟨0x50, 0⟩
    ∧ base.streamRegErr 0 { reg0 with base := 0xF00004000000, len := 0 } = some ⟨0x43, 6⟩
    ∧ base.kernelErr 0 { kern0 with argAddr := 0xFE0000000000 } true = some ⟨0x50, 0⟩ := by decide +kernel

/-- R212: statistics for a slot in a sealed page. -/
theorem test_statistics_sealed :
    let s := { quantising.setReg .almBase 0 0x400000 with
      pages := Map.set (fun _ => PageS.none) quantising.pages 2 { inHbm 2 with sealed := true } }
    (record (go (.qntConvert (hdr2 1) { conv0 with statsEn := true }) s)).1 = 0x51 := by decide +kernel

/-- R420: a die whose guard band is exhausted is raised no more. -/
theorem test_exhausted_die_stays :
    let s := (withAge 2000000 { AgeS.none with guardMv := some 20, measuring := some 0 }).exhaust 0
    (s.judgeSlack 0 5 true).out.setpoints = s.out.setpoints
    ∧ ((s.judgeSlack 0 5 true).ageOf 0).measuring = none := by decide +kernel

/-- R288: a backup that first arrives after the deadline is late. -/
theorem test_late_backup :
    let x := { bucket0 with expAt := some 0, rank := 1, reducers := [0, 1] }
    let s := { grouped with colls := [x] }
    let m : ExpMsg := ExpMsg.ofBytes (List.replicate 8 0)
    let back := fun (time : Nat) => ((s.expArrive 0 9 0 true m x.crc time).coll 0 9).map fun y =>
      ((y.expSlot 0).back.isSome, y.late)
    back 1000 = some (true, 0) ∧ back 1001 = some (false, 1) := by decide +kernel

/-- R403: a queue that has waited since before Vigil examined it. -/
theorem test_wait_time :
    ({ stuck with vigil := { stuck.vigil with waits := [(1, 2, 17000000000)] } } : State).waitMs 1 = 3000
    ∧ stuck.noteWaits.vigil.waits = [(1, 2, 20000000000)] := by decide +kernel

/-- R365: a throttle passes over a collective engine that is heavier than the step. -/
theorem test_throttle_passes_over :
    releaseFit [.coll, .engine 0, .elt 0] 20 10 = [.engine 0] := by decide +kernel

/-- R426: with PERST_N low the boot ROM chooses the bin and fails a bad die link at once, and only the PCIe link waits. -/
theorem test_rom_waits_for_perst :
    let s := { inBoot .rom with boot := { (inBoot .rom).boot with perst := false } }
    let t := go (.romComplete none) s
    t.boot.phase = .rom ∧ t.boot.romDone = true ∧ (go (.romComplete (some 1)) s).boot.phase = .failed
    ∧ (go (.romComplete none) (go .perstNRelease t)).boot.phase = .awaitFw := by decide +kernel

/-- Chapter 16, case 4: a debug port that is disabled shifts nothing out. -/
theorem test_debug_port_disabled :
    base.jtagIdcode = some 0x10801C5B
    ∧ ({ base with sec := { base.sec with debugLocked := true } } : State).jtagIdcode = none := by decide +kernel

/-- Chapter 16, case 1: BRAKE_N after THERMTRIP_N has no effect on the governor. -/
theorem test_brake_after_thermtrip :
    (go .brakeNAssert { base with thermtrip := true, therm := [(0, .shutdown)] }).gov = base.gov := by decide +kernel

/-- Chapter 09: four roots X, X, Y and Y have no majority. -/
theorem test_roots_without_majority : majorityRoot [(0, 1), (1, 1), (2, 2), (3, 2)] = none := by decide +kernel

/-- The check value of CRC-64/XZ (R253), that of CRC-32C, and the SHA-256 of the text abc: the published ones. -/
theorem test_published_checks :
    let digits : List Byte := [0x31, 0x32, 0x33, 0x34, 0x35, 0x36, 0x37, 0x38, 0x39]
    crc64 digits = 0x995DC9BBDF1939FA ∧ crc32c digits = 0xE3069283 := by decide +kernel
theorem test_sha256 :
    (sha256 [0x61, 0x62, 0x63]).take 8 = [0xBA, 0x78, 0x16, 0xBF, 0x8F, 0x01, 0xCF, 0xEA] := by decide +kernel
theorem test_sha384 :
    (sha384 [0x61, 0x62, 0x63]).take 8 = [0xCB, 0x00, 0x75, 0x3F, 0x45, 0xA3, 0x5E, 0x8B] := by decide +kernel

/-- The block of FIPS 197 C.3 deciphered, and the base point of P-384 on its curve (R379). -/
theorem test_unwrap_primitives :
    Aes.unblock (Aes.roundKeys (List.range 32)) [0x8E, 0xA2, 0xB7, 0xCA, 0x51, 0x67, 0x45, 0xBF, 0xEA, 0xFC, 0x49, 0x90, 0x4B,
      0x49, 0x60, 0x89] = (List.range 16).map (17 * ·)
    ∧ (match P384.base with | some (x, y) => P384.onCurve x y | none => false) = true := by decide +kernel

end Sys2Proof.Tests
end

namespace Sys2Proof.Machine

/-! ### The header checks (R18, R312) -/

/-- A packet of another version is found out first, whatever its opcode (R312). -/
theorem State.headerFault_version {s : State} {q : Nat} {h : Hdr} (hv : h.pver.toNat ≠ (s.queue q).pver) (o : Option Opc) :
    s.headerFault q h o = some ⟨St.badVersion, 0⟩ := by
  simp [State.headerFault, hv, Err.word]

/-- An opcode without a row is the next fault (R17, R312). -/
theorem State.headerFault_unassigned {s : State} {q : Nat} {h : Hdr} (hv : h.pver.toNat = (s.queue q).pver) :
    s.headerFault q h none = some ⟨St.badOpcode, 0⟩ := by
  simp [State.headerFault, hv, Err.word]

/-- A queue of context `c` admits an opcode: one of contexts is not for the admin queue, one of the admin queue is for no
other (R312, R320). -/
def Opc.admits (o : Opc) (c : Nat) : Prop :=
  (o.queues = .context → c ≠ adminCtx) ∧ (o.queues = .admin → c = adminCtx)

/-- The model's test for an opcode that the queue does not admit. -/
theorem Opc.refused_eq_false_iff (o : Opc) (c : Nat) :
    ((o.queues == .context && c == adminCtx) || (o.queues == .admin && c != adminCtx)) = false ↔ o.admits c := by
  cases hq : o.queues <;> simp [Opc.admits, hq]

/-- A packet of a known opcode and its queue's version: the opcode, the queue and the size are looked at in this order
(R312). -/
theorem State.headerFault_assigned {s : State} {q : Nat} {h : Hdr} (hv : h.pver.toNat = (s.queue q).pver) (o : Opc) :
    (¬ o.admits (s.queue q).ctx → s.headerFault q h (some o) = some ⟨St.badOpcode, 0⟩)
    ∧ (o.admits (s.queue q).ctx → s.headerFault q h (some o) =
        if h.queue.toNat ≠ q then some ⟨St.badField, 0⟩
        else if h.size.toNat ≠ o.size then some ⟨St.badField, 1⟩ else none) := by
  simp only [← Opc.refused_eq_false_iff]
  constructor
  · intro ha
    simp only [State.headerFault, hv, bne_self_eq_false, Bool.false_eq_true, if_false, eq_true_of_ne_false ha, if_true]
    rfl
  · intro ha
    simp only [State.headerFault, hv, bne_self_eq_false, Bool.false_eq_true, if_false, ha, bne_iff_ne]
    rfl

/-- Settles O7: the four checks of a header in their order. -/
theorem headerFaultsInOrder : Obligations.HeaderFaultsInOrder := by
  unfold Obligations.HeaderFaultsInOrder
  intro s q h o
  refine ⟨fun hv => ⟨s.headerFault_version hv _, s.headerFault_version hv _⟩, fun hv => ?_⟩
  obtain ⟨hbad, hok⟩ := State.headerFault_assigned hv o
  exact ⟨State.headerFault_unassigned hv, hbad, fun ha hq => by simp [hok ha, hq],
    fun ha hq hz => by simp [hok ha, hq, hz], fun ha hq hz => by simp [hok ha, hq, hz]⟩

end Sys2Proof.Machine

namespace Sys2Proof.Machine

/-! ### Single bits and places of the register file -/

/-- A field of one bit, as a test of the bit. -/
theorem bits_one_beq (v : W64) (k : Nat) : (bits v k k == 1) = v.getLsbD k := by
  simp only [bits, Nat.add_sub_cancel_left, Nat.pow_one, BitVec.getLsbD, Nat.testBit_eq_decide_div_mod_eq,
    Nat.shiftRight_eq_div_pow]
  rfl

theorem bits_zero_beq (v : W64) (k : Nat) : (bits v k k == 0) = !v.getLsbD k := by
  rw [← bits_one_beq]
  have hlt : bits v k k < 2 ^ (k + 1 - k) := Nat.mod_lt _ (Nat.two_pow_pos _)
  rw [Nat.add_sub_cancel_left] at hlt
  have h : bits v k k = 0 ∨ bits v k k = 1 := by omega
  rcases h with h | h <;> rw [h] <;> rfl

/-- The host reaches every register once firmware has placed the windows (R410, R411). -/
theorem State.regLive_of_ready {s : State} (hp : s.boot.phase = .ready) (hb : s.boot.bases ≠ []) (r : Reg) :
    s.regLive r = true := by
  simp [State.regLive, hp, hb]

/-- A write of a register: it is the value there, and any other place of the register file stays. -/
theorem State.setReg_reg_key (s : State) {r r' : Reg} {i i' : Nat} (v : W64) (h : r'.key i' ≠ r.key i) :
    (s.setReg r i v).reg r' i' = s.reg r' i' := by
  simp [State.reg, State.setReg, Map.get_set_ne _ _ _ h]

theorem State.setReg_reg_ite (s : State) (r r' : Reg) (i i' : Nat) (v : W64) :
    (s.setReg r i v).reg r' i' = if (r', i') = (r, i) then v else s.reg r' i' := by
  split
  · next h => cases h; exact s.setReg_reg r i v
  · next h => exact s.setReg_reg_key v fun k => h (by obtain ⟨rfl, rfl⟩ := Reg.key_inj k; rfl)

/-! ### The clear registers -/

/-- `t` is `s` with the registers `rs` at zero when `on`, and unchanged otherwise. -/
def State.Clears (s t : State) (on : Bool) (rs : List (Reg × Nat)) : Prop :=
  t = { s with regs := t.regs } ∧ ∀ r i, t.reg r i = if on && rs.contains (r, i) then 0 else s.reg r i

theorem State.clears_refl (s : State) (rs : List (Reg × Nat)) : s.Clears s false rs := ⟨rfl, fun _ _ => by simp⟩

/-- Zeroing registers one after another. -/
theorem State.foldl_zero_clears (rs : List (Reg × Nat)) (s : State) :
    s.Clears (rs.foldl (fun (s : State) r => s.setReg r.1 r.2 0) s) true rs := by
  induction rs generalizing s with
  | nil => exact ⟨rfl, fun _ _ => by simp⟩
  | cons x rs ih =>
    obtain ⟨r₀, i₀⟩ := x
    obtain ⟨hregs, hreg⟩ := ih (s.setReg r₀ i₀ 0)
    refine ⟨hregs, fun r i => ?_⟩
    rw [List.foldl_cons, hreg, s.setReg_reg_ite]
    rw [Bool.true_and, Bool.true_and, List.contains_cons]
    by_cases hc : rs.contains (r, i) = true
    · rw [if_pos hc, if_pos (by rw [hc, Bool.or_true])]
    · simp only [hc, Bool.or_false, beq_iff_eq, Bool.false_eq_true, if_false]

theorem State.clearRegs_clears (s : State) (v : W64) (b : Nat) (rs : List (Reg × Nat)) :
    s.Clears (s.clearRegs v b rs) (v.getLsbD b) rs := by
  rw [State.clearRegs, bits_one_beq]
  cases v.getLsbD b
  · exact s.clears_refl rs
  · exact State.foldl_zero_clears rs s


/-- A clear row of a register that the part has. -/
theorem State.clearRow_next {s : State} {r : Reg} {i : Nat} (hi : inRange i (s.winCount r.info.win) = true) (v : W64) :
    s.clearRow r i v = .next (s.clearBy r i v) := by
  simp [State.clearRow, hi]

section
variable {s : State} (hp : s.boot.phase = .ready) (hb : s.boot.bases ≠ [])
include hp hb

/-- A clear register with one action for one bit `b`: its row zeroes the counters `rs` when the written value has it. -/
theorem State.clearRow_clears {r : Reg} {i b : Nat} {v : W64} {on : Bool} {rs : List (Reg × Nat)}
    (hi : inRange i (s.winCount r.info.win) = true) (hon : v.getLsbD b = on)
    (hc : s.clearBy r i v = if !s.regLive r then s else s.clearRegs v b rs) :
    ∃ t, s.clearRow r i v = .next t ∧ s.Clears t on rs := by
  refine ⟨_, State.clearRow_next hi v, ?_⟩
  rw [hc, State.regLive_of_ready hp hb]
  exact hon ▸ s.clearRegs_clears v b rs

end

/-- Nothing is cleared without the bit. -/
theorem State.clearRegs_off (s : State) {v : W64} {b : Nat} (hv : v.getLsbD b = false) (rs : List (Reg × Nat)) :
    s.clearRegs v b rs = s := by
  simp [State.clearRegs, bits_one_beq, hv]

/-- SPL_CTRL zeroes the wait counter by bit 1 and the largest exponent by bit 0. -/
theorem State.clearBy_splCtrl (s : State) (k : Nat) (v : W64) :
    (v.getLsbD 0 = false →
      s.clearBy .splCtrl k v = if !s.regLive .splCtrl then s else s.clearRegs v 1 [(.splChainWait, k)])
    ∧ (v.getLsbD 1 = false →
      s.clearBy .splCtrl k v = if !s.regLive .splCtrl then s else s.clearRegs v 0 [(.splExpMax, k)]) := by
  constructor <;> intro hv <;> simp [State.clearBy, State.clearRegs_off _ hv]

/-- Settles O55: each clear row zeroes the counters of its clear register under its bit. -/
theorem clearRowsZeroTheirCounters : Obligations.ClearRowsZeroTheirCounters := by
  unfold Obligations.ClearRowsZeroTheirCounters
  intro s hp hb clears
  have bit0 : ∀ v : W32, (v.setWidth 64).getLsbD 0 = v.getLsbD 0 := fun v => by simp
  have one : inRange 0 1 = true := rfl
  refine ⟨fun e v he => ⟨?_, ?_⟩, fun k v hk => ⟨?_, ?_, ?_⟩, fun v => ⟨?_, ?_⟩, fun d v hd => ?_⟩
  · exact State.clearRow_clears hp hb (r := .engCntClear) he (bit0 v) rfl
  · exact State.clearRow_clears hp hb (r := .accCtrl) he (bit0 v) rfl
  · exact State.clearRow_clears hp hb (r := .splCtrl) hk (by simp) ((s.clearBy_splCtrl _ _).1 (by simp))
  · exact State.clearRow_clears hp hb (r := .splCtrl) hk (by simp) ((s.clearBy_splCtrl _ _).2 (by simp))
  · exact State.clearRow_clears hp hb (r := .qntCtrl) hk (bit0 v) rfl
  · exact State.clearRow_clears hp hb (r := .cfgCtrl) one (bit0 v) rfl
  · exact State.clearRow_clears hp hb (r := .ngfCtrl) one (bit0 v) rfl
  · exact State.clearRow_clears hp hb (r := .vwmLcCtrl) hd (bit0 v) rfl

end Sys2Proof.Machine

namespace Sys2Proof.Machine

/-! ### Writes by address (R9, R11, R16, R430) -/

/-- The two writes of an address that names no register. -/
theorem exec_write_nowhere {s : State} {a : W64} (hd : s.decodeReg a.toNat = none) (v hw : W64) (wide : Bool) :
    exec (.w1cWrite a v hw) s = .next s ∧ exec (.registerWrite a wide v) s = .next s := by
  simp [exec, execW1cWrite, execRegisterWrite, hd]

section
variable {s : State} {a : W64} {r : Reg} {i : Nat} {hi : Bool} (hd : s.decodeReg a.toNat = some (r, i, hi))
include hd

/-- The W1C write of an address that names a register. -/
theorem exec_w1cWrite (v hw : W64) :
    exec (.w1cWrite a v hw) s
      = .next (if hi || r.info.w1c == 0 || !s.regLive r then s else s.w1c r i v hw) := by
  simp only [exec, execW1cWrite, hd]
  split <;> rfl

/-- The whole write of an address that names a register. -/
theorem exec_registerWrite (wide : Bool) (v : W64) :
    exec (.registerWrite a wide v) s
      = .next (if hi || r.info.wide != wide || !s.regLive r then s else s.writeReg r i (r.cut v)) := by
  simp only [exec, execRegisterWrite, hd]
  split <;> rfl

end

/-- The bits of a register after a W1C write: in the mask a written 1 clears unless hardware sets, outside it nothing
changes (R11). -/
theorem getLsbD_w1cNext (old v hw mask : W64) {k : Nat} (hk : k < 64) :
    (w1cNext old v hw mask).getLsbD k
      = if mask.getLsbD k then (old.getLsbD k && !v.getLsbD k) || hw.getLsbD k else old.getLsbD k := by
  simp only [w1cNext, BitVec.getLsbD_or, BitVec.getLsbD_and, BitVec.getLsbD_not, hk, decide_true, Bool.true_and]
  cases mask.getLsbD k <;> simp

/-- The flags of a queue are no stored register: the W1C write goes to the queue. -/
theorem State.w1c_cfgDbState (s : State) (q : Nat) (v hw : W64) :
    s.w1c .cfgDbState q v hw = if (s.queue q).present then
      s.setQueue q { s.queue q with badWrite := ((s.queue q).badWrite && !v.getLsbD 29) || hw.getLsbD 29 } else s := by
  simp only [State.w1c, bits_one_beq, bits_zero_beq]

/-- Every other W1C register is a stored one. -/
theorem State.w1c_stored (s : State) {r : Reg} (hr : r ≠ .cfgDbState) (i : Nat) (v hw : W64) :
    s.w1c r i v hw = s.setReg r i (w1cNext (s.reg r i) v hw r.info.w1c) := by
  unfold State.w1c
  split
  · exact (hr rfl).elim
  · rfl

/-- Settles O56: what the address names decides what each write does. -/
theorem writesByAddress : Obligations.WritesByAddress := by
  unfold Obligations.WritesByAddress
  intro s a v hw
  refine ⟨fun hd => ?_, fun r i hd hl => ?_, fun r i hd hl hr hm => ?_, fun i hd hl => ?_, fun r i hd => ?_,
    fun r i hd hm => ?_, fun r i b hd hb => ?_, fun r i hd hl => ?_⟩
  · exact ⟨(exec_write_nowhere hd v hw false).1, fun b => (exec_write_nowhere hd v hw b).2⟩
  · simp [exec_w1cWrite hd, exec_registerWrite hd, hl]
  · refine ⟨s.setReg r i (w1cNext (s.reg r i) v hw r.info.w1c), ?_, rfl, ?_⟩
    · rw [exec_w1cWrite hd, hl, beq_false_of_ne hm, s.w1c_stored hr]
      rfl
    exact ⟨fun k hk => by rw [s.setReg_reg, getLsbD_w1cNext _ _ _ _ hk], fun r' i' => s.setReg_reg_key _⟩
  · have hm : Reg.cfgDbState.info.w1c ≠ 0 := by decide
    rw [exec_w1cWrite hd, hl, beq_false_of_ne hm, s.w1c_cfgDbState]
    exact ⟨fun hq => by simp [hq], fun hq => by simp [hq]⟩
  · simp [exec_w1cWrite hd, exec_registerWrite hd]
  · simp [exec_w1cWrite hd, hm]
  · simp [exec_registerWrite hd, hb]
  · simp [exec_registerWrite hd, hl]

end Sys2Proof.Machine

namespace Sys2Proof.Machine

/-! ### Units that the part lacks (R1, R5) -/

/-- The answer of the test for a unit that may be absent names that unit. -/
theorem absent_eq_some {present : Bool} {n m : Nat} {kind k : String}
    (h : (if present then none else some (kind, n)) = some (k, m)) : present = false ∧ kind = k ∧ n = m := by
  cases present <;> simp_all

section
variable {s : State} {n : Nat}

/-- A row of an engine's unit stops for an engine beyond the part's. -/
theorem State.unitRow_absent (h : inRange n s.nEng = false) (q : Nat) (f : State) :
    s.unitRow n q f = .fault (.noSuchUnit "engine" n) := by simp [State.unitRow, h]

/-- Packets and flits come by a port. -/
theorem State.packetRow_absent (h : inRange n s.nPorts = false) (k : Pkt) (cls fop : Nat) (body : State → State) :
    s.packetRow n k cls fop body = .fault (.noSuchUnit "port" n) := by simp [State.packetRow, h, portFault]

theorem State.collRow_absent (h : inRange n s.nPorts = false) (k : Pkt) (phase : Nat) :
    s.collRow n k phase = .fault (.noSuchUnit "port" n) := by
  simp only [State.collRow, s.packetRow_absent h, h, portFault, Bool.false_eq_true, if_false, ite_self]
  rfl

theorem State.takeFlit_absent (h : inRange n s.nPorts = false) (ftype : Nat) (f : Flit) (body : State → State) :
    s.takeFlit n ftype f body = .fault (.noSuchUnit "port" n) := by simp [State.takeFlit, h, portFault]

/-- A row of a register stops for a number beyond those of its window. -/
theorem State.directRow_absent {r : Reg} (h : inRange n (s.winCount r.info.win) = false) (v : W64) :
    s.directRow r n v = .fault (.noSuchUnit "register" n) := by simp [State.directRow, h]

theorem State.clearRow_absent {r : Reg} (h : inRange n (s.winCount r.info.win) = false) (v : W64) :
    s.clearRow r n v = .fault (.noSuchUnit "register" n) := by simp [State.clearRow, h]

/-- The test with which an event row of its own begins: the row stops whatever it would do. -/
theorem absent_stops {b : Bool} (h : b = false) (kind : String) (n : Nat) (o : Out) :
    (if !b then (.fault (.noSuchUnit kind n) : Out) else o) = .fault (.noSuchUnit kind n) := by simp [h]

end


/-- A unit of a die is absent with its die, and when a die has no such unit (R353). -/
theorem execUnitReleaseRequest_absent {s : State} {d : BitVec 3} {u : GovUnit}
    (h : inRange d.toNat s.dies = false ∨ GovUnit.onDie u = false) :
    exec (.unitReleaseRequest d u) s = .fault (.noSuchUnit "unit" d.toNat) := by
  have hu : (!inRange d.toNat s.dies || !GovUnit.onDie u) = true := by rcases h with h | h <;> simp [h]
  cases u <;> exact if_pos hu

/-- Settles O5: every event row begins with the test of the unit that it names. -/
theorem absentUnitsFault : Obligations.AbsentUnitsFault := by
  unfold Obligations.AbsentUnitsFault
  intro s i kind n h
  cases i
  case arrAccept | rowIssue | cellUpdate | runPromotion | spillAdd | drainStart | epilogueRowOutput | slotFree
      | preloadRegionAcquire | preloadRowComplete | outlierTerm | spillRegionAcquire | chainRowReceive | deferredSramWrite
      | injectedCheckTile =>
    obtain ⟨he, rfl, rfl⟩ := absent_eq_some h
    exact State.unitRow_absent he _ _
  case fabReadRequest | fabWriteRequest | fabAtomicRequest | fabResponse =>
    obtain ⟨hp, rfl, rfl⟩ := absent_eq_some h
    simp only [exec, execFabReadRequest, execFabWriteRequest, execFabAtomicRequest, execFabResponse, State.packetRow_absent hp]
  case txnVote | txnDecision =>
    obtain ⟨hp, rfl, rfl⟩ := absent_eq_some h
    simp only [exec, execTxnVote, execTxnDecision, State.packetRow_absent hp, Out.andThen]
  case collExponent | collScale | collContribution | collGather =>
    obtain ⟨hp, rfl, rfl⟩ := absent_eq_some h
    exact State.collRow_absent hp _ _
  case controlFlitReceive | flitNakReceive | flitAckReceive =>
    obtain ⟨hp, rfl, rfl⟩ := absent_eq_some h
    simp only [exec, execControlFlitReceive, execFlitNakReceive, execFlitAckReceive, State.takeFlit_absent hp]
  case engRunaheadWrite | splStageQuotaWrite | govCtrlWrite =>
    obtain ⟨hi, rfl, rfl⟩ := absent_eq_some h
    exact State.directRow_absent hi _
  case engCntClear | accCtrlClear | splCtrlClearWait | splCtrlClearExp | qntCtrlClear | vwmLcCtrlClear =>
    obtain ⟨hi, rfl, rfl⟩ := absent_eq_some h
    exact State.clearRow_absent hi _
  case outlierGranuleAcquire | droopStart | droopEnd | clockGate | govTick | overcurrent | emergencyRegrant | ageingMeasure
      | ageingMeasureDone | cpHeartbeatTimeout | ngfPortEnable | ngfPortRetrain | ngfPortEncrypt | linkTrainDone
      | linkTrainTimeout | alignDone | alignTimeout | capabilityFlitSend | capabilityFlitReceive | negotiateTimeout
      | fecLockLoss | flitDataReceive | flashReadComplete | readDisturbScrub | badBlockDetect | flashChannelFailure
      | vigilExamine =>
    obtain ⟨hn, rfl, rfl⟩ := absent_eq_some h
    exact absent_stops hn _ _ _
  case dieLinkLoss =>
    obtain ⟨hl, rfl, rfl⟩ := absent_eq_some h
    exact absent_stops hl _ _ _
  case unitReleaseRequest d u =>
    have hu : (if GovUnit.onDie u then if inRange d.toNat s.dies then none else some ("unit", d.toNat)
      else some ("unit", d.toNat)) = some (kind, n) := h
    cases hd : GovUnit.onDie u <;> rw [hd] at hu
    · cases hu
      exact execUnitReleaseRequest_absent (.inr hd)
    · obtain ⟨hn, rfl, rfl⟩ := absent_eq_some hu
      exact execUnitReleaseRequest_absent (.inl hn)
  case romComplete l =>
    cases l with
    | none => cases h
    | some l =>
      obtain ⟨hl, rfl, rfl⟩ := absent_eq_some h
      simp [exec, execRomComplete, hl]
  all_goals cases h

end Sys2Proof.Machine

namespace Sys2Proof.Machine

/-! ### What an event leaves alone (R389 to R393) -/

/-- A write of a register leaves every register of another name. -/
theorem State.setReg_reg_notMem (s : State) {rs : List Reg} {r r' : Reg} (h : r ∉ rs) (h' : r' ∈ rs) (i i' : Nat) (v : W64) :
    (s.setReg r' i' v).reg r i = s.reg r i :=
  s.setReg_reg_ne _ _ _ fun e => h (e ▸ h')

/-- The registers that the delivery of events writes. -/
def Reg.ofEvents : List Reg := [.vwmEvtSeq, .vwmEvtProd, .vwmEvtDrop]

/-- From `s` to `t` only what events touch has changed: their registers, the host ring in memory, the log and what is sent. -/
structure State.Logged (s t : State) : Prop where
  frame : t = { s with regs := t.regs, mem := t.mem, poison := t.poison, accPois := t.accPois, freeCount := t.freeCount,
                       evt := t.evt, out := t.out }
  reg : ∀ r, r ∉ Reg.ofEvents → ∀ i, t.reg r i = s.reg r i

namespace State.Logged
variable {s t u : State}

theorem trans (h : s.Logged t) (h' : t.Logged u) : s.Logged u where
  frame := h'.frame.trans (by rw [h.frame])
  reg r hr i := (h'.reg r hr i).trans (h.reg r hr i)

theorem ite (c : Prop) [Decidable c] (h : s.Logged t) (h' : s.Logged u) : s.Logged (if c then t else u) := by
  split
  · exact h
  · exact h'

theorem sent (h : s.Logged t) (e : EvtS) (o : OutS) : s.Logged { t with evt := e, out := o } where
  frame := by rw [h.frame]
  reg := h.reg

theorem wr (h : s.Logged t) (a : Nat) (bs : List Byte) (p : Bool) : s.Logged (t.wr a bs p) where
  frame := by rw [h.frame]; rfl
  reg := h.reg

theorem setReg (h : s.Logged t) {r : Reg} (hr : r ∈ Reg.ofEvents) (i : Nat) (v : W64) : s.Logged (t.setReg r i v) where
  frame := by rw [h.frame]; rfl
  reg r' hr' i' := (t.setReg_reg_notMem hr' hr i' i v).trans (h.reg r' hr' i')

theorem flight_eq (h : s.Logged t) : t.flight = s.flight := by rw [h.frame]

end State.Logged

section
variable (s : State)

theorem State.logged_refl : s.Logged s := ⟨rfl, fun _ _ _ => rfl⟩

theorem State.logEvent_logged (code sev : Nat) (ctx : Option Nat) (o n : Nat) (d : List W32) :
    s.Logged (s.logEvent code sev ctx o n d).2 :=
  (s.logged_refl.setReg (by decide) 0 _).sent _ _

theorem State.sendMgmt_logged (x : EvtRec) : s.Logged (s.sendMgmt x) := by
  unfold State.sendMgmt
  split
  · exact s.logged_refl.sent _ _
  · exact s.logged_refl

theorem State.evtMsix_logged : s.Logged s.evtMsix :=
  .ite _ (s.logged_refl.sent _ _) (s.logged_refl.sent _ _)

theorem State.hostRing_logged (x : EvtRec) : s.Logged (s.hostRing x).2 := by
  unfold State.hostRing
  split
  · exact s.logged_refl
  · split
    · exact s.logged_refl.setReg (by decide) 0 _
    · exact ((s.logged_refl.wr _ _ _).setReg (by decide) 0 _).trans (State.evtMsix_logged _)

theorem State.evtOverflow_logged : s.Logged s.evtOverflow :=
  .ite _ s.logged_refl (((s.logEvent_logged ..).trans (State.sendMgmt_logged _ _)).sent _ _)

theorem State.deliver_logged (code sev : Nat) (ctx : Option Nat) (o time : Nat) (d : List W32) :
    s.Logged (s.deliver code sev ctx o time d) := by
  have hring := (s.logEvent_logged code sev ctx o time d).trans (State.hostRing_logged _ (s.logEvent code sev ctx o time d).1)
  have hsend := fun c [Decidable c] =>
    Logged.ite c (hring.trans (State.sendMgmt_logged _ (s.logEvent code sev ctx o time d).1)) hring
  exact .ite _ ((hsend _).trans (State.evtOverflow_logged _)) (hsend _)

/-- An event, held, dropped or delivered (R389, R424). -/
theorem State.raise_logged (code sev : Nat) (ctx : Option Nat) (o : Nat) (d : List W32) :
    s.Logged (s.raise code sev ctx o d) :=
  .ite _ s.logged_refl (.ite _ (.ite _ (s.logged_refl.sent _ _) (s.logged_refl.setReg (by decide) 0 _)) (s.deliver_logged ..))

end
end Sys2Proof.Machine

namespace Sys2Proof.Machine

/-! ### What the writes with further effects leave alone -/

/-- What each round of a loop keeps, the loop keeps. -/
theorem State.foldl_kept {α β : Type} (get : State → β) {f : State → α → State} (hf : ∀ s a, get (f s a) = get s)
    (l : List α) (s : State) : get (l.foldl f s) = get s := by
  induction l generalizing s with
  | nil => rfl
  | cons a l ih => exact (ih (f s a)).trans (hf s a)

/-- What both branches of a test keep is kept. -/
theorem State.ite_kept {β : Type} (get : State → β) {c : Prop} [Decidable c] {t u : State} {x : β} (ht : get t = x)
    (hu : get u = x) : get (if c then t else u) = x := by
  split
  · exact ht
  · exact hu

section
variable {r : Reg} (s : State) (i : Nat)

/-- A page that waits for an image credit goes on or fails: no register but those of events changes (R247). -/
@[simp] theorem State.failWaits_reg (c p st : Nat) : (s.failWaits c p st).reg r i = s.reg r i :=
  (State.foldl_kept (·.reg r i) (fun t w => by cases w.flight <;> rfl) _ _).trans rfl

theorem State.copyQuotaFail_reg (hr : r ∉ Reg.ofEvents) (c : Nat) : (s.copyQuotaFail c).reg r i = s.reg r i :=
  (State.raise_logged _ ..).reg r hr i

@[simp] theorem State.beginCopy_reg (c p : Nat) : (s.beginCopy c p).reg r i = s.reg r i := rfl

theorem State.retryCredit_reg (hr : r ∉ Reg.ofEvents) (c p : Nat) : (s.retryCredit c p).reg r i = s.reg r i := by
  unfold State.retryCredit
  dsimp only
  split
  · rfl
  · split
    · exact (State.copyQuotaFail_reg _ i hr c).trans (s.failWaits_reg i c p _)
    · exact (State.beginCopy_reg _ i c p).trans (State.ite_kept (·.reg r i) (s.setCtx_reg_same ..) rfl)

theorem State.retryCredits_reg (hr : r ∉ Reg.ofEvents) (c : Nat) : (s.retryCredits c).reg r i = s.reg r i :=
  State.foldl_kept (·.reg r i) (fun t (e : Nat × PageS) => t.retryCredit_reg i hr c e.1) _ s

theorem State.withVigil_reg (v : VigilS) (r : Reg) (i : Nat) : ({ s with vigil := v } : State).reg r i = s.reg r i := rfl

theorem State.withVigil_flight (v : VigilS) : ({ s with vigil := v } : State).flight = s.flight := rfl

/-- A new granularity of Vigil shows in VWM_VIGIL_DIE and may raise an event (R400). -/
theorem State.regrain_reg (hr : r ∉ .vwmVigilDie :: Reg.ofEvents) (d : Nat) : (s.regrain d).reg r i = s.reg r i := by
  have hdie : ∀ v, (s.setReg .vwmVigilDie d v).reg r i = s.reg r i := s.setReg_reg_notMem hr List.mem_cons_self i d
  exact State.ite_kept (·.reg r i) (hdie _) (((State.raise_logged _ ..).reg r (List.not_mem_of_not_mem_cons hr) i).trans
    ((State.withVigil_reg _ _ _ _).trans (hdie _)))

@[simp] theorem State.regrain_flight (d : Nat) : (s.regrain d).flight = s.flight :=
  State.ite_kept (·.flight) (s.setReg_flight ..)
    ((State.raise_logged _ ..).flight_eq.trans ((State.withVigil_flight _ _).trans (s.setReg_flight ..)))

theorem State.regrainAll_reg (hr : r ∉ .vwmVigilDie :: Reg.ofEvents) : s.regrainAll.reg r i = s.reg r i :=
  State.foldl_kept (·.reg r i) (fun t d => t.regrain_reg i hr d) _ s

@[simp] theorem State.regrainAll_flight : s.regrainAll.flight = s.flight :=
  State.foldl_kept (·.flight) (fun t d => t.regrain_flight d) _ s

/-! A port that sends: flits, packets, Lantern records (R266, R268, R397). -/

@[simp] theorem State.closeFlit_reg (n : Nat) : (s.closeFlit n).reg r i = s.reg r i := by
  unfold State.closeFlit
  split <;> rfl

@[simp] theorem State.fillFlits_reg (n : Nat) (k : Pkt) : (s.fillFlits n k).reg r i = s.reg r i := by
  unfold State.fillFlits
  dsimp only
  rw [State.foldl_kept (·.reg r i) (fun t e => by split <;> rfl)]
  split
  · exact s.closeFlit_reg i n
  · rfl

@[simp] theorem State.countSent_reg (n : Nat) (k : Pkt) : (s.countSent n k).2.reg r i = s.reg r i := by
  unfold State.countSent
  dsimp only
  split <;> rfl

/-- The registers that sending by a port writes. -/
def Reg.ofSending : List Reg := [.vwmLcLinkRetry, .lanProd, .lanDrop] ++ Reg.ofEvents

theorem Reg.ofEvents_of_ofSending (hr : r ∉ Reg.ofSending) : r ∉ Reg.ofEvents := fun h =>
  hr (List.mem_append_right _ h)

theorem State.lanWrite_reg (hr : r ∉ Reg.ofSending) (x : LanRec) (time : Nat) :
    (s.lanWrite x time).reg r i = s.reg r i := by
  unfold State.lanWrite
  have hdrop : ∀ v, (s.setReg .lanDrop 0 v).reg r i = s.reg r i := s.setReg_reg_notMem hr (by decide) i 0
  dsimp only
  split
  · split
    · exact hdrop _
    · exact ((State.raise_logged _ ..).reg r (Reg.ofEvents_of_ofSending hr) i).trans (hdrop _)
  · exact State.setReg_reg_notMem _ hr (by decide) i 0 _

theorem State.lanSend_reg (hr : r ∉ Reg.ofSending) (n e : Nat) (o : Outgoing) :
    (s.lanSend n e o).reg r i = s.reg r i := by
  unfold State.lanSend
  split
  · rfl
  · dsimp only
    split
    · exact s.lanWrite_reg i hr _ _
    · rfl

theorem State.emit_reg (hr : r ∉ Reg.ofSending) (n : Nat) (o : Outgoing) : (s.emit n o).reg r i = s.reg r i := by
  unfold State.emit
  dsimp only
  refine (State.lanSend_reg _ i hr _ _ _).trans ((State.countSent_reg _ i _ _).trans ?_)
  split
  · exact (State.setReg_reg_notMem _ hr (by decide) i _ _).trans (State.fillFlits_reg _ i _ _)
  · exact State.fillFlits_reg _ i _ _

theorem State.drainPort_reg (hr : r ∉ Reg.ofSending) (n fuel : Nat) : (s.drainPort n fuel).reg r i = s.reg r i := by
  induction fuel generalizing s with
  | zero => rfl
  | succ fuel ih =>
    unfold State.drainPort
    dsimp only
    split
    · exact (ih _).trans (State.emit_reg _ i hr _ _)
    · rfl

@[simp] theorem State.sendFlit_reg (n ftype ackseq credits vc : Nat) (payload : List Byte) :
    (s.sendFlit n ftype ackseq credits vc payload).reg r i = s.reg r i := by
  unfold State.sendFlit
  dsimp only
  split <;> rfl

theorem State.checkPort_reg (hr : r ∉ Reg.ofSending) (n : Nat) : (s.checkPort n).reg r i = s.reg r i := by
  unfold State.checkPort
  dsimp only
  split
  · refine (State.drainPort_reg _ i hr _ _).trans ?_
    split <;> rfl
  · split
    · rfl
    · exact (State.raise_logged _ ..).reg r (Reg.ofEvents_of_ofSending hr) i

end

/-- The part's identity is stored, whatever the ports do with it (R270). -/
@[simp] theorem State.setPartId_reg (s : State) (v : W64) : (s.setPartId v).reg .ngfPartId 0 = v := by
  unfold State.setPartId
  dsimp only
  split
  · exact s.setReg_reg _ _ _
  · exact (State.foldl_kept (·.reg .ngfPartId 0) (f := State.negotiate) (fun _ _ => rfl) _ _).trans (s.setReg_reg _ _ _)

/-- The fabric digest is stored, and the ports' control flits and checks leave it (R271). -/
@[simp] theorem State.setFabDigest_reg (s : State) (v : W64) : (s.setFabDigest v).reg .ngfFabDigest 0 = v :=
  (State.foldl_kept (·.reg .ngfFabDigest 0)
    (fun t n => (State.checkPort_reg _ 0 (by decide) n).trans (t.sendFlit_reg ..)) _ _).trans (s.setReg_reg _ _ _)

end Sys2Proof.Machine

namespace Sys2Proof.Machine

/-! ### Direct writes (R9, R160, R190, R232, R241, R352, R380) -/

/-- The registers of a context that take a direct write only while it has no command in flight. -/
def Reg.ofIdleCtx : List Reg :=
  [.eqxCtrl, .eqxGroupBase, .eqxGroup, .eqxTimeout, .eqxCredits, .cfgRngSeed, .cfgRngStep, .cfgStreamBase, .almBase]

/-- The registers that only a transaction changes. -/
def Reg.ofTxns : List Reg := [.eqxSyncCfg, .clkPpsCtrl, .vwmAlarmClass, .vwmCheckCtrl]

/-- A direct write that no rule ignores puts the written value, merged over the register's RW fields. -/
theorem State.directRw_puts {s : State} {r : Reg} {i : Nat} (hl : s.regLive r = true) (ht : r ∉ Reg.ofTxns)
    (hf : r ∉ Reg.ofIdleCtx ∨ (s.ctxFlights i).isEmpty = true) (v : W64) :
    s.directRw r i v = s.putReg r i (s.merged r i v (BitVec.allOnes 64)) := by
  unfold State.directRw
  rw [hl]
  simp only [Bool.not_true, Bool.false_eq_true, if_false]
  split
  case h_1 | h_2 | h_3 | h_4 | h_5 | h_6 | h_7 | h_8 | h_9 => exact if_pos (hf.resolve_left (by decide))
  case h_10 | h_11 | h_12 | h_13 => exact (ht (by decide)).elim
  case h_14 => rfl

/-- `t` is `s` with the value `x` in register `r`, number `i`, as far as registers, memory and commands go. -/
def State.Takes (s t : State) (r : Reg) (i : Nat) (x : W64) : Prop :=
  t.reg r i = x ∧ t.mem = s.mem ∧ t.flight = s.flight
    ∧ ∀ r' i', Reg.key r' i' ≠ Reg.key r i → t.reg r' i' = s.reg r' i'

section
variable (s : State) (r : Reg) (i : Nat) (x : W64)

theorem State.setReg_takes : s.Takes (s.setReg r i x) r i x :=
  ⟨s.setReg_reg .., rfl, rfl, fun _ _ h => s.setReg_reg_key x h⟩

/-- More space in the event ring shows only in the log's own state (R392). -/
theorem State.evtSpace_takes : s.Takes (s.setReg r i x).evtSpace r i x := by
  unfold State.evtSpace
  split <;> exact s.setReg_takes r i x

/-- More space in the Lantern ring likewise (R397). -/
theorem State.lanSpace_takes : s.Takes (s.setReg r i x).lanSpace r i x := by
  unfold State.lanSpace
  split <;> exact s.setReg_takes r i x

end

section
variable {s : State} (hp : s.boot.phase = .ready) (hb : s.boot.bases ≠ []) {r : Reg} {i : Nat}
  (hi : inRange i (s.winCount r.info.win) = true) (ht : r ∉ Reg.ofTxns)
  (hf : r ∉ Reg.ofIdleCtx ∨ (s.ctxFlights i).isEmpty = true)
include hp hb hi ht hf

/-- The row of such a write. -/
theorem State.directRow_puts (v : W64) :
    s.directRow r i v = .next (s.putReg r i (s.merged r i v (BitVec.allOnes 64))) := by
  rw [State.directRow, hi, State.directRw_puts (State.regLive_of_ready hp hb r) ht hf]
  rfl

/-- The row, when putting a value does no more than store it. -/
theorem State.directRow_takes (hput : ∀ x, s.Takes (s.putReg r i x) r i x) (v : W64) :
    ∃ t, s.directRow r i v = .next t ∧ s.Takes t r i (s.merged r i v (BitVec.allOnes 64)) :=
  ⟨_, State.directRow_puts hp hb hi ht hf v, hput _⟩

end

/-- A context's number is within each window that has one block per context. -/
theorem inRange_ctx (c : BitVec 6) : inRange c.toNat 64 = true := decide_eq_true c.isLt

/-- Settles O53: every row puts the merged value, and what its chapter starts leaves the rest as stated. -/
theorem directWritesStore : Obligations.DirectWritesStore := by
  unfold Obligations.DirectWritesStore
  intro s hp hb takes
  have one : inRange 0 1 = true := rfl
  refine ⟨fun e v he => ?_, fun c v => ?_, fun d v hd => ?_, fun v => ⟨?_, ?_, ?_, ?_⟩, fun v => ?_, fun v hn => ?_,
    fun v hn => ?_, fun v => ?_, fun c hc v w => ⟨?_, ?_, ?_, ?_, ?_, ?_, ?_, ?_, ?_⟩⟩
  · exact State.directRow_takes hp hb (r := .engRunahead) he (by decide) (.inl (by decide)) (s.setReg_takes _ _) _
  · exact State.directRow_takes hp hb (r := .ngfCtxCtrl) (inRange_ctx c) (by decide) (.inl (by decide)) (s.setReg_takes _ _) _
  · exact State.directRow_takes hp hb (r := .govCtrl) hd (by decide) (.inl (by decide)) (s.setReg_takes _ _) _
  · exact State.directRow_takes hp hb (r := .vwmEvtCtrl) one (by decide) (.inl (by decide)) (s.evtSpace_takes _ _) _
  · exact State.directRow_takes hp hb (r := .vwmEvtCons) one (by decide) (.inl (by decide)) (s.evtSpace_takes _ _) _
  · exact State.directRow_takes hp hb (r := .lanCtrl) one (by decide) (.inl (by decide)) (s.lanSpace_takes _ _) _
  · exact State.directRow_takes hp hb (r := .lanCons) one (by decide) (.inl (by decide)) (s.lanSpace_takes _ _) _
  · exact ⟨_, State.directRow_puts hp hb (r := .vwmVigilCtrl) one (by decide) (.inl (by decide)) _,
      (State.regrainAll_reg _ 0 (by decide)).trans (s.setReg_reg ..), State.regrainAll_flight _⟩
  · exact ⟨_, State.directRow_puts hp hb (r := .ngfPartId) one (by decide) (.inl (by decide)) _,
      (congrArg (State.reg · .ngfPartId 0) (if_neg (by rw [hn]; decide))).trans (s.setPartId_reg _)⟩
  · exact (State.directRow_puts hp hb (r := .ngfPartId) one (by decide) (.inl (by decide)) _).trans (congrArg _ (if_pos hn))
  · exact ⟨_, State.directRow_puts hp hb (r := .ngfFabDigest) one (by decide) (.inl (by decide)) _, s.setFabDigest_reg _⟩
  · exact State.directRow_takes hp hb (r := .eqxCtrl) (inRange_ctx c) (by decide) (.inr hc) (s.setReg_takes _ _) _
  · exact State.directRow_takes hp hb (r := .eqxGroupBase) (inRange_ctx c) (by decide) (.inr hc) (s.setReg_takes _ _) _
  · exact State.directRow_takes hp hb (r := .eqxGroup) (inRange_ctx c) (by decide) (.inr hc) (s.setReg_takes _ _) _
  · exact State.directRow_takes hp hb (r := .eqxTimeout) (inRange_ctx c) (by decide) (.inr hc) (s.setReg_takes _ _) _
  · exact State.directRow_takes hp hb (r := .cfgRngSeed) (inRange_ctx c) (by decide) (.inr hc) (s.setReg_takes _ _) _
  · exact State.directRow_takes hp hb (r := .cfgRngStep) (inRange_ctx c) (by decide) (.inr hc) (s.setReg_takes _ _) _
  · exact State.directRow_takes hp hb (r := .cfgStreamBase) (inRange_ctx c) (by decide) (.inr hc) (s.setReg_takes _ _) _
  · exact State.directRow_takes hp hb (r := .almBase) (inRange_ctx c) (by decide) (.inr hc) (s.setReg_takes _ _) _
  · exact ⟨_, State.directRow_puts hp hb (r := .eqxCredits) (inRange_ctx c) (by decide) (.inr hc) _,
      (State.retryCredits_reg _ _ (by decide) _).trans (s.setReg_reg ..)⟩

end Sys2Proof.Machine

namespace Sys2Proof

/-! ### The bytes of a number, the least significant first (R7) -/

@[simp] theorem leBytes_length (n v : Nat) : (leBytes n v).length = n := by
  induction n generalizing v with
  | zero => rfl
  | succ n ih => exact congrArg (· + 1) (ih _)

theorem leBytes_drop (k n v : Nat) : (leBytes n v).drop k = leBytes (n - k) (v / 256 ^ k) := by
  induction k generalizing n v with
  | zero => simp
  | succ k ih =>
    cases n with
    | zero => simp [leBytes]
    | succ n => rw [leBytes, List.drop_succ_cons, ih, Nat.div_div_eq_div_mul, ← Nat.pow_succ', Nat.succ_sub_succ]

theorem leBytes_take (k n v : Nat) : (leBytes n v).take k = leBytes (min k n) v := by
  induction k generalizing n v with
  | zero => simp [leBytes]
  | succ k ih =>
    cases n with
    | zero => simp [leBytes]
    | succ n => rw [leBytes, List.take_succ_cons, ih, Nat.succ_min_succ, leBytes]

/-- `n` bytes hold the low 8·n bits of a number. -/
theorem ofLeBytes_leBytes (n v : Nat) : ofLeBytes (leBytes n v) = v % 256 ^ n := by
  induction n generalizing v with
  | zero => rw [Nat.pow_zero, Nat.mod_one]; rfl
  | succ n ih => rw [leBytes, ofLeBytes, ih, BitVec.toNat_ofNat, Nat.pow_succ' (n := n), Nat.mod_mul]

theorem leBytes_getElem {n i : Nat} (v : Nat) (h : i < (leBytes n v).length) :
    (leBytes n v)[i] = BitVec.ofNat 8 (v / 256 ^ i) := by
  induction n generalizing i v with
  | zero => exact absurd h (Nat.not_lt_zero i)
  | succ n ih =>
    cases i with
    | zero => simp [leBytes]
    | succ i =>
      simp only [leBytes, List.getElem_cons_succ]
      rw [ih, Nat.div_div_eq_div_mul, ← Nat.pow_succ']

theorem pow_byte (i : Nat) : 256 ^ i = 2 ^ (8 * i) := (Nat.pow_mul 2 8 i).symm

/-- Bit `k` of byte `i` is bit 8·i + k of the number. -/
theorem leBytes_getLsbD {n i k : Nat} (v : Nat) (h : i < (leBytes n v).length) (hk : k < 8) :
    ((leBytes n v)[i]).getLsbD k = v.testBit (8 * i + k) := by
  rw [leBytes_getElem, BitVec.getLsbD_ofNat, decide_eq_true hk, Bool.true_and, pow_byte, Nat.testBit_div_two_pow,
    Nat.add_comm]

/-- Rounding up to whole groups of `b` leaves no part of `a` out. -/
theorem le_mul_ceilDiv (a : Nat) {b : Nat} (hb : 0 < b) : a ≤ b * ceilDiv a b := by
  have := Nat.div_add_mod (a + b - 1) b
  have := Nat.mod_lt (a + b - 1) hb
  unfold ceilDiv
  omega

end Sys2Proof

namespace Sys2Proof.Machine

/-! ### Packed codes (R53) -/

/-- A code as an unsigned number of `w` bits. -/
def codeBits (w : Nat) (c : Int) : Nat := (c % (2 ^ w : Nat)).toNat

theorem codeBits_lt (w : Nat) (c : Int) : codeBits w c < 2 ^ w := by
  have hpos : (0 : Int) < (2 ^ w : Nat) := Int.natCast_pos.mpr (Nat.two_pow_pos w)
  have := Int.emod_lt_of_pos c hpos
  have := Int.emod_nonneg c (Int.ne_of_gt hpos)
  unfold codeBits
  omega

/-- The stream as one number: code 0 lowest. -/
def streamNat (w : Nat) (codes : List Int) : Nat := codes.foldr (fun c acc => acc * 2 ^ w + codeBits w c) 0

theorem streamPack_eq (w : Nat) (codes : List Int) :
    streamPack w codes = leBytes (ceilDiv (w * codes.length) 8) (streamNat w codes) := rfl

theorem streamNat_cons (w : Nat) (c : Int) (codes : List Int) :
    streamNat w (c :: codes) = 2 ^ w * streamNat w codes + codeBits w c := by
  rw [Nat.mul_comm]
  rfl

/-- Bit j of the stream is bit j mod w of code j / w. -/
theorem streamNat_testBit {w : Nat} (hw : 0 < w) {codes : List Int} {j : Nat} (hj : j / w < codes.length) :
    (streamNat w codes).testBit j = (codeBits w codes[j / w]).testBit (j % w) := by
  induction codes generalizing j with
  | nil => exact absurd hj (Nat.not_lt_zero _)
  | cons c codes ih =>
    rw [streamNat_cons, Nat.testBit_two_pow_mul_add _ (codeBits_lt w c)]
    split
    next hlow => simp only [Nat.div_eq_of_lt hlow, Nat.mod_eq_of_lt hlow, List.getElem_cons_zero]
    next hhigh =>
      obtain ⟨i, rfl⟩ := Nat.exists_eq_add_of_le' (Nat.le_of_not_lt hhigh)
      simp only [Nat.add_div_right i hw, List.length_cons] at hj
      simp only [Nat.add_div_right i hw, Nat.add_mod_right, Nat.add_sub_cancel, List.getElem_cons_succ]
      exact ih (Nat.lt_of_succ_lt_succ hj)

/-- The three bytes from byte n·w / 8 on hold element `n`, so that reading it reads bits of the number. -/
theorem streamGet_leBytes {w n len v : Nat} (hw : w ≤ 8) (hn : n * w + w ≤ 8 * len) :
    streamGet (leBytes len v) w n = (v >>> (n * w)) % 2 ^ w := by
  apply Nat.eq_of_testBit_eq
  intro k
  simp only [streamGet, leBytes_drop, leBytes_take, ofLeBytes_leBytes, Nat.testBit_mod_two_pow, Nat.testBit_shiftRight]
  by_cases hk : k < w
  · have hin : n * w % 8 + k < 8 * min 3 (len - n * w / 8) := by omega
    rw [pow_byte, pow_byte, Nat.testBit_mod_two_pow, Nat.testBit_div_two_pow, decide_eq_true hin, Bool.true_and,
      show n * w % 8 + k + 8 * (n * w / 8) = n * w + k by omega]
  · simp [hk]

/-- Bits [n·w + w - 1 : n·w] of the stream are code `n`. -/
theorem streamNat_code {w n : Nat} (hw : 0 < w) {codes : List Int} (hn : n < codes.length) :
    (streamNat w codes >>> (n * w)) % 2 ^ w = codeBits w codes[n] := by
  apply Nat.eq_of_testBit_eq
  intro k
  rw [Nat.testBit_mod_two_pow, Nat.testBit_shiftRight]
  by_cases hk : k < w
  · have hdiv : (n * w + k) / w = n := by
      rw [Nat.add_comm, Nat.add_mul_div_right _ _ hw, Nat.div_eq_of_lt hk, Nat.zero_add]
    rw [decide_eq_true hk, Bool.true_and, streamNat_testBit hw (by rwa [hdiv])]
    simp only [hdiv, Nat.mul_add_mod', Nat.mod_eq_of_lt hk]
  · have hle : codeBits w codes[n] < 2 ^ k := Nat.lt_of_lt_of_le (codeBits_lt ..) (Nat.pow_le_pow_right (by decide) (by omega))
    simp [hk, Nat.testBit_lt_two_pow hle]

/-- Settles O59: a stream is the bytes of one number, whose bits are those of its codes in turn. -/
theorem packedCodesReadBack : Obligations.PackedCodesReadBack := by
  unfold Obligations.PackedCodesReadBack
  intro w codes hw hw8
  rw [streamPack_eq]
  refine ⟨leBytes_length .., fun n hn => ?_, fun j hj hb => ?_⟩
  · have hfit : n * w + w ≤ 8 * ceilDiv (w * codes.length) 8 :=
      calc n * w + w = w * (n + 1) := by rw [Nat.mul_succ, Nat.mul_comm]
        _ ≤ w * codes.length := Nat.mul_le_mul_left w hn
        _ ≤ _ := le_mul_ceilDiv _ (by decide)
    exact (streamGet_leBytes hw8 hfit).trans (streamNat_code hw hn)
  · rw [leBytes_getLsbD _ _ (Nat.mod_lt j (by decide)), Nat.div_add_mod]
    exact streamNat_testBit hw hj

/-! ### Rounding (R62, R63) -/

/-- No multiple of the quantum is nearer than the nearer of the two neighbours. -/
theorem Mag.neighbour_le_dist (m : Mag) (n : Nat) :
    min (m.num % m.den) (m.den - m.num % m.den) ≤ ((m.num : Int) - n * m.den).natAbs := by
  have hnum := Nat.div_add_mod' m.num m.den
  obtain hlt | hle := Nat.lt_or_ge (m.num / m.den) n
  · have := Nat.mul_le_mul_right m.den (Nat.succ_le_of_lt hlt)
    rw [Nat.succ_mul] at this
    omega
  · have := Nat.mul_le_mul_right m.den hle
    omega

/-- The lower neighbour is taken when the fraction is at most a half, the upper one when it is at least a half. -/
theorem Mag.rne_cases (m : Mag) :
    (m.rne = m.num / m.den ∧ 2 * (m.num % m.den) ≤ m.den)
    ∨ (m.rne = m.num / m.den + 1 ∧ m.den ≤ 2 * (m.num % m.den)) := by
  unfold Mag.rne
  dsimp only
  split
  · exact .inl ⟨rfl, by omega⟩
  · split
    · exact .inr ⟨rfl, by omega⟩
    · split
      · exact .inl ⟨rfl, by omega⟩
      · exact .inr ⟨rfl, by omega⟩

/-- Rounding to nearest even lands at the distance of the nearer neighbour. -/
theorem Mag.rne_dist {m : Mag} (hd : 0 < m.den) :
    ((m.num : Int) - m.rne * m.den).natAbs = min (m.num % m.den) (m.den - m.num % m.den) := by
  have hnum := Nat.div_add_mod' m.num m.den
  have hmod := Nat.mod_lt m.num hd
  obtain ⟨h, hdown⟩ | ⟨h, hup⟩ := m.rne_cases
  · rw [h]
    omega
  · rw [h, Int.natCast_succ, Int.add_mul]
    omega

theorem Mag.rne_even_of_tie {m : Mag} (h : 2 * (m.num % m.den) = m.den) : m.rne % 2 = 0 := by
  unfold Mag.rne
  simp only [h, Nat.lt_irrefl, if_false]
  split <;> omega

/-- Settles O57: it lands at the nearer neighbour, and chooses the even one at a tie. -/
theorem nearestEvenIsNearest : Obligations.NearestEvenIsNearest := by
  unfold Obligations.NearestEvenIsNearest
  exact fun m hd => ⟨fun n => Mag.rne_dist hd ▸ m.neighbour_le_dist n, Mag.rne_even_of_tie⟩

/-- Stochastic rounding adds 1 to the floor when the fraction's upper 16 bits and the draw reach 65,536. -/
theorem Mag.stoch_eq (m : Mag) (draw : Nat) :
    m.stoch draw = m.num / m.den + if 65536 ≤ (m.num % m.den) * 65536 / m.den + draw then 1 else 0 := by
  unfold Mag.stoch
  dsimp only
  split <;> rfl

theorem Mag.stoch_eq_succ_iff (m : Mag) (draw : Nat) :
    m.stoch draw = m.num / m.den + 1 ↔ 65536 ≤ (m.num % m.den) * 65536 / m.den + draw := by
  rw [Mag.stoch_eq]
  split <;> simp [*]

/-- A representable value has no fraction, and no draw reaches 65,536. -/
theorem Mag.stoch_of_mod_eq_zero {m : Mag} {draw : Nat} (h : m.num % m.den = 0) (hr : draw < 65536) :
    m.stoch draw = m.num / m.den := by
  rw [Mag.stoch_eq, h, Nat.zero_mul, Nat.zero_div, Nat.zero_add, if_neg (Nat.not_le_of_lt hr), Nat.add_zero]

theorem roundInt_stoch_false (m : Mag) (draw : Nat) : roundInt (.fin false m) (.stoch draw) = m.stoch draw := rfl

theorem Mag.ceil_bounds {m : Mag} (hd : 0 < m.den) : m.num ≤ m.ceil * m.den ∧ m.ceil * m.den < m.num + m.den := by
  have := Nat.div_add_mod' (m.num + m.den - 1) m.den
  have := Nat.mod_lt (m.num + m.den - 1) hd
  unfold Mag.ceil
  omega

/-- The floor of a negated magnitude is its ceiling, negated, and its fraction is what the ceiling adds. -/
theorem Mag.neg_fdiv_emod {m : Mag} (hd : 0 < m.den) :
    Int.fdiv (-(m.num : Int)) m.den = -(m.ceil : Int)
    ∧ Int.emod (-(m.num : Int)) m.den = ((m.ceil * m.den - m.num : Nat) : Int) := by
  obtain ⟨hle, hlt⟩ := Mag.ceil_bounds hd
  rw [Int.fdiv_eq_ediv_of_nonneg _ (Int.natCast_nonneg _)]
  refine (Int.ediv_emod_unique (Int.natCast_pos.mpr hd)).mpr ⟨?_, Int.natCast_nonneg _, by omega⟩
  rw [Int.ofNat_sub hle, Int.natCast_mul, Int.mul_neg, Int.mul_comm (m.den : Int)]
  omega

/-- Below zero an integer target rounds on the signed value: its floor, and 1 more when the draw says so. -/
theorem roundInt_stoch_true {m : Mag} (hd : 0 < m.den) (draw : Nat) :
    roundInt (.fin true m) (.stoch draw) = Int.fdiv (-(m.num : Int)) m.den
      + (if (65536 : Int) ≤ Int.emod (-(m.num : Int)) m.den * 65536 / m.den + draw then 1 else 0) := by
  obtain ⟨hfloor, hfrac⟩ := Mag.neg_fdiv_emod hd
  have htest : ∀ k : Nat, (65536 : Int) ≤ (k : Int) * 65536 / m.den + draw ↔ 65536 ≤ k * 65536 / m.den + draw := fun k => by
    rw [← Int.ofNat_le, Int.natCast_add, Int.natCast_ediv, Int.natCast_mul, Int.cast_ofNat_Int]
  rw [hfloor, hfrac]
  simp only [htest]
  unfold roundInt
  dsimp only
  rw [if_pos rfl]
  split
  · rfl
  · exact (Int.add_zero _).symm

/-- An integer target holds a representable value of either sign as it is. -/
theorem roundInt_stoch_of_mod_eq_zero {m : Mag} {draw : Nat} (hd : 0 < m.den) (h : m.num % m.den = 0) (hr : draw < 65536)
    (b : Bool) : roundInt (.fin b m) (.stoch draw)
      = if b then -((m.num / m.den : Nat) : Int) else ((m.num / m.den : Nat) : Int) := by
  cases b with
  | false => exact congrArg Nat.cast (Mag.stoch_of_mod_eq_zero h hr)
  | true =>
    have hdvd : (m.den : Int) ∣ m.num := Int.natCast_dvd_natCast.mpr (Nat.dvd_of_mod_eq_zero h)
    have hfrac : Int.emod (-(m.num : Int)) m.den = 0 := Int.emod_eq_zero_of_dvd (Int.dvd_neg.mpr hdvd)
    rw [roundInt_stoch_true hd, hfrac, Int.zero_mul, Int.zero_ediv, if_neg (by omega), Int.add_zero,
      Int.fdiv_eq_ediv_of_nonneg _ (Int.natCast_nonneg _), Int.neg_ediv_of_dvd hdvd, ← Int.natCast_ediv, if_pos rfl]

/-- Settles O58: floor and draw decide on the magnitude, and on the signed value for an integer target. -/
theorem stochasticRoundingFollowsTheDraw : Obligations.StochasticRoundingFollowsTheDraw := by
  unfold Obligations.StochasticRoundingFollowsTheDraw
  intro m draw hd hr
  refine ⟨?_, m.stoch_eq_succ_iff draw, fun h => ⟨Mag.stoch_of_mod_eq_zero h hr, roundInt_stoch_of_mod_eq_zero hd h hr⟩,
    roundInt_stoch_false m draw, roundInt_stoch_true hd draw⟩
  rw [Mag.stoch_eq]
  split
  · exact .inr rfl
  · exact .inl rfl

end Sys2Proof.Machine

namespace Sys2Proof.Machine
open Sys2Proof

/-! ### Array commands and the rows of an engine -/

/-- A packet whose checks find no fault once it is dispatched runs. -/
theorem State.packet_guarded {s : State} {h : Hdr} {o : Opc} (r : s.Ready h o) {check : State → Nat → Option Err}
    (ok : check (s.dispatched h o.code) (s.ctxOf h) = none) (run : Nat → Nat → State → State) :
    s.packet s.txnScopes h o (fun id c t => t.guarded id (check t c) (run id c)) = .next (s.after h o.code run) := by
  rw [State.packet_ready r]
  simp only [State.after, State.guarded_none ok]

/-- Settles O13: the command is dispatched, its checks let it pass, and it reaches its engine. -/
theorem arrayCommandsReachEngines : Obligations.ArrayCommandsReachEngines := by
  unfold Obligations.ArrayCommandsReachEngines
  intro h s
  refine ⟨fun p r ok => ?matmul, fun p r ok => ?drain, fun e m r ok => ?mode, fun e pat bad r ok => ?check,
    fun dst first n r ok => ?mapRead⟩
  case matmul => exact State.packet_guarded r (check := fun t c => t.chkEngine c 4 p.engine.toNat) ok _
  case drain => exact State.packet_guarded r (check := fun t c => t.chkEngine c 4 p.engine.toNat) ok _
  case mode => exact State.packet_guarded r (check := fun t c => t.chkEngine c 4 e.toNat) ok _
  case check => exact State.packet_guarded r (check := fun t c => t.chkEngine c 4 e.toNat) ok _
  case mapRead => exact State.packet_guarded r (check := fun t c => t.mapReadErr c dst first n) ok _

section
variable {s f t : State} {e q : Nat}

/-- A row of a unit that takes part in the work leaves its state, its engine's owner settled. -/
theorem State.unitRow_live (live : s.UnitLive e q) (hf : f = t) : s.unitRow e q f = .next (t.settleOwner e) := by
  obtain ⟨hrange, hlive, hunit⟩ := live
  have hmode : (!(s.eng e).quarter && q != 0) = false := by
    rcases hunit with h | h <;> simp [h]
  simp [State.unitRow, hrange, hlive, hmode, hf]

/-- Unit 0 takes part whenever a unit of its engine does. -/
theorem State.UnitLive.unit_zero (live : s.UnitLive e q) : s.UnitLive e 0 := by
  obtain ⟨hrange, hlive, -⟩ := live
  exact ⟨hrange, hlive, .inr rfl⟩

/-- Work of a granted engine is done. -/
theorem State.workRow_granted (live : s.UnitLive e q) (granted : s.engGranted e = true) (hf : f = t) :
    s.workRow e q f = .next (t.settleOwner e) :=
  State.unitRow_live live ((if_pos granted).trans hf)

/-- Work of an engine without a grant waits (R356). -/
theorem State.workRow_waits (live : s.UnitLive e q) (waits : s.engGranted e = false) :
    s.workRow e q f = .next (s.settleOwner e) :=
  State.unitRow_live live (if_neg (by simp [waits]))

/-- The owner of an engine that has consumed no poison is not terminated. -/
theorem State.settleOwner_calm (calm : ∀ c, t.ownerOf (clusterOfEng e) = some c → t.Calm c) : t.settleOwner e = t := by
  unfold State.settleOwner
  split
  · rename_i c hc
    have hcalm : (t.ctx c).consumed = false := calm c hc
    simp [State.settle, hcalm]
  · rfl

end

/-- A held write that nothing reads any more is made, and its engine forgets it (R90). -/
theorem exec_deferredSramWrite {s : State} {e : BitVec 11} {d : DeferWrite} (live : s.UnitLive e.toNat 0)
    (calm : ∀ c, s.ownerOf (clusterOfEng e.toNat) = some c → s.Calm c)
    (found : (s.eng e.toNat).deferred.find? (fun d => !s.stillRead e.toNat d.off d.bytes.length) = some d) :
    exec (.deferredSramWrite e) s = .next
      ((s.wr (physSram (33554432 * (e.toNat / 16) + 1048576 * (e.toNat % 16) + d.off)) d.bytes d.poison).updEng e.toNat
        fun x => { x with deferred := dropFirst (fun y => y == d) x.deferred }) :=
  (State.unitRow_live live (by simp only [found])).trans (congrArg _ (State.settleOwner_calm calm))

/-- Settles O16: the store is written at its place, and no context is terminated. -/
theorem deferredStoreLands : Obligations.DeferredStoreLands := by
  unfold Obligations.DeferredStoreLands
  intro s e d live calm found clean a
  rw [exec_deferredSramWrite live calm found, clean]
  exact ⟨_, rfl, wr_byte s a d.bytes, wr_frame s a d.bytes false, rfl, rfl, rfl, rfl, rfl⟩

/-- Settles O15: a live unit's row leaves what its branch names, its engine's owner settled. -/
theorem engineRowsRun : Obligations.EngineRowsRun := by
  unfold Obligations.EngineRowsRun
  refine ⟨fun s e q live => ⟨fun now => ⟨fun m hfront hhead => ?accept, fun t hfront => ?runs⟩, fun later => ?modeLasts,
    fun n t ht => ?region, fun granted => ⟨fun b hb => ?issue, fun x rest hx => ?cells, fun x rest hx => ?promo,
      fun x rest hx => ?spill, fun t ht => ?drain, fun d o t ho ht => ?output, fun d hd => ?free⟩, fun waits c hc => ?waits⟩,
    fun s e q r live => ⟨fun t ht => ?receive, fun none => ?noRow, fun t k hq hk ht => ?preRegion,
      fun t d granted hpre hout => ?preRow, fun t d hpre hout hread hgrant => ?term,
      fun n bad hn hper hready hret hboot hdue => ⟨fun waits => ?checkAsks, fun granted => ?checkRuns⟩⟩⟩
  case accept => exact State.unitRow_live live (by simp only [Nat.not_lt.2 now, if_false, hfront, hhead])
  case runs => exact State.unitRow_live live (by simp only [Nat.not_lt.2 now, if_false, hfront])
  case modeLasts => exact State.unitRow_live live (if_pos later)
  case region => exact State.unitRow_live live.unit_zero (by simp only [ht])
  case issue => exact State.workRow_granted live granted (by simp [hb])
  case cells => exact State.workRow_granted live granted (by simp only [hx])
  case promo => exact State.workRow_granted live granted (by simp only [hx])
  case spill => exact State.workRow_granted live granted (by simp only [hx])
  case drain => exact State.workRow_granted live granted (by simp only [ht])
  case output => exact State.workRow_granted live granted (by simp only [ho, ht])
  case free => exact State.workRow_granted live granted (by simp only [hd])
  case waits =>
    simp only [List.mem_cons, List.not_mem_nil, or_false] at hc
    rcases hc with rfl | rfl | rfl | rfl | rfl | rfl | rfl | rfl <;> exact State.workRow_waits live waits
  case receive => exact State.unitRow_live live.unit_zero (by rw [ht]; rfl)
  case noRow => exact State.unitRow_live live.unit_zero (by rw [none]; rfl)
  case preRegion => exact State.unitRow_live live (by simp only [hq, ht, hk]; rfl)
  case preRow => exact State.workRow_granted live granted (by
    simp only [hpre]
    exact if_neg (by simpa using hout))
  case term => exact State.unitRow_live live (by simp [hpre, hout, hread, hgrant])
  case checkAsks =>
    have hkept : e.toNat ∉ s.retEng := by simpa using hret
    exact State.unitRow_live live.unit_zero (by
      simp [hper, hready, hkept, hboot, waits, Nat.not_lt.2 hdue, Nat.ne_of_gt hn])
  case checkRuns =>
    have hkept : e.toNat ∉ s.retEng := by simpa using hret
    exact State.unitRow_live live.unit_zero (by
      simp [hper, hready, hkept, hboot, granted, Nat.not_lt.2 hdue, Nat.ne_of_gt hn])

end Sys2Proof.Machine

namespace Sys2Proof.Machine
open Sys2Proof

/-! ### The memories keep their canonical form

Every part of the model that makes a state gets one lemma: from memories in canonical form it makes memories in canonical
form. It stands under the name of that part in the namespace `State.memWf`, in the order of the model's files. The proof
follows the definition: `update` where fields other than the memories change, `wr_wf` and its fellows where bytes are
written, `ite`, `foldl` and `OptWf` for the control flow, and the lemma of each part that is called. -/


/-- The state that an outcome leaves, if it leaves one, has its memories in canonical form. -/
def OutWf (o : Out) : Prop := ∀ t, o = .next t → t.memWf

/-- A state that may be missing has its memories in canonical form. -/
def OptWf (o : Option State) : Prop := ∀ t, o = some t → t.memWf

section
variable {s : State}

namespace OutWf

theorem next (hs : s.memWf) : OutWf (.next s) := fun _ h => Host.Outcome.next.inj h ▸ hs

theorem fault {f : Fault} : OutWf (.fault f) := fun _ h => by cases h

theorem ite {c : Prop} [Decidable c] {o p : Out} (ho : OutWf o) (hp : OutWf p) : OutWf (if c then o else p) := by
  split
  · exact ho
  · exact hp

theorem andThen {o : Out} {f : State → State} (hf : ∀ {t : State}, t.memWf → (f t).memWf) (ho : OutWf o) :
    OutWf (o.andThen f) := by
  cases o with
  | next t => exact next (hf (ho t rfl))
  | fault e => exact fault
  | refused r => exact fun _ h => by cases h

end OutWf

namespace OptWf

theorem some (hs : s.memWf) : OptWf (.some s) := fun _ h => Option.some.inj h ▸ hs

theorem none : OptWf .none := fun _ h => by cases h

theorem ite {c : Prop} [Decidable c] {o p : Option State} (ho : OptWf o) (hp : OptWf p) :
    OptWf (if c then o else p) := by
  split
  · exact ho
  · exact hp

theorem mapOf {α : Type} {o : Option α} {f : α → State} (hf : ∀ {a}, o = .some a → (f a).memWf) : OptWf (o.map f) := by
  intro t h
  obtain ⟨a, ha, rfl⟩ := Option.map_eq_some_iff.1 h
  exact hf ha

theorem map {o : Option State} {f : State → State} (hf : ∀ {t : State}, t.memWf → (f t).memWf) (ho : OptWf o) :
    OptWf (o.map f) :=
  mapOf fun h => hf (ho _ h)

theorem bind {α : Type} {o : Option α} {f : α → Option State} (hf : ∀ {a}, OptWf (f a)) : OptWf (o.bind f) := by
  intro t h
  obtain ⟨a, -, ha⟩ := Option.bind_eq_some_iff.1 h
  exact hf t ha

theorem findSome {α : Type} {l : List α} {f : α → Option State} (hf : ∀ {a}, OptWf (f a)) : OptWf (l.findSome? f) := by
  intro t h
  obtain ⟨a, -, ha⟩ := List.exists_of_findSome?_eq_some h
  exact hf t ha

end OptWf

namespace State.memWf

theorem ite {c : Prop} [Decidable c] {t u : State} (ht : t.memWf) (hu : u.memWf) : (if c then t else u).memWf := by
  split
  · exact ht
  · exact hu

theorem getD {o : Option State} {d : State} (ho : OptWf o) (hd : d.memWf) : (o.getD d).memWf := by
  cases o with
  | none => exact hd
  | some t => exact ho t rfl

/-- An update of any fields but the memories (its proof compares no field, where `rfl` would try each). -/
theorem update
    {pending tied variant freeCount regs poison accPois boot clk gov therm temps thermtrip brakeN smbAddr ages
    sec hist evt mgmt out retEng badPairs permPairs retElt retQnt badLanes selftestGen queues ctrs ctrSnap
    visits flight nextId cals txns capTable owner ctxs pages nextFrame nextFpage images ftl engs clus scales
    qnts elts ports fab colls early vigil lanFull : _}
    (hs : s.memWf) :
    (State.mk pending tied variant freeCount regs s.mem poison accPois boot clk gov therm temps thermtrip brakeN smbAddr
    ages sec hist evt mgmt out retEng badPairs permPairs retElt retQnt badLanes selftestGen queues ctrs
    ctrSnap visits flight nextId cals txns capTable owner ctxs pages nextFrame nextFpage images ftl engs clus
    scales qnts elts ports fab colls early vigil lanFull).memWf :=
  hs

/-- What each round of a loop keeps, the loop keeps. -/
theorem foldl {α : Type} {f : State → α → State} {l : List α} (hf : ∀ {t : State} {a : α}, t.memWf → (f t a).memWf)
    (hs : s.memWf) : (l.foldl f s).memWf := by
  induction l generalizing s with
  | nil => exact hs
  | cons a l ih => exact ih (hf hs)

/-- The same for a loop that carries a value beside the state. -/
theorem foldlSnd {α β : Type} {f : β × State → α → β × State} {l : List α} {p : β × State}
    (hf : ∀ {q : β × State} {a : α}, q.2.memWf → (f q a).2.memWf) (hp : p.2.memWf) : (l.foldl f p).2.memWf := by
  induction l generalizing p with
  | nil => exact hp
  | cons a l ih => exact ih (hf hp)

theorem iteSnd {α : Type} {c : Prop} [Decidable c] {p q : α × State} (hp : p.2.memWf) (hq : q.2.memWf) :
    (if c then p else q).2.memWf := by
  split
  · exact hp
  · exact hq

theorem ofPair {α : Type} {p : α × State} {a : α} (e : p = (a, s)) (h : p.2.memWf) : s.memWf := by
  subst e
  exact h

theorem ofTriple {α β : Type} {p : α × β × State} {a : α} {b : β} (e : p = (a, b, s)) (h : p.2.2.memWf) : s.memWf := by
  subst e
  exact h

theorem ofMiddle {α β : Type} {p : α × State × β} {a : α} {b : β} (e : p = (a, s, b)) (h : p.2.1.memWf) : s.memWf := by
  subst e
  exact h

/-! ### Sys2Proof/Machine/Ops.lean -/

theorem sendMgmt {r : EvtRec} (hs : s.memWf) : (s.sendMgmt r).memWf := by
  unfold State.sendMgmt
  split
  · exact hs
  · exact hs

theorem evtMsix (hs : s.memWf) : s.evtMsix.memWf := .ite hs hs

theorem hostRing {r : EvtRec} (hs : s.memWf) : ((s.hostRing r).2).memWf := by
  unfold State.hostRing
  split
  · exact hs
  · split
    · exact hs
    · exact evtMsix (update (wr_wf _ _ _ _ hs))

theorem evtOverflow (hs : s.memWf) : s.evtOverflow.memWf := .ite hs (update (sendMgmt hs))

theorem deliver {code sev : Nat} {ctx : Option Nat} {origin time : Nat} {detail : List W32} (hs : s.memWf) :
    (s.deliver code sev ctx origin time detail).memWf :=
  .ite (evtOverflow (.ite (sendMgmt (hostRing hs)) (hostRing hs))) (.ite (sendMgmt (hostRing hs)) (hostRing hs))

theorem raise {code sev : Nat} {ctx : Option Nat} {origin : Nat} {detail : List W32} (hs : s.memWf) :
    (s.raise code sev ctx origin detail).memWf :=
  .ite hs (.ite (.ite hs hs) (deliver hs))

theorem consume {id c a : Nat} (hs : s.memWf) : (s.consume id c a).memWf := by
  unfold State.consume
  dsimp only
  split
  · exact .ite (update hs) (raise (update (update (update (update hs)))))
  · exact update hs

theorem consumeRange {id c a n : Nat} (hs : s.memWf) : (s.consumeRange id c a n).memWf := by
  unfold State.consumeRange
  split
  · exact consume hs
  · exact hs

theorem copyQuotaFail {c : Nat} (hs : s.memWf) : (s.copyQuotaFail c).memWf := raise hs

theorem storePage {fl : Option Nat} {c a : Nat} {bs : List Byte} {pois : Bool} (hs : s.memWf) :
    ((s.storePage fl c a bs pois).2).memWf := by
  unfold State.storePage
  dsimp only
  split
  · exact hs
  · split
    · exact hs
    · split
      · exact update hs
      · split
        · split
          · exact update (update hs)
          · split
            · exact copyQuotaFail hs
            · split
              · exact update (update (update (update hs)))
              · exact update (update (update hs))
        · exact wr_wf _ _ _ _ hs

/-! ### Sys2Proof/Machine/Operands.lean -/

theorem storeSram {id off : Nat} {bs : List Byte} {pois : Bool} (hs : s.memWf) : (s.storeSram id off bs pois).memWf :=
  .ite hs (wr_wf _ _ _ _ hs)

theorem storePiece {id c a : Nat} {bs : List Byte} {pois : Bool} (hs : s.memWf) :
    (s.storePiece id c a bs pois).memWf := by
  refine .ite hs ?_
  split
  · exact update (storeSram hs)
  · exact update (wr_wf _ _ _ _ hs)
  · split <;> (rename_i heq; exact update (ofPair heq (storePage hs)))
  · exact hs

theorem store {id c a : Nat} {bs : List Byte} {pois : Bool} (hs : s.memWf) : (s.store id c a bs pois).memWf :=
  foldl storePiece hs

theorem load {id c a n : Nat} (hs : s.memWf) : ((s.load id c a n).2.2).memWf := by
  unfold State.load
  split
  · exact hs
  · split
    · exact hs
    · exact update (consumeRange hs)

theorem loadAll {id c : Nat} {rs : List (Nat × Nat)} (hs : s.memWf) : (s.loadAll id c rs).memWf := foldl load hs

theorem markAccum {off : Nat} (hs : s.memWf) : (s.markAccum off).memWf := by
  unfold State.markAccum
  dsimp only
  split
  · exact hs
  · exact .ite hs hs

theorem eccAt {c : Nat} {hit : EccHit} (hs : s.memWf) : (s.eccAt c hit).memWf := by
  unfold State.eccAt
  dsimp only
  split
  · exact hs
  · refine .ite hs ?_
    split
    · exact update (update (iteSnd hs hs))
    · exact .ite (markAccum (update (update (iteSnd hs (update hs)))))
        (update (update (update (iteSnd hs (update hs)))))

theorem touchUnit {d : Nat} {u : GovUnit} (hs : s.memWf) : (s.touchUnit d u).memWf := by
  unfold State.touchUnit
  dsimp only
  split <;> exact hs

theorem requestGrant {d : Nat} {u : GovUnit} (hs : s.memWf) : (s.requestGrant d u).memWf := .ite hs (.ite hs hs)

theorem giveWork {d : Nat} {u : GovUnit} (hs : s.memWf) : (s.giveWork d u).memWf := by
  refine requestGrant ?_
  split
  · exact update (touchUnit hs)
  · exact touchUnit hs

theorem queueStop {q : Nat} (hs : s.memWf) : (s.queueStop q).memWf := raise hs

theorem writeRecord {f : Flight} (hs : s.memWf) : (s.writeRecord f).memWf :=
  .ite hs (.ite (queueStop hs) (update (.ite (wr_wf _ _ _ _ hs) (storePage hs))))

theorem statusFlags {f : Flight} (hs : s.memWf) : (s.statusFlags f).memWf :=
  .ite hs (.ite hs (.ite hs (.ite hs (.ite hs (.ite hs hs)))))

theorem signal {f : Flight} (hs : s.memWf) : (s.signal f).memWf := .ite hs hs

theorem retire {f : Flight} {record : Bool} (hs : s.memWf) : (s.retire f record).memWf := by
  unfold State.retire
  extract_lets s1 s2 s3 s4 n _ s5
  have h5 : s5.memWf := update (signal (statusFlags (update (foldl touchUnit hs))))
  exact .ite h5 (.ite (update (writeRecord h5)) (writeRecord h5))

theorem complete {id : Nat} (hs : s.memWf) : (s.complete id).memWf := by
  unfold State.complete
  split
  · exact hs
  · exact retire hs

theorem reject {id : Nat} {e : Err} (hs : s.memWf) : (s.reject id e).memWf := complete hs

theorem guarded {id : Nat} {e : Option Err} {run : State → State} (hrun : ∀ {t : State}, t.memWf → (run t).memWf)
    (hs : s.memWf) : (s.guarded id e run).memWf := by
  unfold State.guarded
  split
  · exact reject hs
  · exact hrun hs

theorem finishNow {id : Nat} (hs : s.memWf) : (s.finishNow id).memWf := .ite hs (complete hs)

theorem freeBytes {n : Nat} (hs : s.memWf) : (s.freeBytes n).2.memWf := by
  induction n with
  | zero => exact hs
  | succ n ih => exact ih

theorem regrain {d : Nat} (hs : s.memWf) : (s.regrain d).memWf := .ite (update hs) (raise (update (update hs)))

theorem armDie {d : Nat} (hs : s.memWf) : (s.armDie d).memWf :=
  regrain (foldl (fun ht => .ite ht (.ite (update (.ite ht ht)) (.ite ht ht))) hs)

theorem clearCluster {k : Nat} (hs : s.memWf) : (s.clearCluster k).memWf := update (zero_wf _ _ _ hs)

theorem abandon {f : Flight} (hs : s.memWf) : (s.abandon f).memWf := retire hs

theorem terminate {c cause : Nat} (hs : s.memWf) : (s.terminate c cause).memWf :=
  raise (foldl armDie (update (update (foldl clearCluster (update
              (update (update (update (update (foldl abandon hs))))))))))

theorem settle {c : Nat} (hs : s.memWf) : (s.settle c).memWf := .ite (terminate hs) hs

theorem settleAll (hs : s.memWf) : s.settleAll.memWf := foldl settle hs

theorem partFaulted (hs : s.memWf) : s.partFaulted.memWf :=
  .ite hs (raise (update (foldl armDie (update (update (foldl abandon hs))))))

theorem calAdvance {q : Nat} {h : Hdr} (hs : s.memWf) : (s.calAdvance q h).memWf := .ite hs hs

theorem headerReject {q : Nat} {h : Hdr} {opcode : Nat} {e : Err} (hs : s.memWf) :
    (s.headerReject q h opcode e).memWf :=
  reject hs

theorem faultHead {q : Nat} {h : Hdr} {opcode : Nat} {e : Err} (hs : s.memWf) : (s.faultHead q h opcode e).memWf := by
  unfold State.faultHead
  split
  · exact hs
  · exact headerReject hs

theorem fetchFault {q slots : Nat} (hs : s.memWf) : OptWf (s.fetchFault q slots) :=
  .ite (.some (queueStop hs)) (.ite (.some (.ite (partFaulted hs) (terminate hs))) .none)

theorem visit {q slots : Nat} {body : State → State} (hbody : ∀ {t : State}, t.memWf → (body t).memWf)
    (hs : s.memWf) : OutWf (s.visit q slots body) := by
  refine .ite (.next hs) (.ite (.next (update hs)) ?_)
  split
  · rename_i hf
    exact .next (fetchFault (update hs) _ hf)
  · exact .next (hbody (update hs))

theorem head {scopes : Scopes} {h : Hdr} {o : Opc} {run : Nat → Nat → State → State}
    (hrun : ∀ {x1 : Nat} {x2 : Nat} {t : State}, t.memWf → (run x1 x2 t).memWf) (hs : s.memWf) :
    (s.head scopes h o run).memWf := by
  unfold State.head
  dsimp only
  split
  · exact faultHead hs
  · split
    · exact hs
    · exact settle (hrun (calAdvance hs))

theorem packet {scopes : Scopes} {h : Hdr} {o : Opc} {run : Nat → Nat → State → State}
    (hrun : ∀ {x1 : Nat} {x2 : Nat} {t : State}, t.memWf → (run x1 x2 t).memWf) (hs : s.memWf) :
    OutWf (s.packet scopes h o run) :=
  visit (fun ht => head hrun ht) hs

/-! ### Sys2Proof/Machine/Flags.lean -/

theorem w1c {r : Reg} {i : Nat} {v hw : W64} (hs : s.memWf) : (s.w1c r i v hw).memWf := by
  unfold State.w1c
  split
  · exact .ite hs hs
  · exact hs

/-! ### Sys2Proof/Machine/Almanac.lean -/

theorem setAlmSlot {c n : Nat} {new : List Byte} (hs : s.memWf) : (s.setAlmSlot c n new).memWf := by
  unfold State.setAlmSlot
  split
  · exact .ite (wrDiff_wf _ _ _ hs) hs
  · exact hs

theorem keepMarked {a n : Nat} (hs : s.memWf) : (s.keepMarked a n).memWf :=
  foldl (fun ht => .ite (wr_wf _ _ _ _ ht) ht) hs

theorem putCurrent {c n : Nat} {x : StatSum} (hs : s.memWf) : (s.putCurrent c n x).memWf := by
  unfold State.putCurrent
  dsimp only
  split
  · exact keepMarked (setAlmSlot hs)
  · exact setAlmSlot hs

theorem addStats {id c : Nat} {a : StatAdd} (hs : s.memWf) : (s.addStats id c a).memWf := by
  unfold State.addStats
  split
  · exact hs
  · exact putCurrent (consumeRange hs)

theorem rollMarks {a : Nat} (hs : s.memWf) : (s.rollMarks a).memWf := foldl (fun ht => .ite (wr_wf _ _ _ _ ht) ht) hs

theorem almSlotEqx {c n : Nat} {cur : StatSum} {commit : Bool} {e : Nat} {t : AlmTally} (hs : s.memWf) :
    ((s.almSlotEqx c n cur commit e t).2).memWf := by
  unfold State.almSlotEqx
  split
  · exact hs
  · dsimp only
    split
    · exact rollMarks (setAlmSlot hs)
    · exact setAlmSlot hs

theorem almEqx {c : Nat} {sums : Nat → StatSum} {commit : Bool} {e : Nat} (hs : s.memWf) :
    (s.almEqx c sums commit e).memWf :=
  .ite hs (.ite (update (foldlSnd almSlotEqx hs)) (.ite (raise
          (update (.ite (raise (update (.ite (update (update (update (foldlSnd almSlotEqx hs))))
                    (update (update (foldlSnd almSlotEqx hs)))))) (.ite (update
                  (update (update (foldlSnd almSlotEqx hs)))) (update (update (foldlSnd almSlotEqx hs)))))))
        (.ite (raise (update (.ite (update (update (update (foldlSnd almSlotEqx hs))))
                (update (update (foldlSnd almSlotEqx hs)))))) (.ite (update (update
                (update (foldlSnd almSlotEqx hs)))) (update (update (foldlSnd almSlotEqx hs)))))))

theorem applySlotWrite {c : Nat} {p : AlmWriteP} (hs : s.memWf) : (s.applySlotWrite c p).memWf :=
  .ite (update (setAlmSlot hs)) (setAlmSlot hs)

/-! ### Sys2Proof/Machine/Count.lean -/

theorem deep {d event qual ctx n : Nat} (hs : s.memWf) : (s.deep d event qual ctx n).memWf := foldl (fun ht => ht) hs

theorem execCntSelect {h : Hdr} {p : CntSelectP} (hs : s.memWf) : OutWf (execCntSelect h p s) :=
  packet (fun ht => guarded (fun hu => finishNow (update (update hu))) ht) hs

/-! ### Sys2Proof/Machine/Lantern.lean -/

theorem lanSpace (hs : s.memWf) : s.lanSpace.memWf := .ite hs hs

theorem lanWrite {r : LanRec} {time : Nat} (hs : s.memWf) : (s.lanWrite r time).memWf :=
  .ite (.ite hs (raise hs)) (update (wr_wf _ _ _ _ hs))

theorem lanSend {port earlier : Nat} {o : Outgoing} (hs : s.memWf) : (s.lanSend port earlier o).memWf := by
  unfold State.lanSend
  split
  · exact hs
  · exact .ite (lanWrite hs) hs

theorem lanReceive {port : Nat} {k : Pkt} {time : Nat} (hs : s.memWf) : (s.lanReceive port k time).memWf :=
  .ite (lanWrite hs) hs

/-! ### Sys2Proof/Machine/Link.lean -/

theorem sendFlit {n ftype ackseq credits vc : Nat} {payload : List Byte} (hs : s.memWf) :
    (s.sendFlit n ftype ackseq credits vc payload).memWf :=
  .ite hs hs

theorem closeFlit {n : Nat} (hs : s.memWf) : (s.closeFlit n).memWf := by
  unfold State.closeFlit
  split
  · exact hs
  · exact hs

theorem closeFlits (hs : s.memWf) : s.closeFlits.memWf := foldl closeFlit hs

theorem fillFlits {n : Nat} {k : Pkt} (hs : s.memWf) : (s.fillFlits n k).memWf :=
  foldl (fun ht => .ite ht ht) (.ite (closeFlit hs) hs)

theorem countSent {n : Nat} {k : Pkt} (hs : s.memWf) : ((s.countSent n k).2).memWf := by
  unfold State.countSent
  dsimp only
  split
  · exact hs
  · exact hs

theorem emit {n : Nat} {o : Outgoing} (hs : s.memWf) : (s.emit n o).memWf :=
  lanSend (update (countSent (.ite (update (fillFlits hs)) (fillFlits hs))))

theorem sendOn {n : Nat} {o : Outgoing} (hs : s.memWf) : (s.sendOn n o).memWf := .ite (emit hs) hs

theorem drainPort {n fuel : Nat} (hs : s.memWf) : (s.drainPort n fuel).memWf := by
  induction fuel generalizing s with
  | zero => exact hs
  | succ fuel ih =>
    unfold State.drainPort
    dsimp only
    split
    · exact ih (emit hs)
    · exact hs

theorem toTrain {n : Nat} (hs : s.memWf) : (s.toTrain n).memWf := .ite hs hs

theorem portFail {n : Nat} (hs : s.memWf) : (s.portFail n).memWf := raise hs

theorem failAttempt {n : Nat} (hs : s.memWf) : (s.failAttempt n).memWf := .ite (portFail hs) (toTrain hs)

theorem freshTrain {n : Nat} (hs : s.memWf) : (s.freshTrain n).memWf := toTrain hs

theorem checkPort {n : Nat} (hs : s.memWf) : (s.checkPort n).memWf :=
  .ite (drainPort (.ite (update hs) (update (update hs)))) (.ite (update hs) (raise (update (update hs))))

theorem setEnable {n : Nat} {on : Bool} (hs : s.memWf) : (s.setEnable n on).memWf := .ite (.ite (freshTrain hs) hs) hs

theorem retrain {n : Nat} (hs : s.memWf) : (s.retrain n).memWf := .ite hs (freshTrain hs)

theorem execNgfPortEnable {port : BitVec 5} {enable : Bool} (hs : s.memWf) :
    OutWf (execNgfPortEnable port enable s) :=
  .ite .fault (.ite (.next hs) (.next (setEnable hs)))

theorem execNgfPortRetrain {port : BitVec 5} (hs : s.memWf) : OutWf (execNgfPortRetrain port s) :=
  .ite .fault (.ite (.next hs) (.next (retrain hs)))

theorem execNgfPortEncrypt {port : BitVec 5} {encrypt : Bool} (hs : s.memWf) :
    OutWf (execNgfPortEncrypt port encrypt s) :=
  .ite .fault (.ite (.next hs) (.next hs))

theorem execLinkTrainDone {port : BitVec 5} {lanes : BitVec 8} (hs : s.memWf) :
    OutWf (execLinkTrainDone port lanes s) :=
  .ite .fault (.ite (.next hs) (.ite (.next (failAttempt hs)) (.next hs)))

theorem execLinkTrainTimeout {port : BitVec 5} (hs : s.memWf) : OutWf (execLinkTrainTimeout port s) :=
  .ite .fault (.ite (.next hs) (.next (failAttempt hs)))

theorem execAlignDone {port : BitVec 5} (hs : s.memWf) : OutWf (execAlignDone port s) :=
  .ite .fault (.ite (.next hs) (.next (.ite (update (.ite (raise hs) hs)) (.ite (raise hs) hs))))

theorem execAlignTimeout {port : BitVec 5} (hs : s.memWf) : OutWf (execAlignTimeout port s) :=
  .ite .fault (.ite (.next hs) (.next (failAttempt hs)))

theorem execCapabilityFlitSend {port : BitVec 5} (hs : s.memWf) : OutWf (execCapabilityFlitSend port s) :=
  .ite .fault (.ite (.next hs) (.next hs))

theorem execCapabilityFlitReceive {port : BitVec 5} {flit : CapFlit} (hs : s.memWf) :
    OutWf (execCapabilityFlitReceive port flit s) :=
  .ite .fault (.ite (.next hs) (.ite (.next (portFail (update hs)))
        (.ite (.next (update hs)) (.next (checkPort (update (update hs)))))))

theorem execNegotiateTimeout {port : BitVec 5} (hs : s.memWf) : OutWf (execNegotiateTimeout port s) :=
  .ite .fault (.ite (.next hs) (.next (failAttempt hs)))

theorem execFecLockLoss {port : BitVec 5} (hs : s.memWf) : OutWf (execFecLockLoss port s) := by
  refine .ite .fault ?_
  split
  · exact .next (failAttempt hs)
  · exact .next (failAttempt hs)
  · exact .next (failAttempt hs)
  · exact .next (toTrain hs)
  · exact .next (toTrain hs)
  · exact .next hs
  · exact .next hs
  · exact .next hs

theorem gainCredits {n vc k : Nat} (hs : s.memWf) : (s.gainCredits n vc k).memWf := drainPort hs

theorem ackFlit {n : Nat} {f : Flit} (hs : s.memWf) : (s.ackFlit n f).memWf := gainCredits hs

theorem sendNak {n : Nat} (hs : s.memWf) : (s.sendNak n).memWf := sendFlit hs

theorem takeFlit {n ftype : Nat} {f : Flit} {body : State → State} (hbody : ∀ {t : State}, t.memWf → (body t).memWf)
    (hs : s.memWf) : OutWf (s.takeFlit n ftype f body) :=
  .ite .fault (.ite (.next hs) (.next (.ite (hbody hs) (sendNak hs))))

theorem execFlitDataReceive {port : BitVec 5} {flit : Flit} (hs : s.memWf) :
    OutWf (execFlitDataReceive port flit s) :=
  .ite .fault (.ite (.next hs) (.ite (.next (sendNak hs)) (.next (ackFlit (sendFlit hs)))))

theorem execFlitAckReceive {port : BitVec 5} {head : FlitHead} {payload : List Byte} {check : FlitCheck}
    (hs : s.memWf) : OutWf (execFlitAckReceive port head payload check s) := by
  unfold Machine.execFlitAckReceive
  exact takeFlit ackFlit hs

theorem replay {n lastGood : Nat} (hs : s.memWf) : (s.replay n lastGood).memWf := by
  unfold State.replay
  dsimp only
  split
  · exact update hs
  · exact .ite (toTrain (raise (update (update (update hs))))) (update (update (update (update hs))))

theorem execFlitNakReceive {port : BitVec 5} {flit : Flit} (hs : s.memWf) : OutWf (execFlitNakReceive port flit s) :=
  takeFlit (fun ht => replay (gainCredits ht)) hs

theorem execControlFlitReceive {port : BitVec 5} {payload : List Byte} {frame : FlitHead × FlitCheck} (hs : s.memWf) :
    OutWf (execControlFlitReceive port payload frame s) := by
  unfold Machine.execControlFlitReceive
  exact takeFlit (fun ht => ackFlit (checkPort ht)) hs

theorem setPartId {v : W64} (hs : s.memWf) : (s.setPartId v).memWf := .ite hs (foldl (fun ht => ht) hs)

theorem setFabDigest {v : W64} (hs : s.memWf) : (s.setFabDigest v).memWf :=
  foldl (fun ht => checkPort (sendFlit ht)) hs

/-! ### Sys2Proof/Machine/Move.lean -/

theorem copyChunk {id c src dst len off k : Nat} (hs : s.memWf) : (s.copyChunk id c src dst len off k).memWf := by
  refine .ite hs (.ite hs (storePiece ?_))
  split
  · exact consume hs
  · exact hs

theorem copyBytes {id c src dst len : Nat} (hs : s.memWf) : (s.copyBytes id c src dst len).memWf := foldl copyChunk hs

theorem withReads {id c : Nat} {rs : List (Nat × Nat)} {cmd : Instr} {body : State → State}
    (hbody : ∀ {t : State}, t.memWf → (body t).memWf) (hs : s.memWf) : (s.withReads id c rs cmd body).memWf :=
  .ite (hbody hs) hs

theorem runMemCopy {id c : Nat} {src dst len : W64} {ecc : List EccHit} (hs : s.memWf) :
    (s.runMemCopy id c src dst len ecc).memWf :=
  update (copyBytes (foldl eccAt hs))

theorem execMemCopy {h : Hdr} {src dst len : W64} {ecc : List EccHit} (hs : s.memWf) :
    OutWf (execMemCopy h src dst len ecc s) :=
  packet (fun ht => guarded (fun hu => withReads runMemCopy hu) ht) hs

theorem copyBlock {id c : Nat} {check : Bool} {src dst : Nat} (hs : s.memWf) :
    (s.copyBlock id c check src dst).memWf :=
  .ite hs (.ite (.ite (load hs) (.ite (update (load hs)) (copyBytes (load hs)))) (copyBytes hs))

theorem runTbCopy {id c : Nat} {p : TbCopyP} (hs : s.memWf) : (s.runTbCopy id c p).memWf :=
  update (foldl copyBlock hs)

theorem execTbCopy {h : Hdr} {p : TbCopyP} (hs : s.memWf) : OutWf (execTbCopy h p s) :=
  packet (fun ht => guarded (fun hu => withReads runTbCopy hu) ht) hs

theorem runTbBuild {id c : Nat} {p : TbBuildP} (hs : s.memWf) : (s.runTbBuild id c p).memWf :=
  update (foldl copyBytes (store (copyBytes (store hs))))

theorem execTbBuild {h : Hdr} {p : TbBuildP} (hs : s.memWf) : OutWf (execTbBuild h p s) :=
  packet (fun ht => guarded (fun hu => withReads runTbBuild hu) ht) hs

theorem execHbmPatrol {ctx : BitVec 6} {addr : W64} {found : PatrolFind} (hs : s.memWf) :
    OutWf (execHbmPatrol ctx addr found s) := by
  unfold Machine.execHbmPatrol
  dsimp only
  split
  · exact .next hs
  · refine .ite (.next hs) ?_
    split
    · exact .next hs
    · exact .next (eccAt hs)
    · exact .next (eccAt hs)

/-! ### Sys2Proof/Machine/Tier.lean -/

theorem freeFrame {c frame : Nat} (hs : s.memWf) : (s.freeFrame c frame).memWf := .ite hs (zero_wf _ _ _ hs)

theorem takeFpage {t : Nat × Nat × State} (hs : s.memWf) (ht : s.takeFpage = some t) : t.2.2.memWf := by
  obtain ⟨k, -, rfl⟩ := Option.map_eq_some_iff.1 ht
  exact hs

theorem takeFpages {n : Nat} {r : List (Nat × Nat) × State} (hs : s.memWf) (hr : s.takeFpages n = some r) : r.2.memWf := by
  induction n generalizing s r with
  | zero => cases hr; exact hs
  | succ n ih =>
    obtain ⟨t, ht, hr⟩ := Option.bind_eq_some_iff.1 hr
    obtain ⟨q, hq, rfl⟩ := Option.map_eq_some_iff.1 hr
    exact ih (r := q) (takeFpage hs ht) hq

theorem nandWrite {host bytes : Nat} (hs : s.memWf) : (s.nandWrite host bytes).memWf := by
  unfold State.nandWrite
  extract_lets old rated s1 _ s2 crossed s3
  have h2 : s2.memWf := update (update (update hs))
  have h3 : s3.memWf := .ite (raise h2) h2
  exact .ite (raise h3) h3

theorem failWaits {c p st : Nat} (hs : s.memWf) : (s.failWaits c p st).memWf := by
  refine foldl (fun ht => ?_) hs
  split
  · exact ht
  · exact ht

theorem retryCredit {c p : Nat} (hs : s.memWf) : (s.retryCredit c p).memWf :=
  .ite hs (.ite (copyQuotaFail (failWaits hs)) (update (update (.ite hs hs))))

theorem retryCredits {c : Nat} (hs : s.memWf) : (s.retryCredits c).memWf := foldl retryCredit hs

theorem imageLets {c frame : Nat} (hs : s.memWf) : (s.imageLets c frame).memWf := .ite hs (freeFrame hs)

theorem landWaits {c p : Nat} (hs : s.memWf) : (s.landWaits c p).memWf := by
  refine foldl (fun ht => .ite ht ?_) hs
  dsimp only
  split
  · exact update (wr_wf _ _ _ _ ht)
  · exact wr_wf _ _ _ _ ht

theorem stepCopyDone {c p : Nat} (hs : s.memWf) : (s.stepCopyDone c p).memWf := by
  unfold State.stepCopyDone
  dsimp only
  split
  · exact hs
  · exact landWaits (update (copyMem_wf _ _ _ _ hs))

theorem failImage {id : Nat} (hs : s.memWf) : (s.failImage id).memWf := by
  unfold State.failImage
  split
  · exact hs
  · exact .ite hs (raise (update (retryCredits (foldl imageLets hs))))

theorem failDrains (hs : s.memWf) : s.failDrains.memWf := foldl failImage hs

theorem execTierMap {h : Hdr} {p : TierP} (hs : s.memWf) : OutWf (execTierMap h p s) :=
  packet (fun ht => guarded (fun hu => update (update (foldl (fun hv => hv) hu))) ht) hs

theorem execTierUnmap {h : Hdr} {p : TierP} (hs : s.memWf) : OutWf (execTierUnmap h p s) :=
  packet (fun ht => guarded (fun hu => hu) ht) hs

theorem execTierSeal {h : Hdr} {p : TierP} (hs : s.memWf) : OutWf (execTierSeal h p s) :=
  packet (fun ht => guarded (fun hu => hu) ht) hs

theorem unsealPage {c p : Nat} (hs : s.memWf) : (s.unsealPage c p).memWf := by
  unfold State.unsealPage
  split
  · exact hs
  · exact hs
  · exact update hs
  · exact update hs
  · exact update (update (update hs))

theorem execTierUnseal {h : Hdr} {p : TierP} (hs : s.memWf) : OutWf (execTierUnseal h p s) :=
  packet (fun ht => guarded (fun hu => update (update (foldl unsealPage hu))) ht) hs

theorem migratePage {c : Nat} {toFlash : Bool} {p : Nat} (hs : s.memWf) : (s.migratePage c toFlash p).memWf := by
  unfold State.migratePage
  split
  · exact update hs
  · exact freeFrame (update (update hs))
  · exact update hs
  · exact update (update (update hs))
  · exact hs

theorem execTierMigrate {h : Hdr} {p : TierP} (hs : s.memWf) : OutWf (execTierMigrate h p s) :=
  packet (fun ht => guarded (fun hu => update (update (foldl migratePage hu))) ht) hs

theorem execTierQuery {h : Hdr} {p : TierP} (hs : s.memWf) : OutWf (execTierQuery h p s) :=
  packet (fun ht => guarded (fun hu => update (store hu)) ht) hs

theorem unmapPage {c p : Nat} (hs : s.memWf) : (s.unmapPage c p).memWf :=
  .ite (zero_wf _ _ _ (update (foldl freeFrame (update (failWaits hs))))) (foldl freeFrame (update (failWaits hs)))

theorem tierReady {f : Flight} {op : TierOp} {first n : Nat} (hs : s.memWf) : OptWf (s.tierReady f op first n) := by
  unfold State.tierReady
  dsimp only
  split
  · exact .some hs
  · exact .ite .none (.some (foldl unmapPage hs))
  · exact .ite .none (.some (foldl (fun ht => .ite ht ht) hs))
  · exact .ite (.some hs) .none
  · exact .ite (.some hs) .none
  · exact .ite (.some hs) .none

theorem landDown {c p : Nat} {x : PageS} (hs : s.memWf) : (s.landDown c p x).memWf := by
  unfold State.landDown
  split
  · exact hs
  · rename_i heq
    exact nandWrite (freeFrame (update (copyMem_wf _ _ _ _ (takeFpage hs heq))))

theorem execPageMoveDone {ctx : BitVec 6} {page : BitVec 24} (hs : s.memWf) :
    OutWf (execPageMoveDone ctx page s) := by
  unfold Machine.execPageMoveDone
  dsimp only
  split
  · exact .next (.ite hs (landDown hs))
  · exact .next (zero_wf _ _ _ (update (copyMem_wf _ _ _ _ hs)))
  · exact .next hs

theorem execReadDisturbScrub {channel : BitVec 5} {active : Bool} (hs : s.memWf) :
    OutWf (execReadDisturbScrub channel active s) :=
  .ite .fault (.ite (.next hs) (.ite (.next hs) (.next (nandWrite hs))))

theorem flashReadOnly (hs : s.memWf) : s.flashReadOnly.memWf :=
  .ite hs (foldl (fun ht => ht) (update (failDrains (raise hs))))

theorem execBadBlockDetect {channel : BitVec 5} {spareLeft : Bool} (hs : s.memWf) :
    OutWf (execBadBlockDetect channel spareLeft s) :=
  .ite .fault (.ite (.next hs) (.next (flashReadOnly hs)))

theorem dropChannel {k : Nat} (hs : s.memWf) : (s.dropChannel k).memWf := raise (failDrains (foldl (fun ht => ht) hs))

theorem execFlashChannelFailure {channel : BitVec 5} (hs : s.memWf) : OutWf (execFlashChannelFailure channel s) :=
  .ite .fault (.next (.ite (dropChannel hs) hs))

/-! ### Sys2Proof/Machine/RegWrite.lean -/

theorem qntFlags {u st : Nat} (hs : s.memWf) : (s.qntFlags u st).memWf := .ite (update (.ite hs hs)) (.ite hs hs)

theorem qntFail {u id : Nat} {e : Err} (hs : s.memWf) : (s.qntFail u id e).memWf := update (update (qntFlags hs))

theorem qntRefuse {u id : Nat} {e : Err} (hs : s.memWf) : (s.qntRefuse u id e).memWf := update (update (qntFlags hs))

theorem qntEnd {u id : Nat} (hs : s.memWf) : (s.qntEnd u id).memWf := update (.ite (qntFlags hs) hs)

theorem dropConverts {u : Nat} (hs : s.memWf) : (s.dropConverts u).memWf := foldl (fun ht => .ite (qntFail ht) ht) hs

theorem setStage {k : Nat} {v : W64} (hs : s.memWf) : (s.setStage k v).memWf :=
  .ite hs (.ite (dropConverts (update (foldl (fun ht => freeRun_wf _ _ _ ht) hs)))
      (update (foldl (fun ht => freeRun_wf _ _ _ ht) hs)))

theorem setQuota {r : Reg} {c : Nat} {v : W64} (hs : s.memWf) : (s.setQuota r c v).memWf := .ite hs hs

theorem evtSpace (hs : s.memWf) : s.evtSpace.memWf := .ite hs hs

theorem regrainAll (hs : s.memWf) : s.regrainAll.memWf := foldl regrain hs

theorem putReg {r : Reg} {i : Nat} {v : W64} (hs : s.memWf) : (s.putReg r i v).memWf := by
  unfold State.putReg
  split
  · exact setStage hs
  · exact setQuota hs
  · exact setQuota hs
  · exact .ite hs (setPartId hs)
  · exact setFabDigest hs
  · exact setEnable hs
  · exact hs
  · exact retryCredits hs
  · exact hs
  · exact hs
  · exact evtSpace hs
  · exact evtSpace hs
  · exact evtSpace hs
  · exact lanSpace hs
  · exact lanSpace hs
  · exact lanSpace hs
  · exact regrainAll hs
  · exact .ite hs hs
  · exact hs

theorem directRw {r : Reg} {i : Nat} {v : W64} (hs : s.memWf) : (s.directRw r i v).memWf := by
  refine .ite hs ?_
  dsimp only
  split
  · exact .ite (putReg hs) hs
  · exact .ite (putReg hs) hs
  · exact .ite (putReg hs) hs
  · exact .ite (putReg hs) hs
  · exact .ite (putReg hs) hs
  · exact .ite (putReg hs) hs
  · exact .ite (putReg hs) hs
  · exact .ite (putReg hs) hs
  · exact .ite (putReg hs) hs
  · exact hs
  · exact hs
  · exact hs
  · exact hs
  · exact putReg hs

theorem clearRegs {v : W64} {b : Nat} {rs : List (Reg × Nat)} (hs : s.memWf) : (s.clearRegs v b rs).memWf :=
  .ite (foldl (fun ht => ht) hs) hs

theorem clearBy {r : Reg} {i : Nat} {v : W64} (hs : s.memWf) : (s.clearBy r i v).memWf := by
  refine .ite hs ?_
  split
  · exact clearRegs hs
  · exact clearRegs hs
  · exact clearRegs (clearRegs hs)
  · exact clearRegs hs
  · exact clearRegs hs
  · exact clearRegs hs
  · exact clearRegs hs
  · exact hs

theorem directRow {r : Reg} {i : Nat} {v : W64} (hs : s.memWf) : OutWf (s.directRow r i v) :=
  .ite .fault (.next (directRw hs))

theorem clearRow {r : Reg} {i : Nat} {v : W64} (hs : s.memWf) : OutWf (s.clearRow r i v) :=
  .ite .fault (.next (clearBy hs))

theorem execEngCntClear {engine : BitVec 11} {value : W32} (hs : s.memWf) : OutWf (execEngCntClear engine value s) :=
  clearRow hs

theorem execEngRunaheadWrite {engine : BitVec 11} {value : W32} (hs : s.memWf) :
    OutWf (execEngRunaheadWrite engine value s) :=
  directRow hs

theorem execAccCtrlClear {engine : BitVec 11} {value : W32} (hs : s.memWf) :
    OutWf (execAccCtrlClear engine value s) :=
  clearRow hs

theorem execSplStageQuotaWrite {cluster : BitVec 7} {value : W32} (hs : s.memWf) :
    OutWf (execSplStageQuotaWrite cluster value s) :=
  directRow hs

theorem execSplCtrlClearWait {cluster : BitVec 7} {value : W32} (hs : s.memWf) :
    OutWf (execSplCtrlClearWait cluster value s) :=
  clearRow hs

theorem execSplCtrlClearExp {cluster : BitVec 7} {value : W32} (hs : s.memWf) :
    OutWf (execSplCtrlClearExp cluster value s) :=
  clearRow hs

theorem execQntCtrlClear {quantiser : BitVec 7} {value : W32} (hs : s.memWf) :
    OutWf (execQntCtrlClear quantiser value s) :=
  clearRow hs

theorem execAlmBaseWrite {ctx : BitVec 6} {value : W64} (hs : s.memWf) : OutWf (execAlmBaseWrite ctx value s) :=
  directRow hs

theorem execCfgRngSeedWrite {ctx : BitVec 6} {value : W64} (hs : s.memWf) : OutWf (execCfgRngSeedWrite ctx value s) :=
  directRow hs

theorem execCfgRngStepWrite {ctx : BitVec 6} {value : W64} (hs : s.memWf) : OutWf (execCfgRngStepWrite ctx value s) :=
  directRow hs

theorem execCfgStreamBaseWrite {ctx : BitVec 6} {value : W64} (hs : s.memWf) :
    OutWf (execCfgStreamBaseWrite ctx value s) :=
  directRow hs

theorem execTierQuotaHbmWrite {ctx : BitVec 6} {value : W32} (hs : s.memWf) :
    OutWf (execTierQuotaHbmWrite ctx value s) :=
  directRow hs

theorem execTierQuotaFlashWrite {ctx : BitVec 6} {value : W32} (hs : s.memWf) :
    OutWf (execTierQuotaFlashWrite ctx value s) :=
  directRow hs

theorem execEqxCtrlWrite {ctx : BitVec 6} {value : W32} (hs : s.memWf) : OutWf (execEqxCtrlWrite ctx value s) :=
  directRow hs

theorem execEqxGroupBaseWrite {ctx : BitVec 6} {value : W64} (hs : s.memWf) :
    OutWf (execEqxGroupBaseWrite ctx value s) :=
  directRow hs

theorem execEqxGroupWrite {ctx : BitVec 6} {value : W32} (hs : s.memWf) : OutWf (execEqxGroupWrite ctx value s) :=
  directRow hs

theorem execEqxTimeoutWrite {ctx : BitVec 6} {value : W32} (hs : s.memWf) : OutWf (execEqxTimeoutWrite ctx value s) :=
  directRow hs

theorem execEqxCreditsWrite {ctx : BitVec 6} {value : W32} (hs : s.memWf) : OutWf (execEqxCreditsWrite ctx value s) :=
  directRow hs

theorem execEqxSyncCfgWrite {value : W32} (hs : s.memWf) : OutWf (execEqxSyncCfgWrite value s) := directRow hs

theorem execClkPpsCtrlWrite {value : W32} (hs : s.memWf) : OutWf (execClkPpsCtrlWrite value s) := directRow hs

theorem execNgfPartIdWrite {value : W32} (hs : s.memWf) : OutWf (execNgfPartIdWrite value s) := directRow hs

theorem execNgfFabDigestWrite {value : W64} (hs : s.memWf) : OutWf (execNgfFabDigestWrite value s) := directRow hs

theorem execNgfCtxCtrlWrite {ctx : BitVec 6} {value : W32} (hs : s.memWf) : OutWf (execNgfCtxCtrlWrite ctx value s) :=
  directRow hs

theorem execNgfCtrlClear {value : W32} (hs : s.memWf) : OutWf (execNgfCtrlClear value s) := clearRow hs

theorem execCfgCtrlClear {value : W32} (hs : s.memWf) : OutWf (execCfgCtrlClear value s) := clearRow hs

theorem execGovCtrlWrite {die : BitVec 3} {value : W32} (hs : s.memWf) : OutWf (execGovCtrlWrite die value s) :=
  directRow hs

theorem execVwmEvtCtrlWrite {value : W32} (hs : s.memWf) : OutWf (execVwmEvtCtrlWrite value s) := directRow hs

theorem execVwmEvtConsWrite {value : W32} (hs : s.memWf) : OutWf (execVwmEvtConsWrite value s) := directRow hs

theorem execVwmVigilCtrlWrite {value : W32} (hs : s.memWf) : OutWf (execVwmVigilCtrlWrite value s) := directRow hs

theorem execVwmLcCtrlClear {die : BitVec 3} {value : W32} (hs : s.memWf) : OutWf (execVwmLcCtrlClear die value s) :=
  clearRow hs

theorem execLanCtrlWrite {value : W32} (hs : s.memWf) : OutWf (execLanCtrlWrite value s) := directRow hs

theorem execLanConsWrite {value : W32} (hs : s.memWf) : OutWf (execLanConsWrite value s) := directRow hs

theorem execVwmAlarmClassWrite {value : W32} (hs : s.memWf) : OutWf (execVwmAlarmClassWrite value s) := directRow hs

theorem execVwmCheckCtrlWrite {value : W32} (hs : s.memWf) : OutWf (execVwmCheckCtrlWrite value s) := directRow hs

/-! ### Sys2Proof/Machine/Alarm.lean -/

theorem eraseLinkKeys (hs : s.memWf) : s.eraseLinkKeys.memWf := foldl (fun ht => .ite (toTrain ht) ht) hs

theorem stopHarvests (hs : s.memWf) : s.stopHarvests.memWf := foldl (fun ht => complete ht) hs

theorem eraseSession (hs : s.memWf) : s.eraseSession.memWf := stopHarvests (failDrains (eraseLinkKeys hs))

theorem dropKekLoad (hs : s.memWf) : s.dropKekLoad.memWf := .ite hs hs

theorem alarmAction {cl : Nat} (hs : s.memWf) : (s.alarmAction cl).memWf :=
  raise (.ite (update (.ite (update (eraseSession (dropKekLoad hs))) (dropKekLoad hs)))
      (.ite (update (eraseSession (dropKekLoad hs))) (dropKekLoad hs)))

theorem noteMesh {ks : List Nat} (hs : s.memWf) : (s.noteMesh ks).memWf := .ite hs hs

theorem alarm {ks : List Nat} (hs : s.memWf) : (s.alarm ks).memWf :=
  .ite (noteMesh hs) (alarmAction (foldl (fun ht => ht) (noteMesh hs)))

theorem execSecurityAlarm {sensors : List Nat} (hs : s.memWf) : OutWf (execSecurityAlarm sensors s) :=
  .next (alarm hs)

theorem execAlarmRearm {sensor : BitVec 3} (hs : s.memWf) : OutWf (execAlarmRearm sensor s) := .next hs

theorem execAlarmNRelease (hs : s.memWf) : OutWf (execAlarmNRelease s) := by
  unfold Machine.execAlarmNRelease
  split
  · exact .next hs
  · exact .ite (.next hs) (.next hs)

theorem kekFail (hs : s.memWf) : s.kekFail.memWf := raise hs

theorem kekStart (hs : s.memWf) : s.kekStart.memWf := .ite hs (.ite (kekFail hs) hs)

theorem execVwmKekLoad (hs : s.memWf) : OutWf (execVwmKekLoad s) := .ite (.next (kekStart hs)) (.next hs)

theorem execKekLoadDone (hs : s.memWf) : OutWf (execKekLoadDone s) := by
  unfold Machine.execKekLoadDone
  split
  · exact .next hs
  · exact .next (kekFail hs)
  · exact .next (raise hs)

theorem execVwmKekErase (hs : s.memWf) : OutWf (execVwmKekErase s) := .ite (.next hs) (.next hs)

theorem kekCtrl {v : W64} (hs : s.memWf) : (s.kekCtrl v).memWf :=
  .ite (update (.ite (kekStart hs) hs)) (.ite (kekStart hs) hs)

theorem execSignedMaintenanceRequest {kind : BitVec 4} {index : BitVec 24} {key sig : List Byte} (hs : s.memWf) :
    OutWf (execSignedMaintenanceRequest kind index key sig s) :=
  .ite (.next hs) (.next hs)

/-! ### Sys2Proof/Machine/Faults.lean -/

theorem recordFailure {kind index : Nat} (hs : s.memWf) : (s.recordFailure kind index).memWf := by
  refine .ite hs (.ite hs ?_)
  split
  · exact hs
  · exact raise hs

theorem enterFailed {cause unit : Nat} (hs : s.memWf) : (s.enterFailed cause unit).memWf :=
  raise (update (update (update (update (.ite (recordFailure hs) (.ite (recordFailure hs) hs))))))

theorem execCtxStructUe {ctx : BitVec 6} (hs : s.memWf) : OutWf (execCtxStructUe ctx s) :=
  .ite (.next hs) (.next (terminate hs))

theorem execPartStructUe (hs : s.memWf) : OutWf (execPartStructUe s) := .ite (.next hs) (.next (partFaulted hs))

theorem execDieLinkLoss {link : BitVec 5} (hs : s.memWf) : OutWf (execDieLinkLoss link s) :=
  .ite .fault (.ite (.next hs) (.next (partFaulted hs)))

theorem execCpHeartbeatTimeout {die : BitVec 3} (hs : s.memWf) : OutWf (execCpHeartbeatTimeout die s) :=
  .ite .fault (.ite (.next hs) (.next (partFaulted hs)))

/-! ### Sys2Proof/Machine/Clock.lean -/

theorem gridEdge {n : Nat} (hs : s.memWf) : (s.gridEdge n).memWf :=
  .ite (foldl (fun ht => update (update (update ht))) hs) (update (foldl (fun ht => update (update (update ht))) hs))

theorem execPllLock (hs : s.memWf) : OutWf (execPllLock s) := .ite (.next hs) (.next hs)

theorem execPllLockTimeout (hs : s.memWf) : OutWf (execPllLockTimeout s) := .ite (.next hs) (.next (enterFailed hs))

theorem execRefclkLoss (hs : s.memWf) : OutWf (execRefclkLoss s) :=
  .ite (.next hs) (.next (.ite (update (update (update (update (raise hs)))))
        (enterFailed (update (update (update (update (raise hs))))))))

theorem execDroopStart {cluster : BitVec 7} (hs : s.memWf) : OutWf (execDroopStart cluster s) :=
  .ite .fault (.next hs)

theorem execDroopEnd {cluster : BitVec 7} (hs : s.memWf) : OutWf (execDroopEnd cluster s) := .ite .fault (.next hs)

theorem execClockGate {cluster : BitVec 7} (hs : s.memWf) : OutWf (execClockGate cluster s) :=
  .ite .fault (.ite (.next hs) (.next hs))

theorem execPpsEdge (hs : s.memWf) : OutWf (execPpsEdge s) := .ite (.next hs) (.next hs)

theorem rampTick {d step : Nat} (hs : s.memWf) : (s.rampTick d step).memWf := by
  unfold State.rampTick
  dsimp only
  split
  · exact .ite (update (foldl touchUnit hs)) (update (foldl touchUnit hs))
  · exact update (foldl touchUnit hs)

theorem govTick {d : Nat} (hs : s.memWf) : (s.govTick d).memWf := by
  refine update (update (.ite (update (update (update hs))) ?_))
  split
  · exact update (update (update hs))
  · exact rampTick (update hs)

theorem execUnitReleaseRequest {die : BitVec 3} {unit : GovUnit} (hs : s.memWf) :
    OutWf (execUnitReleaseRequest die unit s) :=
  .ite .fault (.ite (.next hs) (.next hs))

theorem execOvercurrent {die : BitVec 3} (hs : s.memWf) : OutWf (execOvercurrent die s) :=
  .ite .fault (.ite (.next hs) (.next (raise hs)))

theorem execEmergencyRegrant {die : BitVec 3} (hs : s.memWf) : OutWf (execEmergencyRegrant die s) := by
  refine .ite .fault ?_
  split
  · exact .ite (.next hs) (.next hs)
  · exact .next hs

theorem softBrake {d : Nat} (hs : s.memWf) : (s.softBrake d).memWf := .ite hs hs

theorem softBrakeAll (hs : s.memWf) : s.softBrakeAll.memWf := foldl softBrake hs

theorem execBrakeNAssert (hs : s.memWf) : OutWf (execBrakeNAssert s) := .next (.ite (softBrakeAll hs) hs)

theorem execBrakeNRelease (hs : s.memWf) : OutWf (execBrakeNRelease s) := .next hs

theorem exhaust {d : Nat} (hs : s.memWf) : (s.exhaust d).memWf :=
  .ite hs (raise (update (update (update (update hs)))))

theorem execAgeingMeasure {die : BitVec 3} (hs : s.memWf) : OutWf (execAgeingMeasure die s) :=
  .ite .fault (.ite (.next hs) (.next hs))

theorem judgeSlack {d slack : Nat} {vrAck : Bool} (hs : s.memWf) : (s.judgeSlack d slack vrAck).memWf :=
  .ite (update (update (update (update hs)))) (.ite (update (exhaust (update (update (update hs)))))
      (.ite (update (exhaust (update (update (update (update hs))))))
        (update (update (update (update (update (update (update (update hs))))))))))

theorem execAgeingMeasureDone {die : BitVec 3} {slackPs : BitVec 16} {vrAck : Bool} (hs : s.memWf) :
    OutWf (execAgeingMeasureDone die slackPs vrAck s) := by
  refine .ite .fault ?_
  split
  · exact .next hs
  · exact .ite (.next hs) (.next (judgeSlack hs))

theorem startAge {d slack : Nat} {vrAck raiseAck : Bool} (hs : s.memWf) : (s.startAge d slack vrAck raiseAck).memWf :=
  .ite hs (update (.ite (judgeSlack hs) (update (update (update (update (exhaust hs)))))))

theorem chooseBin (hs : s.memWf) : s.chooseBin.memWf := update (update (.ite (raise hs) (.ite (raise hs) hs)))

theorem enterLevel {d : Nat} {l : Therm} (hs : s.memWf) : (s.enterLevel d l).memWf := by
  unfold State.enterLevel
  dsimp only
  split
  · exact hs
  · exact raise (.ite hs hs)
  · exact raise (softBrakeAll (.ite hs hs))
  · exact raise hs

theorem dieTemp {d t : Nat} (hs : s.memWf) : (s.dieTemp d t).memWf :=
  .ite (.ite hs hs) (enterLevel (update (.ite hs hs)))

theorem execThermalSample {temps : List Nat} (hs : s.memWf) : OutWf (execThermalSample temps s) :=
  .ite (.next hs) (.ite (.next hs) (.next (foldl dieTemp hs)))

/-! ### Sys2Proof/Machine/Boot.lean -/

theorem resetCore {powerOn : Bool} (hs : s.memWf) : (s.resetCore powerOn).memWf :=
  Map.wf_filter _ (failDrains hs)

theorem execPorstNAssert (hs : s.memWf) : OutWf (execPorstNAssert s) :=
  .ite (.next hs) (.next (update (resetCore hs)))

theorem execPorstNDeassert (hs : s.memWf) : OutWf (execPorstNDeassert s) := .ite (.next hs) (.next hs)

theorem restart (hs : s.memWf) : s.restart.memWf := update (update (resetCore hs))

theorem warm (hs : s.memWf) : s.warm.memWf := .ite hs (.ite (update (softBrakeAll hs)) (restart hs))

theorem execWarmReset {source : WarmSource} (hs : s.memWf) : OutWf (execWarmReset source s) := by
  unfold Machine.execWarmReset
  split
  · exact .next (warm hs)
  · exact .next (warm hs)

theorem execPerstNRelease (hs : s.memWf) : OutWf (execPerstNRelease s) := .next hs

theorem execVwmBootWarmReset (hs : s.memWf) : OutWf (execVwmBootWarmReset s) := .next (warm hs)

theorem execRomComplete {badLink : Option (BitVec 5)} (hs : s.memWf) : OutWf (execRomComplete badLink s) := by
  refine .ite .fault (.ite (.next hs) ?_)
  dsimp only
  split
  · exact .next (enterFailed (.ite hs (chooseBin hs)))
  · exact .next (.ite (update (update (.ite hs (chooseBin hs)))) (update (.ite hs (chooseBin hs))))

theorem execImageBufferWrite {offset : BitVec 24} {bytes : List Byte} (hs : s.memWf) :
    OutWf (execImageBufferWrite offset bytes s) :=
  .ite (.next hs) (.next (wr_wf _ _ _ _ hs))

theorem execVwmBootLenWrite {value : W32} (hs : s.memWf) : OutWf (execVwmBootLenWrite value s) := directRow hs

theorem bootGo (hs : s.memWf) : s.bootGo.memWf := .ite hs (.ite hs hs)

theorem execVwmBootGo (hs : s.memWf) : OutWf (execVwmBootGo s) := .next (bootGo hs)

theorem imageRejected (hs : s.memWf) : s.imageRejected.memWf := .ite hs (enterFailed (.ite hs (alarm hs)))

theorem execVerifyDone (hs : s.memWf) : OutWf (execVerifyDone s) :=
  .ite (.next hs) (.ite (.next (update (update (update (update hs))))) (.next (imageRejected hs)))

theorem execBringupTimeout {die : BitVec 8} (hs : s.memWf) : OutWf (execBringupTimeout die s) :=
  .ite (.next hs) (.next (enterFailed hs))

theorem recordSelfTest {fs : List (Nat × Nat)} (hs : s.memWf) : (s.recordSelfTest fs).memWf :=
  update (foldl (fun ht => .ite ht (recordFailure ht)) hs)

theorem flashReady {r : BringUp} (hs : s.memWf) : (s.flashReady r).memWf :=
  update (update (update (update (update (update (update (foldl dropChannel hs)))))))

theorem readiness (hs : s.memWf) : s.readiness.memWf :=
  update (update (update (update (foldl update (update (update (update hs)))))))

theorem bringUp {r : BringUp} (hs : s.memWf) : (s.bringUp r).memWf :=
  readiness (foldl (fun ht => ht) (flashReady (update (recordSelfTest hs))))

theorem execBringupDone {report : BringUp} (hs : s.memWf) : OutWf (execBringupDone report s) := by
  refine .ite (.next hs) ?_
  split
  · exact .next (enterFailed hs)
  · exact .next (.ite (foldl startAge hs) (bringUp (foldl startAge hs)))

theorem execAonRailFall (hs : s.memWf) : OutWf (execAonRailFall s) := .ite (.next hs) (.next (update (failDrains hs)))

theorem execAonResetRelease (hs : s.memWf) : OutWf (execAonResetRelease s) := .ite (.next hs) (.next (alarm hs))

/-! ### Sys2Proof/Machine/Group.lean -/

theorem fenceRanks {c : Nat} {rs : List Nat} (hs : s.memWf) : (s.fenceRanks c rs).memWf := by
  unfold State.fenceRanks
  dsimp only
  split
  · exact hs
  · exact raise hs

theorem streamDup {c : Nat} {st : W32} (hs : s.memWf) : (s.streamDup c st).memWf := .ite hs (raise hs)

theorem streamUnreg {c : Nat} {st : W32} (hs : s.memWf) : (s.streamUnreg c st).memWf := .ite hs (raise hs)

theorem checkStream {c : Nat} {st : W32} {ranges : List (Nat × Nat)} (hs : s.memWf) :
    (s.checkStream c st ranges).memWf := by
  unfold State.checkStream
  split
  · exact streamUnreg hs
  · exact .ite (streamUnreg hs) (.ite hs (streamDup hs))

theorem execRngStreamReg {h : Hdr} {p : StreamRegP} (hs : s.memWf) : OutWf (execRngStreamReg h p s) :=
  packet (fun ht => guarded (fun hu => finishNow hu) ht) hs

/-! ### Sys2Proof/Machine/Send.lean -/

theorem expire {row : Instr} {expiry : Nat} {f : Instr → Bool} {body : State → State}
    (hbody : ∀ {t : State}, t.memWf → (body t).memWf) (hs : s.memWf) : (s.expire row expiry f body).memWf :=
  .ite hs (hbody hs)

theorem untie {row : Instr} {f : Instr → Bool} {body : State → State}
    (hbody : ∀ {t : State}, t.memWf → (body t).memWf) (hs : s.memWf) : (s.untie row f body).memWf :=
  .ite (hbody hs) hs

theorem throughEpt {n : Nat} {miss : FabS → FabS} {go : State → State} (hgo : ∀ {t : State}, t.memWf → (go t).memWf)
    (hs : s.memWf) : (s.throughEpt n miss go).memWf :=
  .ite (hgo hs) hs

theorem sendNew {w : FabWait} {port : Option Nat} (hs : s.memWf) : (s.sendNew w port).memWf := by
  unfold State.sendNew
  dsimp only
  split
  · exact sendOn hs
  · exact hs

theorem sendManagement {w : FabWait} (hs : s.memWf) : (s.sendManagement w).memWf := sendNew hs

theorem retransmit {n seq : Nat} {counted : Bool} (hs : s.memWf) : (s.retransmit n seq counted).memWf := by
  unfold State.retransmit
  split
  · exact hs
  · split
    · exact hs
    · exact sendOn (update (.ite hs hs))

theorem resend {n seq : Nat} {counted : Bool} (hs : s.memWf) : (s.resend n seq counted).memWf :=
  throughEpt retransmit hs

theorem respondNow {k : Pkt} (hs : s.memWf) : (s.respondNow k).memWf := by
  unfold State.respondNow
  split
  · exact sendOn hs
  · exact hs

theorem respond {k : Pkt} (hs : s.memWf) : (s.respond k).memWf := .ite hs (throughEpt respondNow hs)

theorem packetRow {port : Nat} {k : Pkt} {cls fop : Nat} {body : State → State}
    (hbody : ∀ {t : State}, t.memWf → (body t).memWf) (hs : s.memWf) : OutWf (s.packetRow port k cls fop body) :=
  .ite .fault (.ite (.next hs) (.ite (.next hs) (.next (hbody hs))))

/-! ### Sys2Proof/Machine/Txn.lean -/

theorem revive {c : Nat} (hs : s.memWf) : (s.revive c).memWf := .ite hs hs

theorem execQueueCreate {h : Hdr} {p : QueueCreateP} (hs : s.memWf) : OutWf (execQueueCreate h p s) :=
  packet (fun ht => guarded (fun hu => finishNow (update (revive hu))) ht) hs

theorem execQueueDestroy {h : Hdr} {queue : BitVec 15} (hs : s.memWf) : OutWf (execQueueDestroy h queue s) :=
  packet (fun ht => guarded (fun hu => hu) ht) hs

theorem removeQueue {q : Nat} (hs : s.memWf) : (s.removeQueue q).memWf := .ite hs (revive hs)

theorem assign {c : Nat} {ks : List Nat} (hs : s.memWf) : (s.assign c ks).memWf := foldl (fun ht => ht) hs

theorem execCtxAssign {h : Hdr} {p : CtxAssignP} (hs : s.memWf) : OutWf (execCtxAssign h p s) :=
  packet (fun ht => guarded (fun hu => .ite hu (finishNow (assign hu))) ht) hs

theorem releaseClusters {ks : List Nat} (hs : s.memWf) : (s.releaseClusters ks).memWf :=
  foldl (fun ht => update (clearCluster ht)) hs

theorem stage {h : Hdr} {id : Nat} {checks : List (Option Err)} {ch : Change} (hs : s.memWf) :
    (s.stage h id checks ch).memWf := by
  unfold State.stage
  split
  · exact reject hs
  · split
    · exact reject hs
    · exact finishNow hs

theorem execCfgBegin {h : Hdr} (hs : s.memWf) : OutWf (execCfgBegin h s) :=
  packet (fun ht => .ite (reject ht) (.ite (reject ht) (finishNow ht))) hs

theorem execCfgAbort {h : Hdr} (hs : s.memWf) : OutWf (execCfgAbort h s) := by
  refine packet (fun ht => ?_) hs
  split
  · exact reject ht
  · exact finishNow ht

theorem execCfgWrite {h : Hdr} {p : CfgWriteP} (hs : s.memWf) : OutWf (execCfgWrite h p s) := packet stage hs

theorem execAlmSlotWrite {h : Hdr} {p : AlmWriteP} (hs : s.memWf) : OutWf (execAlmSlotWrite h p s) := packet stage hs

theorem execFenceClear {h : Hdr} {rank : BitVec 16} (hs : s.memWf) : OutWf (execFenceClear h rank s) :=
  packet stage hs

theorem execPartRejoin {h : Hdr} {epoch rngStep : W64} (hs : s.memWf) : OutWf (execPartRejoin h epoch rngStep s) :=
  packet stage hs

theorem calRead {id c : Nat} {p : CalLoadP} (hs : s.memWf) : (s.calRead id c p).memWf := consumeRange hs

theorem execCalLoad {h : Hdr} {p : CalLoadP} (hs : s.memWf) : OutWf (execCalLoad h p s) :=
  packet (fun ht => stage (.ite (calRead ht) ht)) hs

theorem rawRegs {chs : List Change} (hs : s.memWf) : (s.rawRegs chs).memWf := by
  refine foldl (fun ht => ?_) hs
  split
  · split
    · exact ht
    · exact ht
  · exact ht

theorem applyReg {r : Reg} {i : Nat} {v : W64} (hs : s.memWf) : (s.applyReg r i v).memWf := by
  unfold State.applyReg
  split
  · exact hs
  · exact hs
  · exact putReg hs

theorem applyChange {c : Nat} {x : Change} (hs : s.memWf) : (s.applyChange c x).memWf := by
  unfold State.applyChange
  split
  · exact hs
  · exact applySlotWrite hs
  · exact hs
  · exact hs
  · dsimp only
    split <;> exact hs

theorem applyTxn {t : Txn} (hs : s.memWf) : ((s.applyTxn t).2).memWf := by
  unfold State.applyTxn
  dsimp only
  split
  · exact raise hs
  · exact foldl applyChange (foldl applyReg hs)

theorem applyAll {ts : List Txn} (hs : s.memWf) : (s.applyAll ts).memWf :=
  .ite (foldl (fun ht => update (update (update (update ht)))) (update (update (foldlSnd applyTxn hs))))
    (foldlSnd applyTxn hs)

theorem execCfgApplyIdle {txn : Nat} (hs : s.memWf) : OutWf (execCfgApplyIdle txn s) :=
  .ite (.next hs) (.ite (.next (applyAll hs)) (.next hs))

theorem makePending {n : Nat} (hs : s.memWf) : (s.makePending n).memWf := by
  unfold State.makePending
  split
  · exact hs
  · exact hs

theorem decideTxn {t : Txn} {commit : Bool} (hs : s.memWf) : (s.decideTxn t commit).memWf :=
  .ite (complete (makePending hs)) (complete hs)

theorem sendMember {flight c rank fop : Nat} {w0 : W32} {w1 : Nat} (hs : s.memWf) :
    (s.sendMember flight c rank fop w0 w1).memWf :=
  throughEpt sendManagement hs

theorem sendDecision {t : Txn} {commit : Bool} (hs : s.memWf) : (s.sendDecision t commit).memWf := foldl sendMember hs

theorem tryDecide {t : Txn} {own : Nat} (hs : s.memWf) : (s.tryDecide t own).2.memWf := by
  unfold State.tryDecide
  extract_lets vs mine bad all s1
  have h1 : s1.memWf := update (sendDecision (.ite hs hs))
  exact iteSnd (.ite (decideTxn h1) h1) hs

theorem castVote {t : Txn} {own : Nat} (hs : s.memWf) : (s.castVote t own).memWf := by
  refine .ite (tryDecide hs) ?_
  split
  · split
    · exact sendMember hs
    · exact hs
  · exact hs

theorem commit {id : Nat} {t : Txn} {p : CommitP} (hs : s.memWf) : (s.commit id t p).memWf :=
  .ite (.ite (finishNow (makePending hs)) (reject hs)) (.ite (castVote hs) (reject (update (castVote hs))))

theorem execCfgCommit {h : Hdr} {p : CommitP} (hs : s.memWf) : OutWf (execCfgCommit h p s) := by
  refine packet (fun ht => ?_) hs
  split
  · exact reject ht
  · exact .ite (reject ht) (commit ht)

theorem voteExpired {c : Nat} {txnId : W32} (hs : s.memWf) : (s.voteExpired c txnId).memWf := by
  unfold State.voteExpired
  split
  · exact hs
  · exact decideTxn (update (update (sendDecision hs)))

theorem waitExpired {c : Nat} {txnId : W32} (hs : s.memWf) : (s.waitExpired c txnId).memWf := by
  unfold State.waitExpired
  split
  · exact hs
  · exact decideTxn hs

theorem countVote {c : Nat} {txnId : W32} {rank status : Nat} (hs : s.memWf) :
    (s.countVote c txnId rank status).memWf := by
  unfold State.countVote
  dsimp only
  split
  · exact .ite hs hs
  · exact .ite hs (.ite (update (tryDecide hs)) (tryDecide hs))

theorem takeVote {c : Nat} {txnId : W32} {rank status : Nat} (hs : s.memWf) :
    (s.takeVote c txnId rank status).memWf := by
  refine .ite hs ?_
  split
  · exact .ite (.ite hs hs) (countVote hs)
  · exact countVote hs

theorem takeDecision {c : Nat} {txnId : W32} {commit : Bool} (hs : s.memWf) :
    (s.takeDecision c txnId commit).memWf := by
  refine .ite hs ?_
  split
  · exact .ite hs hs
  · exact .ite hs (decideTxn (.ite hs hs))

theorem takeMgmt {k : Pkt} (hs : s.memWf) : (s.takeMgmt k).memWf := .ite hs (.ite (takeVote hs) (takeDecision hs))

theorem execTxnVote {port : BitVec 5} {txnId ballot : W32} {pkt : Pkt} (hs : s.memWf) :
    OutWf (execTxnVote port txnId ballot pkt s) :=
  .andThen (fun ht => untie voteExpired ht) (packetRow takeMgmt hs)

theorem execVoteTimeout {ctx : BitVec 6} {txnId : W32} (hs : s.memWf) : OutWf (execVoteTimeout ctx txnId s) := by
  refine .ite (.next hs) ?_
  split
  · exact .next hs
  · exact .ite (.next hs) (.next (expire voteExpired hs))

theorem execTxnDecision {port : BitVec 5} {txnId : W32} {pkt : Pkt} (hs : s.memWf) :
    OutWf (execTxnDecision port txnId pkt s) :=
  .andThen (fun ht => untie waitExpired ht) (packetRow takeMgmt hs)

theorem execDecisionWaitTimeout {ctx : BitVec 6} {txnId : W32} (hs : s.memWf) :
    OutWf (execDecisionWaitTimeout ctx txnId s) := by
  unfold Machine.execDecisionWaitTimeout
  split
  · exact .next hs
  · exact .ite (.next hs) (.next (expire waitExpired hs))

/-! ### Sys2Proof/Machine/Fabric.lean -/

theorem fabCheck {id : Nat} (hs : s.memWf) : (s.fabCheck id).memWf := by
  unfold State.fabCheck
  dsimp only
  split
  · split
    · exact .ite (update (.ite hs hs)) (.ite hs hs)
    · exact .ite hs hs
  · exact .ite hs hs

theorem fabFail {id st : Nat} {detail : W32} (hs : s.memWf) : (s.fabFail id st detail).memWf := fabCheck hs

theorem collFault {id st : Nat} (hs : s.memWf) : (s.collFault id st).memWf := by
  unfold State.collFault
  dsimp only
  split
  · exact armDie (update (update (update hs)))
  · exact update (update hs)

theorem transmit {w : FabWait} (hs : s.memWf) : (s.transmit w).memWf := by
  unfold State.transmit
  split
  · exact sendNew hs
  · exact .ite (collFault hs) (fabFail hs)

theorem viaEpt {w : FabWait} (hs : s.memWf) : (s.viaEpt w).memWf := throughEpt transmit hs

theorem launch {w : FabWait} (hs : s.memWf) : (s.launch w).memWf := viaEpt hs

theorem request {w : FabWait} (hs : s.memWf) : (s.request w).memWf := .ite hs (launch hs)

theorem remoteWrite {id c a : Nat} {bs : List Byte} {pois : Nat} (hs : s.memWf) :
    ((s.remoteWrite id c a bs pois).2).memWf := by
  unfold State.remoteWrite
  split
  · exact hs
  · split
    · exact hs
    · refine foldlSnd (fun ht => ?_) hs
      split
      · exact ht
      · split <;> (rename_i heq; exact ofPair heq (storePage ht))

theorem remoteAtomic {id c a op operand compare : Nat} (hs : s.memWf) :
    ((s.remoteAtomic id c a op operand compare).2.2.2).memWf := by
  unfold State.remoteAtomic
  dsimp only
  split
  · exact hs
  · split
    · exact hs
    · split
      · exact hs
      · split
        · exact hs
        · split <;> (rename_i heq; exact ofPair heq (storePage hs))

theorem getData {f : Flight} {line : Option Nat} {dst : Nat} {head : Bool} {bs : List Byte} {pois : Nat}
    (hs : s.memWf) : (s.getData f line dst head bs pois).memWf := by
  refine .ite (update ?_) (foldl storePiece ?_)
  · split
    · exact consume hs
    · exact hs
  · split
    · exact consume hs
    · exact hs

theorem oldValue {f : Flight} {src dst v pois : Nat} (hs : s.memWf) : (s.oldValue f src dst v pois).memWf :=
  storePiece (.ite (consume hs) hs)

theorem slowRead {c a n : Nat} {x : FabSlow} {body : State → State}
    (hbody : ∀ {t : State}, t.memWf → (body t).memWf) (hs : s.memWf) : (s.slowRead c a n x body).memWf :=
  .ite (hbody hs) hs

theorem ownRead {w : FabWait} (hs : s.memWf) : (s.ownRead w).memWf := by
  unfold State.ownRead
  split
  · exact .ite hs (getData hs)
  · exact hs

theorem serveOwn {w : FabWait} (hs : s.memWf) : (s.serveOwn w).memWf := by
  unfold State.serveOwn
  split
  · exact hs
  · dsimp only
    split
    · exact slowRead ownRead hs
    · exact .ite (update (remoteWrite hs)) (update (remoteWrite hs))
    · exact .ite (update (remoteAtomic hs)) (oldValue (remoteAtomic hs))
    · exact hs
    · exact hs

theorem fabSend {w : FabWait} (hs : s.memWf) : (s.fabSend w).memWf := .ite hs (.ite (serveOwn hs) (request hs))

theorem sendGet {h : Hdr} {id c src dst n : Nat} {head : Bool} (hs : s.memWf) :
    (s.sendGet h id c src dst n head).memWf :=
  fabSend hs

theorem sendPut {h : Hdr} {id c src dst n : Nat} (hs : s.memWf) : (s.sendPut h id c src dst n).memWf :=
  fabSend (load hs)

theorem execFabGet {h : Hdr} {src dst len : W64} (hs : s.memWf) : OutWf (execFabGet h src dst len s) :=
  packet (fun ht => guarded (fun hu => fabCheck (foldl sendGet hu)) ht) hs

theorem runFabPut {h : Hdr} {id c : Nat} {src dst len : W64} (hs : s.memWf) :
    (s.runFabPut h id c src dst len).memWf :=
  fabCheck (foldl sendPut hs)

theorem execFabPut {h : Hdr} {src dst len : W64} (hs : s.memWf) : OutWf (execFabPut h src dst len s) :=
  packet (fun ht => guarded (fun hu => withReads runFabPut hu) ht) hs

theorem execFabAtomic {h : Hdr} {p : FabAtomicP} (hs : s.memWf) : OutWf (execFabAtomic h p s) :=
  packet (fun ht => guarded (fun hu => fabCheck (fabSend hu)) ht) hs

theorem execFabFence {h : Hdr} (hs : s.memWf) : OutWf (execFabFence h s) := packet (fun ht => ht) hs

theorem tbNext {h : Hdr} {id c fuel : Nat} (hs : s.memWf) : (s.tbNext h id c fuel).memWf := by
  induction fuel generalizing s with
  | zero => exact hs
  | succ fuel ih =>
    unfold State.tbNext
    split
    · exact hs
    · split
      · exact .ite hs (ih (sendGet hs))
      · exact hs

theorem fabFollow {id : Nat} (hs : s.memWf) : (s.fabFollow id).memWf := by
  unfold State.fabFollow
  split
  · exact hs
  · exact settle (fabCheck (tbNext hs))

theorem execFabTbCopy {h : Hdr} {p : TbCopyP} (hs : s.memWf) : OutWf (execFabTbCopy h p s) :=
  packet (fun ht => guarded (fun hu => fabCheck (.ite (tbNext hu) (foldl sendGet hu))) ht) hs

theorem respondWhenLanded {id : Nat} {k : Pkt} (hs : s.memWf) : (s.respondWhenLanded id k).memWf :=
  .ite hs (respond hs)

theorem sendLate (hs : s.memWf) : s.sendLate.memWf := foldl respond hs

theorem serve {port : Nat} {k : Pkt} {time : Nat} {body : State → State}
    (hbody : ∀ {t : State}, t.memWf → (body t).memWf) (hs : s.memWf) : (s.serve port k time body).memWf :=
  .ite hs (.ite (respond (update (lanReceive hs))) (hbody (lanReceive hs)))

theorem answerRead {k : Pkt} (hs : s.memWf) : (s.answerRead k).memWf := respond hs

theorem serveRead {port : Nat} {k : Pkt} {time : Nat} (hs : s.memWf) : (s.serveRead port k time).memWf :=
  serve (fun ht => slowRead answerRead ht) hs

theorem slowDone {id : Nat} (hs : s.memWf) : (s.slowDone id).memWf := by
  unfold State.slowDone
  split
  · exact hs
  · refine .ite hs ?_
    dsimp only
    split
    · exact fabFollow (ownRead hs)
    · exact answerRead hs

theorem serveWrite {port : Nat} {k : Pkt} {time : Nat} (hs : s.memWf) : (s.serveWrite port k time).memWf :=
  serve (fun ht => respondWhenLanded (remoteWrite ht)) hs

theorem serveAtomic {port : Nat} {k : Pkt} {time : Nat} (hs : s.memWf) : (s.serveAtomic port k time).memWf :=
  serve (fun ht => respondWhenLanded (remoteAtomic ht)) hs

theorem takeResponse {k : Pkt} (hs : s.memWf) : (s.takeResponse k).memWf := by
  unfold State.takeResponse
  extract_lets tag src e ended s1 s2 s3
  split
  · exact hs
  · have h3 : s3.memWf := update (foldl update (update hs))
    split
    · exact h3
    · refine .ite (fabFail h3) (fabFollow ?_)
      split
      · exact getData h3
      · exact update h3
      · exact oldValue h3
      · exact h3
      · exact h3

theorem execFabReadRequest {port : BitVec 5} {pkt : Pkt} (hs : s.memWf) : OutWf (execFabReadRequest port pkt s) :=
  packetRow serveRead hs

theorem execFabWriteRequest {port : BitVec 5} {pkt : Pkt} (hs : s.memWf) : OutWf (execFabWriteRequest port pkt s) :=
  packetRow serveWrite hs

theorem execFabAtomicRequest {port : BitVec 5} {pkt : Pkt} (hs : s.memWf) : OutWf (execFabAtomicRequest port pkt s) :=
  packetRow serveAtomic hs

theorem acked {u : Unacked} (hs : s.memWf) : (s.acked u).memWf := .ite hs hs

theorem unreachable {n : Nat} {u : Unacked} (hs : s.memWf) : (s.unreachable n u).memWf := by
  unfold State.unreachable
  extract_lets e s1 s2 s3
  have h3 : s3.memWf := raise (update (update hs))
  exact .ite (collFault (acked h3)) (.ite h3 (fabFail (update h3)))

theorem retxExpired {n seq : Nat} (hs : s.memWf) : (s.retxExpired n seq).memWf := by
  unfold State.retxExpired
  split
  · exact hs
  · exact .ite (unreachable hs) (resend hs)

theorem execE2eRetxTimeout {partner : BitVec 16} {seq : W32} (hs : s.memWf) :
    OutWf (execE2eRetxTimeout partner seq s) := by
  unfold Machine.execE2eRetxTimeout
  split
  · exact .next hs
  · exact .ite (.next hs) (.next (expire retxExpired hs))

theorem execTxnSlotFree (hs : s.memWf) : OutWf (execTxnSlotFree s) := by
  unfold Machine.execTxnSlotFree
  split
  · exact .next hs
  · exact .ite (.next hs) (.ite (.next (fabFollow (serveOwn hs))) (.next (launch hs)))

theorem execStepCopyDone {ctx : BitVec 6} {page : BitVec 24} (hs : s.memWf) : OutWf (execStepCopyDone ctx page s) :=
  .next (.ite (stepCopyDone hs) (sendLate (stepCopyDone hs)))

/-! ### Sys2Proof/Machine/Coll.lean -/

theorem withColl {c b : Nat} {f : CollS → State} (hf : ∀ x, (f x).memWf) (hs : s.memWf) : (s.withColl c b f).memWf := by
  unfold State.withColl
  split
  · exact hf _
  · exact hs

theorem collMissing {c b : Nat} (hs : s.memWf) : (s.collMissing c b).memWf :=
  withColl (fun _ => .ite hs (raise hs)) hs

theorem countLate {c b n : Nat} (hs : s.memWf) : (s.countLate c b n).memWf := .ite hs hs

theorem collLate {c b : Nat} {timer : Bool} (hs : s.memWf) : (s.collLate c b timer).memWf :=
  .ite (update (countLate hs)) (countLate hs)

theorem collSend {x : CollS} {rank phase slot off : Nat} {payload : List Byte} {pois : Nat} (hs : s.memWf) :
    (s.collSend x rank phase slot off payload pois).memWf :=
  .ite hs (request hs)

theorem storeMade {id c a : Nat} {bs : List Byte} {bad : Nat → Bool} (hs : s.memWf) :
    ((s.storeMade id c a bs bad).2).memWf :=
  foldlSnd storePiece hs

theorem storeMarked {id c a : Nat} {bs : List Byte} {bad : Nat → Bool} (hs : s.memWf) :
    (s.storeMarked id c a bs bad).memWf :=
  storeMade hs

theorem writeCollRecord {c b : Nat} (hs : s.memWf) : (s.writeCollRecord c b).memWf :=
  withColl (fun _ => update (.ite (.ite (store hs) (raise (update (store hs))))
        (collMissing (.ite (store hs) (raise (update (store hs))))))) hs

theorem writeShard {c b len : Nat} (hs : s.memWf) : (s.writeShard c b len).memWf :=
  withColl (fun _ => writeCollRecord (update (.ite (update (storeMade hs)) (storeMade hs)))) hs

theorem reducerCheck {c b : Nat} (hs : s.memWf) : (s.reducerCheck c b).memWf := by
  refine withColl (fun _ => ?_) hs
  split
  · exact hs
  · exact .ite hs (.ite (writeShard (countLate hs)) (countLate hs))

theorem collCheck {c b : Nat} (hs : s.memWf) : (s.collCheck c b).memWf :=
  withColl (fun _ => .ite (armDie hs) (.ite (armDie hs) (.ite (armDie (update (update (.ite hs hs)))) (armDie hs))))
    hs

theorem allOut {c b : Nat} (hs : s.memWf) : (s.allOut c b).memWf :=
  withColl (fun _ => update (update (update (update hs)))) hs

theorem conArrive {c b k : Nat} {backup : Bool} {p : CollPiece} {time : Nat} (hs : s.memWf) :
    (s.conArrive c b k backup p time).memWf := by
  refine withColl (fun _ => ?_) hs
  split
  · exact hs
  · exact .ite hs (.ite (.ite (collLate hs) hs) (.ite (collLate hs) (.ite hs hs)))

theorem sendShard {x : CollS} {i : Nat} (hs : s.memWf) : (s.sendShard x i).memWf :=
  .ite hs (foldl (fun ht => foldl (fun hu => .ite (load hu) (.ite (conArrive (load hu)) (collSend (deep (load hu)))))
        ht) hs)

theorem writeNan {c b : Nat} (hs : s.memWf) : (s.writeNan c b).memWf := by
  refine withColl (fun _ => ?_) hs
  split
  · exact hs
  · exact .ite hs (writeCollRecord (update (store hs)))

theorem applyScale {c b : Nat} (hs : s.memWf) : (s.applyScale c b).memWf :=
  withColl (fun _ => .ite hs (.ite (collFault hs) (.ite (writeNan (.ite hs (collMissing hs)))
          (reducerCheck (foldl sendShard (.ite hs (collMissing hs))))))) hs

theorem sendScale {c b : Nat} (hs : s.memWf) : (s.sendScale c b).memWf :=
  withColl (fun _ => applyScale (foldl (fun ht => foldl collSend ht) hs)) hs

theorem rootCheck {c b : Nat} (hs : s.memWf) : (s.rootCheck c b).memWf :=
  withColl (fun _ => .ite hs (.ite hs (.ite (countLate hs) (sendScale
            (.ite (update (countLate hs)) (collMissing (update (countLate hs)))))))) hs

theorem expArrive {c b k : Nat} {backup : Bool} {m : ExpMsg} {crc : W32} {time : Nat} (hs : s.memWf) :
    (s.expArrive c b k backup m crc time).memWf :=
  withColl (fun _ => .ite hs (.ite (collLate hs) (.ite (.ite hs hs)
          (.ite (sendScale (update (.ite hs hs))) (update (.ite hs hs)))))) hs

theorem sendExp {c b k : Nat} {backup : Bool} (hs : s.memWf) : (s.sendExp c b k backup).memWf := by
  refine withColl (fun _ => ?_) hs
  split
  · exact allOut hs
  · exact .ite (expArrive hs) (collSend hs)

theorem scaleArrive {c b off : Nat} {bs : List Byte} (hs : s.memWf) : (s.scaleArrive c b off bs).memWf :=
  withColl (fun _ => .ite hs (.ite (applyScale hs) hs)) hs

theorem gatherStore {c b i off k : Nat} {bs : List Byte} {bad : Nat → Bool} (hs : s.memWf) :
    (s.gatherStore c b i off k bs bad).memWf :=
  withColl (fun _ => update (storeMarked hs)) hs

theorem gatherPut {c b i off : Nat} {bs : List Byte} {pois : Nat} (hs : s.memWf) :
    (s.gatherPut c b i off bs pois).memWf :=
  withColl (fun _ => gatherStore hs) hs

theorem gatherArrive {c b i off : Nat} {bs : List Byte} {pois : Nat} (hs : s.memWf) :
    (s.gatherArrive c b i off bs pois).memWf :=
  withColl (fun _ => .ite hs (.ite (gatherPut hs) hs)) hs

theorem sendGather {c b : Nat} (hs : s.memWf) : (s.sendGather c b).memWf := by
  refine withColl (fun _ => ?_) hs
  split
  · exact hs
  · exact foldl (fun ht => gatherStore (foldl collSend (load ht))) hs

theorem collProcess {x : CollS} {rank : Nat} {k : Pkt} {time : Nat} (hs : s.memWf) :
    (s.collProcess x rank k time).memWf := by
  refine collCheck ?_
  split
  · exact .ite hs (rootCheck (expArrive hs))
  · exact .ite (scaleArrive hs) hs
  · split
    · exact .ite hs (reducerCheck (conArrive hs))
    · exact hs
  · split
    · exact gatherArrive hs
    · exact hs
  · exact hs

theorem holdEarly {c port : Nat} {k : Pkt} {time : Nat} (hs : s.memWf) : (s.holdEarly c port k time).memWf :=
  update (foldl storePage (freeBytes hs))

theorem denyColl {k : Pkt} (hs : s.memWf) : (s.denyColl k).memWf := respond hs

theorem collArrive {port : Nat} {k : Pkt} {time : Nat} (hs : s.memWf) : (s.collArrive port k time).memWf := by
  refine .ite hs (.ite (denyColl (lanReceive hs)) (.ite (update (lanReceive hs)) (.ite (update (lanReceive hs)) ?_)))
  split
  · exact collProcess (lanReceive hs)
  · exact .ite (holdEarly (lanReceive hs)) hs

theorem takeEarly {c b : Nat} (hs : s.memWf) : (s.takeEarly c b).memWf := by
  refine foldl (fun ht => ?_) hs
  split
  · exact .ite (denyColl ht) (.ite ht (collProcess ht))
  · exact ht

theorem collPurge {c : Nat} (hs : s.memWf) : (s.collPurge c).memWf := foldl armDie hs

theorem beginReduce {c b : Nat} (hs : s.memWf) : (s.beginReduce c b).memWf := by
  refine withColl (fun x => ?_) hs
  extract_lets s1 own s2 s3
  have h2 : s2.memWf := update (load hs)
  have h3 : s3.memWf := .ite (sendScale h2) (rootCheck (foldl sendExp h2))
  exact .ite (applyScale h3) h3

theorem beginColl {c b : Nat} (hs : s.memWf) : (s.beginColl c b).memWf :=
  withColl (fun _ => .ite hs (collCheck (.ite (sendGather hs) (beginReduce hs)))) hs

theorem goOnColl {c b : Nat} (hs : s.memWf) : (s.goOnColl c b).memWf := by
  refine withColl (fun x => ?_) hs
  refine .ite (beginColl hs) (.ite hs ?_)
  extract_lets s1 s2 s3 s4
  have h2 : s2.memWf := foldl sendExp (foldl gatherPut (update hs))
  have h3 : s3.memWf := .ite (sendScale h2) (rootCheck h2)
  exact collCheck (reducerCheck (withColl (fun _ => .ite (applyScale h3) h3) h3))

theorem openColl {x : CollS} {reads : List (Nat × Nat)} (hs : s.memWf) : (s.openColl x reads).memWf :=
  beginColl (takeEarly (giveWork hs))

theorem startReduce {h : Hdr} {id c : Nat} {p : ReduceP} {d : List Nat × List (Nat × Nat)} {r : Nat} (hs : s.memWf) :
    (s.startReduce h id c p d r).memWf :=
  .ite (allOut (update (update (load hs)))) (openColl (update (update (load hs))))

theorem withDesc {id c a : Nat} {body : State → List Nat × List (Nat × Nat) → Nat → State}
    (hbody : ∀ {t : State} {x2 : List Nat × List (Nat × Nat)} {x3 : Nat}, t.memWf → (body t x2 x3).memWf)
    (hs : s.memWf) : (s.withDesc id c a body).memWf := by
  unfold State.withDesc
  dsimp only
  split
  · exact hbody hs
  · exact reject hs

theorem runReduce {h : Hdr} {id c : Nat} {p : ReduceP} (hs : s.memWf) : (s.runReduce h id c p).memWf :=
  withDesc startReduce hs

theorem execCollReduceScatter {h : Hdr} {p : ReduceP} (hs : s.memWf) : OutWf (execCollReduceScatter h p s) :=
  packet (fun ht => guarded (fun hu => withReads runReduce hu) ht) hs

theorem startGather {h : Hdr} {id c : Nat} {p : GatherP} {d : List Nat × List (Nat × Nat)} {r : Nat} (hs : s.memWf) :
    (s.startGather h id c p d r).memWf :=
  openColl (.ite (update (update (load hs))) (collMissing (update (update (load hs)))))

theorem runGather {h : Hdr} {id c : Nat} {p : GatherP} (hs : s.memWf) : (s.runGather h id c p).memWf :=
  withDesc startGather hs

theorem execCollAllGather {h : Hdr} {p : GatherP} (hs : s.memWf) : OutWf (execCollAllGather h p s) :=
  packet (fun ht => guarded (fun hu => withReads runGather hu) ht) hs

theorem runDeadline {c b : Nat} (hs : s.memWf) : (s.runDeadline c b).memWf := by
  unfold State.runDeadline
  split
  · exact .ite (settle (collCheck (rootCheck hs))) (settle (collCheck (reducerCheck hs)))
  · exact hs

theorem execReduceDeadline {ctx : BitVec 6} {bucket : BitVec 20} (hs : s.memWf) :
    OutWf (execReduceDeadline ctx bucket s) := by
  unfold Machine.execReduceDeadline
  dsimp only
  split
  · exact .next hs
  · exact .next (expire runDeadline hs)

theorem collRow {port : Nat} {k : Pkt} {phase : Nat} (hs : s.memWf) : OutWf (s.collRow port k phase) :=
  .andThen (fun ht => untie runDeadline ht) (.ite (.ite (.next hs) .fault)
      (packetRow (fun ht => settle (collArrive ht)) hs))

theorem execCollExponent {port : BitVec 5} {pkt : Pkt} (hs : s.memWf) : OutWf (execCollExponent port pkt s) :=
  collRow hs

theorem execCollScale {port : BitVec 5} {pkt : Pkt} (hs : s.memWf) : OutWf (execCollScale port pkt s) := collRow hs

theorem execCollContribution {port : BitVec 5} {pkt : Pkt} (hs : s.memWf) : OutWf (execCollContribution port pkt s) :=
  collRow hs

theorem execCollGather {port : BitVec 5} {pkt : Pkt} (hs : s.memWf) : OutWf (execCollGather port pkt s) := collRow hs

theorem execCollBusyResend {partner : BitVec 16} {seq : W32} (hs : s.memWf) :
    OutWf (execCollBusyResend partner seq s) := by
  unfold Machine.execCollBusyResend
  split
  · exact .next hs
  · exact .ite (.next hs) (.next (resend hs))

theorem collFollow {id : Nat} (hs : s.memWf) : (s.collFollow id).memWf := by
  unfold State.collFollow
  split
  · split
    · exact collCheck hs
    · exact hs
  · exact hs

theorem endUnacked {n : Nat} {u : Unacked} (hs : s.memWf) : (s.endUnacked n u).memWf := acked hs

theorem takeAck {n seq : Nat} (hs : s.memWf) : (s.takeAck n seq).memWf := by
  unfold State.takeAck
  split
  · exact .ite hs hs
  · exact .ite hs (collFollow (endUnacked (.ite hs hs)))

theorem execE2eAck {partner : BitVec 16} {seq : W32} (hs : s.memWf) : OutWf (execE2eAck partner seq s) :=
  .next (untie retxExpired (takeAck hs))

theorem collDenied {u : Unacked} (hs : s.memWf) : (s.collDenied u).memWf := by
  refine withColl (fun _ => ?_) hs
  dsimp only
  split
  · exact hs
  · refine .ite hs (collCheck (reducerCheck (rootCheck (.ite ?_ ?_))))
    · split
      · exact .ite (sendExp hs) hs
      · exact hs
    · split
      · exact collMissing hs
      · exact hs

theorem collResponse {k : Pkt} {u : Unacked} (hs : s.memWf) : (s.collResponse k u).memWf :=
  .ite hs (collDenied (update (.ite (endUnacked hs) hs)))

theorem takeAnswer {port : Nat} {k : Pkt} {time : Nat} (hs : s.memWf) : (s.takeAnswer port k time).memWf := by
  unfold State.takeAnswer
  split
  · exact collResponse (lanReceive hs)
  · exact .ite (takeResponse (lanReceive hs)) hs

theorem execFabResponse {port : BitVec 5} {pkt : Pkt} (hs : s.memWf) : OutWf (execFabResponse port pkt s) :=
  packetRow takeAnswer hs

theorem serveMissed {e : MissIn} (hs : s.memWf) : (s.serveMissed e).memWf := by
  unfold State.serveMissed
  dsimp only
  split
  · exact .ite (serveRead hs) (.ite (serveWrite hs) (serveAtomic hs))
  · exact takeAnswer hs
  · exact settle (collArrive hs)
  · exact takeMgmt hs

theorem sendMissed {w : FabWait} (hs : s.memWf) : (s.sendMissed w).memWf := .ite (sendManagement hs) (transmit hs)

theorem proceed {f : FabS} {n : Nat} (hs : s.memWf) : (s.proceed f n).memWf :=
  .ite (foldl retransmit (foldl sendMissed hs)) (foldl serveMissed
      (foldl respondNow (foldl retransmit (foldl sendMissed hs))))

theorem execEptFill {partner : BitVec 16} (hs : s.memWf) : OutWf (execEptFill partner s) :=
  .ite (.next hs) (.next (proceed hs))

/-! ### Sys2Proof/Machine/Control.lean -/

theorem execNop {h : Hdr} (hs : s.memWf) : OutWf (execNop h s) := packet finishNow hs

theorem execCtrSet {h : Hdr} {counter : BitVec 12} {value : W32} (hs : s.memWf) :
    OutWf (execCtrSet h counter value s) :=
  packet (fun ht => finishNow ht) hs

theorem runCapRead {id c : Nat} {dst : W64} {maxBytes : W32} (hs : s.memWf) :
    (s.runCapRead id c dst maxBytes).memWf :=
  finishNow (update (store hs))

theorem execCapRead {h : Hdr} {dst : W64} {maxBytes : W32} (hs : s.memWf) : OutWf (execCapRead h dst maxBytes s) :=
  packet (fun ht => guarded runCapRead ht) hs

theorem execCtrRead {h : Hdr} {first : BitVec 12} {count : BitVec 13} {dst : W64} (hs : s.memWf) :
    OutWf (execCtrRead h first count dst s) :=
  packet (fun ht => guarded (fun hu => finishNow (store hu)) ht) hs

theorem waitTest {id c : Nat} {addr value : W64} (hs : s.memWf) : (s.waitTest id c addr value).memWf := by
  unfold State.waitTest
  dsimp only
  split
  · exact .ite (update (complete hs)) (update (reject hs))
  · exact .ite (update (complete (update (consume hs)))) (.ite (update (complete hs)) hs)

theorem readAndTest {id c : Nat} {h : Hdr} {addr value : W64} (hs : s.memWf) :
    (s.readAndTest id c h addr value).memWf :=
  .ite (waitTest hs) (withReads (fun ht => ht) hs)

theorem execCtrWaitMem {h : Hdr} {addr value : W64} (hs : s.memWf) : OutWf (execCtrWaitMem h addr value s) := by
  unfold Machine.execCtrWaitMem
  exact packet (fun ht => guarded (fun hu => readAndTest hu) ht) hs

theorem execCtrWaitMemRetest {queue : BitVec 15} (hs : s.memWf) : OutWf (execCtrWaitMemRetest queue s) := by
  refine .ite (.next hs) ?_
  split
  · exact .next hs
  · split
    · exact .next (.ite hs (settle (readAndTest hs)))
    · exact .next hs

theorem execUnassignedOpcode {h : Hdr} {opcode : BitVec 12} (hs : s.memWf) :
    OutWf (execUnassignedOpcode h opcode s) := by
  refine .ite (.next hs) (visit (fun ht => ?_) hs)
  split
  · exact faultHead ht
  · exact ht

theorem publish {q index : Nat} (hs : s.memWf) : (s.publish q index).memWf := .ite hs (.ite hs hs)

theorem freeRecords {q index : Nat} (hs : s.memWf) : (s.freeRecords q index).memWf := .ite hs (.ite hs hs)

theorem execCfgDbProd {queue : BitVec 15} {index : BitVec 16} (hs : s.memWf) : OutWf (execCfgDbProd queue index s) :=
  .next (publish hs)

theorem execCfgDbCons {queue : BitVec 15} {index : BitVec 16} (hs : s.memWf) : OutWf (execCfgDbCons queue index s) :=
  .next (freeRecords hs)

/-! ### Sys2Proof/Machine/Complete.lean -/

theorem lastWork {f : Flight} (hs : s.memWf) : OptWf (s.lastWork f) := by
  unfold State.lastWork
  split
  · exact .ite (tierReady hs) (.some hs)
  · exact .ite (.some (removeQueue hs)) .none
  · exact .ite (.some (releaseClusters hs)) .none
  · exact .ite .none (.some hs)
  · exact .some hs

theorem flightStats {f : Flight} (hs : s.memWf) : (s.flightStats f).memWf :=
  .ite (.ite (foldl qntFlags (foldl addStats hs)) (foldl addStats hs)) hs

theorem leave {f : Flight} (hs : s.memWf) : OptWf (s.leave f) :=
  .map (fun ht => complete (flightStats ht)) (lastWork hs)

theorem resume {f : Flight} (hs : s.memWf) : (s.resume f).memWf := by
  unfold State.resume
  split
  · exact runMemCopy hs
  · exact runTbCopy hs
  · exact runTbBuild hs
  · exact runFabPut hs
  · exact runReduce hs
  · exact runGather hs
  · exact waitTest hs
  · exact hs

theorem endRead {r : FlashRead} {retries : Nat} {failed : Bool} (hs : s.memWf) : (s.endRead r retries failed).memWf :=
  .ite hs hs

/-! ### Sys2Proof/Machine/Direct.lean -/

theorem trigger {r : Reg} {i : Nat} {v : W64} (hs : s.memWf) : (s.trigger r i v).memWf := by
  unfold State.trigger
  split
  · exact .ite (retrain hs) hs
  · exact publish hs
  · exact freeRecords hs
  · exact kekCtrl hs
  · exact .ite (warm (.ite (bootGo hs) hs)) (.ite (bootGo hs) hs)
  · exact clearBy hs

theorem writeReg {r : Reg} {i : Nat} {v : W64} (hs : s.memWf) : (s.writeReg r i v).memWf :=
  .ite (.ite (.ite hs (directRw hs)) (w1c (.ite hs (directRw hs))))
    (trigger (.ite (.ite hs (directRw hs)) (w1c (.ite hs (directRw hs)))))

theorem execRegisterWrite {addr : W64} {wide : Bool} {value : W64} (hs : s.memWf) :
    OutWf (execRegisterWrite addr wide value s) := by
  unfold Machine.execRegisterWrite
  split
  · exact .next hs
  · exact .ite (.next hs) (.next (writeReg hs))

theorem execW1cWrite {addr value hwSet : W64} (hs : s.memWf) : OutWf (execW1cWrite addr value hwSet s) := by
  unfold Machine.execW1cWrite
  split
  · exact .next hs
  · exact .ite (.next hs) (.next (w1c hs))

/-! ### Sys2Proof/Machine/Slot.lean -/

theorem setAccWord {quarter : Bool} {e q j r c : Nat} {v : Int} (hs : s.memWf) :
    (s.setAccWord quarter e q j r c v).memWf :=
  wr_wf _ _ _ _ hs

theorem noteSat {e q j r c : Nat} (hs : s.memWf) : (s.noteSat e q j r c).memWf :=
  .ite (update hs) (update (update (update (update (update hs)))))

theorem addWord {e q j r c : Nat} {v : Int} (hs : s.memWf) : (s.addWord e q j r c v).memWf :=
  .ite hs (.ite (noteSat (update (setAccWord hs))) (setAccWord hs))

theorem takeSpill {k n : Nat} {r : List Nat × State} (hs : s.memWf) (hr : s.takeSpill k n = some r) : r.2.memWf := by
  unfold State.takeSpill at hr
  dsimp only at hr
  split at hr
  · cases hr
  · cases hr
    exact hs

theorem zeroBytes {a n : Nat} (hs : s.memWf) : (s.zeroBytes a n).memWf := wr_wf _ _ _ _ (zero_wf _ _ _ hs)

theorem zeroRegion {k : Nat} {gs : List Nat} {bytes : Nat} (hs : s.memWf) : (s.zeroRegion k gs bytes).memWf :=
  foldl zeroBytes hs

theorem setSpillWord {e : Nat} {t : Tile} {r c : Nat} {x : Sp} (hs : s.memWf) : (s.setSpillWord e t r c x).memWf := by
  unfold State.setSpillWord
  split
  · exact wr_wf _ _ _ _ hs
  · exact hs

theorem noteExp {k e : Nat} (hs : s.memWf) : (s.noteExp k e).memWf := .ite hs hs

theorem consumeWord {t : Tile} {a : Nat} (hs : s.memWf) : (s.consumeWord t a).memWf := .ite (consume hs) hs

theorem consumeSpills {e : Nat} {t : Tile} {r : Nat} (hs : s.memWf) : (s.consumeSpills e t r).memWf := by
  refine foldl (fun ht => ?_) hs
  split
  · exact consumeWord ht
  · exact ht

theorem placeTile {e q : Nat} {t : Tile} (hs : s.memWf) : (s.placeTile e q t).memWf :=
  update (update (zero_wf _ _ _ (.ite (giveWork hs) hs)))

theorem placeTiles {e q : Nat} (hs : s.memWf) : (s.placeTiles e q).memWf := by
  refine foldl (fun ht => .ite ?_ ht) hs
  split
  · exact placeTile ht
  · exact ht

theorem endTile {e q id : Nat} (hs : s.memWf) : (s.endTile e q id).memWf := by
  unfold State.endTile
  split
  · exact hs
  · exact update (update (update hs))

theorem freeSlot {e q j : Nat} (hs : s.memWf) : (s.freeSlot e q j).memWf := by
  refine placeTiles ?_
  split
  · exact endTile hs
  · exact hs

theorem drainStreams {c : Nat} {d first : Epi} {m n : Nat} (hs : s.memWf) : (s.drainStreams c d first m n).memWf :=
  .ite (checkStream (.ite (checkStream hs) hs)) (.ite (checkStream hs) hs)

theorem engFlags {e st : Nat} (hs : s.memWf) : (s.engFlags e st).memWf := .ite hs (.ite hs (.ite hs hs))

theorem engReject {e q id : Nat} {er : Err} (hs : s.memWf) : (s.engReject e q id er).memWf := reject (engFlags hs)

theorem runDrain {e q : Nat} {w : WCmd} {p : DrainP} (hs : s.memWf) : (s.runDrain e q w p).memWf := by
  unfold State.runDrain
  dsimp only
  split
  · exact engReject hs
  · exact engReject hs
  · exact .ite (update (update (freeSlot hs))) (update (update (update (update (drainStreams (load hs))))))

theorem pokeCmd {e q id : Nat} (hs : s.memWf) : (s.pokeCmd e q id).memWf := by
  unfold State.pokeCmd
  dsimp only
  split
  · exact hs
  · split
    · exact .ite (update (update (.ite hs hs))) (.ite hs hs)
    · exact .ite (runDrain hs) hs
    · exact hs

theorem dropAbandoned {e q : Nat} (hs : s.memWf) : (s.dropAbandoned e q).memWf :=
  foldl (fun ht => .ite (freeSlot ht) (endTile ht)) hs

theorem poke {e q : Nat} (hs : s.memWf) : (s.poke e q).memWf := foldl pokeCmd (placeTiles (dropAbandoned hs))

/-! ### Sys2Proof/Machine/Elt.lean -/

theorem eltNonfinite {c el : Nat} {es : List Nat} (hs : s.memWf) : (s.eltNonfinite c el es).memWf := by
  unfold State.eltNonfinite
  split
  · exact hs
  · exact raise hs

theorem putUpdate {id c el : Nat} {p : UpdateP} (hs : s.memWf) : (s.putUpdate id c el p).memWf := by
  refine eltNonfinite (deep (update ?_))
  split
  · exact storeMade (storeMade (.ite (storeMade (storeMade hs)) (storeMade hs)))
  · exact storeMade (.ite (storeMade (storeMade hs)) (storeMade hs))

theorem runUpdate {id c el : Nat} {p : UpdateP} (hs : s.memWf) : (s.runUpdate id c el p).memWf :=
  .ite (update (update (loadAll hs))) (update (putUpdate (update (loadAll hs))))

theorem updStreams {c : Nat} {p : UpdateP} (hs : s.memWf) : (s.updStreams c p).memWf :=
  .ite (checkStream hs) (.ite (streamDup (checkStream hs)) (checkStream (checkStream hs)))

theorem kernelMade {k : KRun} {elem : Nat} {nf : Option Fv} {sat : Bool} (hs : s.memWf) :
    ((State.kernelMade k s elem nf sat).2).memWf := by
  unfold State.kernelMade
  split
  · exact hs
  · exact .ite hs hs

theorem kernelRead {k : KRun} {a n : Nat} (hs : s.memWf) : ((s.kernelRead k a n).2.1).memWf := by
  unfold State.kernelRead
  split
  · exact hs
  · exact load hs

theorem kernelStore {k : KRun} {a : Nat} {f : Fmt} {elem : Nat} {value : W32} {rnd : Rnd} (hs : s.memWf) :
    ((s.kernelStore k a f elem value rnd).2).memWf := by
  unfold State.kernelStore
  dsimp only
  split
  · exact kernelMade (store hs)
  · exact store hs

theorem storeBits {k : KRun} {base w index v : Nat} (hs : s.memWf) : ((s.storeBits k base w index v).2).memWf := by
  unfold State.storeBits
  dsimp only
  split
  · exact store hs
  · split
    · rename_i heq
      exact ofMiddle heq (kernelRead hs)
    · rename_i heq
      exact store (ofMiddle heq (kernelRead hs))

theorem kernelMx {k : KRun} {base index scaleAddr : Nat} {f : Fmt} {elem : Nat} {value : W32} {rnd : Rnd}
    (hs : s.memWf) : (s.kernelMx k base index scaleAddr f elem value rnd).2.memWf := by
  unfold State.kernelMx
  split
  · rename_i hread
    exact ofMiddle hread (kernelRead hs)
  · rename_i t _ hread
    have ht : t.memWf := ofMiddle hread (kernelRead hs)
    dsimp only
    split
    · exact iteSnd (kernelMade (storeBits ht)) (kernelMade (storeBits ht))
    · exact kernelMade (store (storeBits ht))

theorem kernelLoad {k : KRun} {dst : Nat} {fmt : BitVec 8} {a : Nat} (hs : s.memWf) :
    ((s.kernelLoad k dst fmt a).2).memWf := by
  unfold State.kernelLoad
  split
  · exact hs
  · split <;> (rename_i heq; exact ofMiddle heq (kernelRead hs))

theorem kernelLoadMx {k : KRun} {dst : Nat} {fmt : BitVec 8} {base index scaleAddr : Nat} (hs : s.memWf) :
    (s.kernelLoadMx k dst fmt base index scaleAddr).2.memWf := by
  unfold State.kernelLoadMx
  dsimp only
  split
  · exact update hs
  · split
    · rename_i hread
      exact ofMiddle hread (kernelRead hs)
    · rename_i hread
      have ht := ofMiddle hread (kernelRead hs)
      split
      · rename_i hscale
        exact ofMiddle hscale (kernelRead ht)
      · rename_i hscale
        exact ofMiddle hscale (kernelRead ht)

theorem kernelStep {q : KRun × State} {a : KAccess} (hq : q.2.memWf) : ((State.kernelStep q a).2).memWf := by
  unfold State.kernelStep
  dsimp only
  split
  · exact hq
  · split
    · exact hq
    · exact hq
    · exact kernelLoad hq
    · exact kernelLoadMx hq
    · exact kernelRead hq
    · split
      · exact hq
      · split
        · exact hq
        · exact kernelStore hq
    · split
      · exact hq
      · split
        · exact hq
        · exact kernelMx hq
    · split
      · exact hq
      · exact kernelMade (store hq)

theorem runKernel {id c : Nat} {p : KernelP} {acc : List KAccess} (hs : s.memWf) : (s.runKernel id c p acc).memWf :=
  update (deep (eltNonfinite (update (foldlSnd kernelStep hs))))

theorem runElt {el : Nat} {f : Flight} (hs : s.memWf) : (s.runElt el f).memWf := by
  unfold State.runElt
  split
  · exact runUpdate hs
  · exact runKernel hs
  · exact hs

theorem pokeElt {el : Nat} (hs : s.memWf) : (s.pokeElt el).memWf := by
  unfold State.pokeElt
  split
  · exact runElt hs
  · exact hs

theorem toElt {id c el : Nat} {cmd : Instr} {reads : List (Nat × Nat)} (hs : s.memWf) :
    (s.toElt id c el cmd reads).memWf :=
  pokeElt (giveWork hs)

theorem execEltUpdate {h : Hdr} {p : UpdateP} (hs : s.memWf) : OutWf (execEltUpdate h p s) :=
  packet (fun ht => guarded (fun hu => toElt (updStreams hu)) ht) hs

theorem execEltKernel {h : Hdr} {p : KernelP} {found : Bool} {acc : List KAccess} (hs : s.memWf) :
    OutWf (execEltKernel h p found acc s) :=
  packet (fun ht => guarded (fun hu => toElt (foldl checkStream hu)) ht) hs

/-! ### Sys2Proof/Machine/Engine.lean -/

theorem storeChain {k : Nat} {x : ChainRow} (hs : s.memWf) : (s.storeChain k x).memWf := by
  refine foldl (fun ht => ?_) hs
  split
  · exact wr_wf _ _ _ _ ht
  · exact ht

theorem fitEarly {k : Nat} (hs : s.memWf) : OptWf (s.fitEarly k) :=
  .map (fun ht => foldl storeChain ht) (.ite (.some hs) (.mapOf (fun ht => update (takeSpill hs ht))))

theorem settleEarly {k : Nat} (hs : s.memWf) : (s.settleEarly k).memWf := .ite hs (getD (fitEarly hs) hs)

theorem holdRow {k : Nat} {x : ChainRow} (hs : s.memWf) : OptWf (s.holdRow k x) := fitEarly hs

theorem giveRegion {e q id n : Nat} (hs : s.memWf) : (s.giveRegion e q id n).memWf := by
  refine .ite hs ?_
  dsimp only
  split
  · rename_i hspill _
    exact settleEarly (update (zeroRegion (takeSpill hs hspill)))
  · exact hs

theorem openTile {e q id queue c : Nat} {p : MatmulP} (hs : s.memWf) : (s.openTile e q id queue c p).memWf := by
  refine giveRegion ?_
  split <;> exact hs

theorem enterMatmul {e q id queue c : Nat} {p : MatmulP} {t : Nat} {first : Bool} (hs : s.memWf) :
    (s.enterMatmul e q id queue c p t first).memWf := by
  unfold State.enterMatmul
  extract_lets u kg names d empty hit s1 s2 s3 w s4 s5
  have h1 : s1.memWf := by
    unfold s1
    split
    · exact consume hs
    · exact hs
  have h2 : s2.memWf := .ite (load h1) h1
  have h5 : s5.memWf := update (update (.ite (load h2) h2))
  split
  · exact update (.ite (drainStreams h5) h5)
  · exact h5

theorem abandonTile {e q id : Nat} (hs : s.memWf) : (s.abandonTile e q id).memWf := by
  unfold State.abandonTile
  exact poke hs

theorem judge {e q id c : Nat} {cmd : ArrCmd} (hs : s.memWf) : OptWf (s.judge e q id c cmd) := by
  unfold State.judge
  dsimp only
  split
  · refine .ite (.some (engReject (update (abandonTile hs)))) ?_
    split
    · exact .bind (.some (engReject hs))
    · exact .none
  · split
    · exact .bind (.some (engReject hs))
    · exact .ite (.some (engReject hs)) .none
    · exact .none

theorem accept {e q : Nat} {m : Nat × Nat × Nat × ArrCmd} (hs : s.memWf) : (s.accept e q m).memWf := by
  unfold State.accept
  split
  · rename_i heq
    exact judge hs _ heq
  · refine .ite hs ?_
    dsimp only
    split
    · split
      · exact poke (enterMatmul hs)
      · exact poke (enterMatmul (openTile hs))
    · exact poke hs
    · exact hs

theorem runMode {e id : Nat} {quarter : Bool} (hs : s.memWf) : (s.runMode e id quarter).memWf :=
  .ite (engReject hs) (.ite (finishNow hs) (finishNow hs))

theorem runCheck {e pattern : Nat} {badGroups : List Nat} (hs : s.memWf) :
    (s.runCheck e pattern badGroups).2.2.memWf := by
  unfold State.runCheck
  extract_lets g bad pairs mask free s1 s2 s3 s4 s5
  have h2 : s2.memWf := update (zero_wf _ _ _ (update hs))
  have h3 : s3.memWf := raise (update h2)
  have h4 : s4.memWf := .ite (recordFailure h3) (foldl recordFailure h3)
  split
  · exact h2
  · unfold s5
    dsimp only
    split
    · exact update h4
    · exact h4

theorem endCheck {e id pattern : Nat} {badGroups : List Nat} (hs : s.memWf) :
    (s.endCheck e id pattern badGroups).memWf :=
  update (update (runCheck hs))

theorem deliverArr {e id c : Nat} {cmd : ArrCmd} (hs : s.memWf) : (s.deliverArr e id c cmd).memWf :=
  giveWork (update (update (update (update (update hs)))))

theorem frontRuns {e : Nat} (hs : s.memWf) : OptWf (s.frontRuns e) := by
  unfold State.frontRuns
  dsimp only
  split
  · split
    · exact .ite (.some (runMode hs)) .none
    · exact .ite (.some (engReject hs)) (.ite (.some (endCheck hs)) .none)
    · exact .none
  · exact .none

theorem reach {e q id c : Nat} {cmd : ArrCmd} (hs : s.memWf) : (s.reach e q id c cmd).memWf := by
  unfold State.reach
  extract_lets x q' s1 free judged
  have h1 : s1.memWf := deliverArr hs
  have hjudged : judged.memWf := getD (.bind (judge h1)) h1
  have hfront : ((s1.frontRuns e).getD s1).memWf := getD (frontRuns h1) h1
  split
  · exact .ite (engReject (update h1)) (.ite hfront h1)
  · exact .ite h1 (.ite (.ite hjudged h1) hfront)
  · exact .ite hjudged h1

theorem execArrMatmul {h : Hdr} {p : MatmulP} (hs : s.memWf) : OutWf (execArrMatmul h p s) :=
  packet (fun ht => guarded reach ht) hs

theorem execArrDrain {h : Hdr} {p : DrainP} (hs : s.memWf) : OutWf (execArrDrain h p s) :=
  packet (fun ht => guarded reach ht) hs

theorem execArrMode {h : Hdr} {engine : BitVec 11} {quarter : Bool} (hs : s.memWf) :
    OutWf (execArrMode h engine quarter s) :=
  packet (fun ht => guarded reach ht) hs

theorem execCheckTile {h : Hdr} {engine : BitVec 11} {pattern : BitVec 4} {badGroups : List Nat} (hs : s.memWf) :
    OutWf (execCheckTile h engine pattern badGroups s) :=
  packet (fun ht => guarded reach ht) hs

theorem execArrMapRead {h : Hdr} {dst : W64} {first : BitVec 11} {count : BitVec 12} (hs : s.memWf) :
    OutWf (execArrMapRead h dst first count s) :=
  packet (fun ht => guarded (fun hu => finishNow (store hu)) ht) hs

theorem settleOwner {e : Nat} (hs : s.memWf) : (s.settleOwner e).memWf := by
  unfold State.settleOwner
  split
  · exact settle hs
  · exact hs

theorem unitRow {e q : Nat} (hs : s.memWf) (hf : f.memWf) : OutWf (s.unitRow e q f) :=
  .ite .fault (.ite (.next hs) (.next (settleOwner hf)))

theorem workRow {e q : Nat} (hs : s.memWf) (hf : f.memWf) : OutWf (s.workRow e q f) := unitRow hs (.ite hf hs)

theorem execArrAccept {engine : BitVec 11} {quarter : BitVec 2} (hs : s.memWf) :
    OutWf (execArrAccept engine quarter s) := by
  refine unitRow hs (.ite hs ?_)
  split
  · rename_i heq
    exact frontRuns hs _ heq
  · split
    · exact accept hs
    · exact hs

theorem execInjectedCheckTile {engine : BitVec 11} {badGroups : List Nat} (hs : s.memWf) :
    OutWf (execInjectedCheckTile engine badGroups s) :=
  unitRow hs (.ite hs (.ite (giveWork hs) (update (runCheck (touchUnit hs)))))

theorem execSpillRegionAcquire {engine : BitVec 11} (hs : s.memWf) : OutWf (execSpillRegionAcquire engine s) := by
  refine unitRow hs ?_
  split
  · exact poke (giveRegion hs)
  · exact hs

theorem countRow {e q : Nat} {r : RowDoes} (hs : s.memWf) : (s.countRow e q r).memWf := by
  unfold State.countRow
  split
  · exact hs
  · exact hs
  · exact hs
  · exact hs
  · dsimp only
    split
    · exact deep (deep (.ite (deep hs) hs))
    · exact deep (.ite (deep hs) hs)

theorem countActive {e q : Nat} (hs : s.memWf) : (s.countActive e q).memWf :=
  .ite (update hs) (update (update (update hs)))

theorem genTable {e q : Nat} (hs : s.memWf) : (s.genTable e q).memWf := by
  refine .ite hs ?_
  split
  · exact deep hs
  · exact hs

theorem unitCycle {e q : Nat} {parity : Bool} (hs : s.memWf) : (s.unitCycle e q parity).memWf := by
  unfold State.unitCycle
  extract_lets rows u does fills any s1 s2 s3 s4 ids s5 s6 s7
  have h2 : s2.memWf := foldl countRow (genTable (touchUnit hs))
  have h4 : s4.memWf := update (.ite (countActive h2) h2)
  have h6 : s6.memWf := .ite (raise (update (foldl update h4))) h4
  exact poke (update (update h6))

theorem execRowIssue {engine : BitVec 11} {quarter : BitVec 2} {parity : Bool} (hs : s.memWf) :
    OutWf (execRowIssue engine quarter parity s) :=
  workRow hs (.ite hs (unitCycle hs))

theorem execCellUpdate {engine : BitVec 11} {quarter : BitVec 2} (hs : s.memWf) :
    OutWf (execCellUpdate engine quarter s) := by
  refine workRow hs ?_
  split
  · exact poke hs
  · exact hs

theorem tileEnd {e q : Nat} {t : Tile} {now : Nat} (hs : s.memWf) : (s.tileEnd e q t now).memWf :=
  .ite hs (update (.ite hs (raise hs)))

theorem rowEnded {e q row : Nat} {t : Tile} {last : Bool} {now : Nat} (hs : s.memWf) :
    (s.rowEnded e q row t last now).memWf :=
  .ite (tileEnd hs) hs

theorem promote {e q : Nat} {x : Promo} {rest : List Promo} (hs : s.memWf) : (s.promote e q x rest).memWf := by
  unfold State.promote
  dsimp only
  split
  · exact hs
  · exact .ite hs (.ite (update (deep (update (foldl addWord hs)))) (rowEnded (deep (update (foldl addWord hs)))))

theorem execRunPromotion {engine : BitVec 11} {quarter : BitVec 2} (hs : s.memWf) :
    OutWf (execRunPromotion engine quarter s) := by
  refine workRow hs ?_
  split
  · exact poke (promote hs)
  · exact hs

theorem spillElem {e q : Nat} {t : Tile} {row c j : Nat} (hs : s.memWf) : (s.spillElem e q t row c j).memWf :=
  update (setAccWord (noteExp (setSpillWord hs)))

theorem spillRow {e q : Nat} {x : SpillDue} {rest : List SpillDue} (hs : s.memWf) :
    (s.spillRow e q x rest).memWf := by
  unfold State.spillRow
  dsimp only
  split
  · exact hs
  · exact .ite hs (rowEnded (deep (update (foldl spillElem (consumeSpills hs)))))

theorem execSpillAdd {engine : BitVec 11} {quarter : BitVec 2} (hs : s.memWf) :
    OutWf (execSpillAdd engine quarter s) := by
  refine workRow hs ?_
  split
  · exact poke (spillRow hs)
  · exact hs

/-! ### Sys2Proof/Machine/Epilogue.lean -/

theorem execPreloadRegionAcquire {engine : BitVec 11} {quarter : BitVec 2} (hs : s.memWf) :
    OutWf (execPreloadRegionAcquire engine quarter s) := by
  refine unitRow hs (.ite hs ?_)
  dsimp only
  split
  · exact hs
  · exact hs

theorem outlierRow {e q : Nat} {t : Tile} {d : Pre} {r : Nat} (hs : s.memWf) : (s.outlierRow e q t d r).memWf :=
  update (loadAll hs)

theorem preTerm {id c a : Nat} (hs : s.memWf) : ((s.preTerm id c a).2.2).memWf := load hs

theorem markPois {e q j r c : Nat} {b : Bool} (hs : s.memWf) : (s.markPois e q j r c b).memWf := .ite hs hs

theorem preElem {e q : Nat} {t : Tile} {d : Pre} {r c : Nat} (hs : s.memWf) : (s.preElem e q t d r c).memWf := by
  unfold State.preElem
  extract_lets j term s1 s2
  have hterm : ∀ {u : State} {use a}, u.memWf → (term u use a).memWf := fun hu =>
    .ite hu (markPois (addWord (preTerm hu)))
  have h2 : s2.memWf := hterm (hterm hs)
  refine .ite h2 ?_
  split
  · exact markPois (addWord (.ite (noteSat h2) h2))
  · exact h2

theorem preloadRow {e q : Nat} {t : Tile} {d : Pre} {r : Nat} (hs : s.memWf) : (s.preloadRow e q t d r).memWf := by
  unfold State.preloadRow
  refine poke (update ?_)
  split
  · exact wr_wf _ _ _ _ (foldl preElem hs)
  · exact foldl preElem hs

theorem execPreloadRowComplete {engine : BitVec 11} {quarter : BitVec 2} {row : BitVec 7} (hs : s.memWf) :
    OutWf (execPreloadRowComplete engine quarter row s) := by
  refine workRow hs ?_
  split
  · exact .ite hs (preloadRow hs)
  · exact hs

theorem passRow {e q : Nat} {t : Tile} {r at' : Nat} {vs : List Sp} (hs : s.memWf) :
    (s.passRow e q t r at' vs).memWf :=
  .ite hs hs

theorem readRow {e q : Nat} {t : Tile} {d : DrainS} {now : Nat} {vs : List Sp} (hs : s.memWf) :
    (s.readRow e q t d now vs).memWf :=
  passRow hs

theorem refuseChain {e q : Nat} {t : Tile} (hs : s.memWf) : (s.refuseChain e q t).memWf := by
  unfold State.refuseChain
  exact poke (engReject (freeSlot hs))

theorem chainRow {e : Nat} {t : Tile} {x : ChainRow} (hs : s.memWf) : (s.chainRow e t x).memWf := by
  unfold State.chainRow
  split
  · exact hs
  · exact .ite (refuseChain hs) (readRow (deep (noteExp hs)))

theorem consumeEarly {k : Nat} {t : Tile} {x : ChainRow} (hs : s.memWf) : (s.consumeEarly k t x).memWf := by
  refine foldl (fun ht => ?_) hs
  split
  · exact consumeWord ht
  · exact ht

theorem meetEarly {e n : Nat} (hs : s.memWf) : (s.meetEarly e n).memWf := by
  induction n generalizing s with
  | zero => exact hs
  | succ n ih =>
    unfold State.meetEarly
    dsimp only
    split
    · exact ih (chainRow (consumeEarly hs))
    · exact hs

theorem chainEarly {e : Nat} (hs : s.memWf) : (s.chainEarly e).memWf :=
  .ite hs (getD (fitEarly (meetEarly hs)) (meetEarly hs))

theorem drainReads {e : Nat} {t : Tile} {raw : Bool} (hs : s.memWf) : (s.drainReads e t raw).memWf :=
  .ite hs (foldl consumeSpills hs)

theorem startDrain {e q : Nat} {t : Tile} (hs : s.memWf) : (s.startDrain e q t).memWf := by
  unfold State.startDrain
  extract_lets u start
  split
  · exact hs
  · extract_lets rows d s1 s2 s3
    have h1 : s1.memWf := update (drainReads hs)
    have h2 : s2.memWf := .ite h1 (noteExp h1)
    have h3 : s3.memWf := .ite (chainEarly h2) h2
    refine .ite (foldl (fun ht => ?_) h3) h3
    split
    · exact readRow ht
    · exact ht

theorem execDrainStart {engine : BitVec 11} {quarter : BitVec 2} (hs : s.memWf) :
    OutWf (execDrainStart engine quarter s) := by
  refine workRow hs ?_
  split
  · exact startDrain hs
  · exact hs

theorem rowTaken {x : ChainRow} (hs : s.memWf) : (s.rowTaken x).memWf := by
  unfold State.rowTaken
  dsimp only
  split
  · exact hs
  · exact poke (update (.ite (update (update (update hs))) (update hs)))

theorem receive {e : Nat} {x : ChainRow} (hs : s.memWf) : OptWf (s.receive e x) := by
  refine .ite .none ?_
  split
  · exact .ite (.some (chainEarly (rowTaken (chainRow hs)))) .none
  · exact .map rowTaken (holdRow hs)

theorem execChainRowReceive {engine : BitVec 11} (hs : s.memWf) : OutWf (execChainRowReceive engine s) :=
  unitRow hs (getD (.findSome (receive hs)) hs)

theorem writeDrainStats {c : Nat} {d : DrainS} (hs : s.memWf) : (s.writeDrainStats c d).memWf :=
  .ite hs (storeMarked (load hs))

theorem putRow {e : Nat} {t : Tile} {d : DrainS} {r : Nat} {row : List (Sp × OutElem)} (hs : s.memWf) :
    (s.putRow e t d r row).memWf :=
  deep (update (.ite (update (storeMade hs)) (storeMade hs)))

theorem outputRow {e q : Nat} {t : Tile} {d : DrainS} {r : Nat} {vs : List Sp} (hs : s.memWf) :
    (s.outputRow e q t d r vs).memWf := by
  unfold State.outputRow
  exact poke (update (.ite (update (.ite (loadAll hs) (putRow (loadAll hs))))
        (update (update (writeDrainStats (update (.ite (loadAll hs) (putRow (loadAll hs)))))))))

theorem execEpilogueRowOutput {engine : BitVec 11} {quarter : BitVec 2} (hs : s.memWf) :
    OutWf (execEpilogueRowOutput engine quarter s) := by
  refine workRow hs ?_
  split
  · split
    · exact outputRow hs
    · exact hs
  · exact hs

theorem execSlotFree {engine : BitVec 11} {quarter : BitVec 2} (hs : s.memWf) :
    OutWf (execSlotFree engine quarter s) := by
  refine workRow hs ?_
  split
  · exact poke (update (freeSlot hs))
  · exact hs

theorem execDeferredSramWrite {engine : BitVec 11} (hs : s.memWf) : OutWf (execDeferredSramWrite engine s) := by
  refine unitRow hs ?_
  split
  · exact update (wr_wf _ _ _ _ hs)
  · exact hs

/-! ### Sys2Proof/Machine/Image.lean -/

theorem sealSeg {m : ImageS} {n dst : Nat} {plain : List Byte} {bad : List Nat} (hs : s.memWf) :
    (s.sealSeg m n dst plain bad).memWf :=
  update (update (wr_wf _ _ _ _ hs))

theorem writeTags {m : ImageS} (hs : s.memWf) : (s.writeTags m).memWf := foldl (fun ht => wr_wf _ _ _ _ ht) hs

theorem sealHead {m : ImageS} {n count : Nat} {bs : List Byte} {bad : List Nat} (hs : s.memWf) :
    (s.sealHead m n count bs bad).memWf :=
  foldl sealSeg hs

theorem endDrain {id : Nat} (hs : s.memWf) : (s.endDrain id).memWf := by
  unfold State.endDrain
  split
  · exact .ite hs (nandWrite (writeTags hs))
  · exact hs

theorem takeImage {c : Nat} (hs : s.memWf) : (s.takeImage c).memWf :=
  .ite (failImage (update (update (getD (.mapOf (fun ht => takeFpages hs ht)) hs))))
    (endDrain (nandWrite (sealHead (sealHead (sealHead (update (update
                  (getD (.mapOf (fun ht => takeFpages hs ht)) hs))))))))

theorem drainPage {m : ImageS} {i : Nat} {p : ImgPage} {fpage chan : Nat} (hs : s.memWf) :
    (s.drainPage m i p fpage chan).memWf :=
  nandWrite (imageLets (update (foldl sealSeg hs)))

theorem execCkptPageDrained {imageId : W32} {page : BitVec 24} (hs : s.memWf) :
    OutWf (execCkptPageDrained imageId page s) := by
  unfold Machine.execCkptPageDrained
  split
  · exact .next hs
  · split
    · rename_i heq
      exact .ite (.next hs) (.ite (.next (failImage hs)) (.next (.ite
              (retryCredits (endDrain (drainPage (takeFpage hs heq)))) (sendLate
                (retryCredits (endDrain (drainPage (takeFpage hs heq))))))))
    · exact .next hs

theorem execCkptSeal {imageId : W32} (hs : s.memWf) : OutWf (execCkptSeal imageId s) := by
  unfold Machine.execCkptSeal
  split
  · exact .ite (.next hs) (.ite (.next (failImage hs)) (.next (raise
            (update (nandWrite (update (wr_wf _ _ _ _ hs)))))))
  · exact .next hs

theorem execImageList {h : Hdr} {dst : W64} (hs : s.memWf) : OutWf (execImageList h dst s) :=
  packet (fun ht => guarded (fun hu => finishNow (store hu)) ht) hs

theorem dropImagePages {m : ImageS} (hs : s.memWf) : (s.dropImagePages m).memWf :=
  foldl (fun ht => zero_wf _ _ _ ht) hs

theorem releaseImage {m : ImageS} (hs : s.memWf) : (s.releaseImage m).memWf :=
  sendLate (retryCredits (dropImagePages (foldl imageLets hs)))

theorem execImageRelease {h : Hdr} {imageId : W32} (hs : s.memWf) : OutWf (execImageRelease h imageId s) := by
  refine packet (fun ht => ?_) hs
  split
  · exact reject ht
  · exact finishNow (releaseImage ht)

theorem releaseMapping {c p : Nat} (hs : s.memWf) : (s.releaseMapping c p).memWf :=
  .ite (zero_wf _ _ _ (foldl freeFrame hs)) (foldl freeFrame hs)

theorem execHarvest {h : Hdr} {imageId : W32} (hs : s.memWf) : OutWf (execHarvest h imageId s) :=
  packet (fun ht => guarded (fun hu => update (.ite hu hu)) ht) hs

theorem harvestSegs {m : ImageS} {segs : List (Nat × Nat)} {bad : Nat → Bool} {leaf : Nat → Option W64}
    (hs : s.memWf) : ((s.harvestSegs m segs bad leaf).2).memWf := by
  refine foldlSnd (fun ht => ?_) hs
  dsimp only
  split <;> exact update (wr_wf _ _ _ _ ht)

theorem harvestPage {c : Nat} {m : ImageS} {i : Nat} {p : ImgPage} {bad : Nat → Bool} (hs : s.memWf) :
    ((s.harvestPage c m i p bad).2).memWf :=
  landWaits (update (foldl update (harvestSegs (update (releaseMapping hs)))))

theorem harvestRegion {c : Nat} {m : ImageS} {base : W64} {n count : Nat} {bad : Nat → Bool} (hs : s.memWf) :
    ((s.harvestRegion c m base n count bad).2).memWf :=
  harvestSegs hs

theorem harvestPages {c : Nat} {m : ImageS} {badSegs : List Nat} (hs : s.memWf) :
    (s.harvestPages c m badSegs).2.memWf := by
  refine foldlSnd (fun ht => ?_) hs
  dsimp only
  exact harvestPage ht

theorem harvestRun {c : Nat} {m : ImageS} {badSegs : List Nat} (hs : s.memWf) :
    ((s.harvestRun c m badSegs).2).memWf :=
  update (update (update (update (harvestRegion (harvestRegion (harvestPages hs))))))

theorem harvestStops {c id : Nat} {m : ImageS} {badSegs : List Nat} {st : Nat} (hs : s.memWf) :
    (s.harvestStops c id m badSegs st).memWf :=
  update (update (harvestPages hs))

theorem execHarvestComplete {ctx : BitVec 6} {badSegments : List Nat} (hs : s.memWf) :
    OutWf (execHarvestComplete ctx badSegments s) := by
  unfold Machine.execHarvestComplete
  extract_lets c
  split
  · exact .next hs
  · split
    · split
      · exact .next hs
      · split
        · exact .next (update (sendLate (harvestStops hs)))
        · extract_lets r s1 s2 s3
          have h2 : s2.memWf := .ite (harvestRun hs) (update (harvestRun hs))
          exact .next (update (sendLate (.ite h2 (raise (update (update h2))))))
    · exact .next hs

/-! ### Sys2Proof/Machine/Equinox.lean -/

theorem leaveEqx {c : Nat} (hs : s.memWf) : (s.leaveEqx c).memWf := foldl (fun ht => ht) hs

theorem discardHeld {c : Nat} (hs : s.memWf) : (s.discardHeld c).memWf := foldl freeSlot hs

theorem freeFrames {c : Nat} {fs : List Nat} (hs : s.memWf) : (s.freeFrames c fs).memWf := foldl freeFrame hs

theorem mapPages {c : Nat} {f : PageS → PageS} (hs : s.memWf) : (s.mapPages c f).memWf := foldl (fun ht => ht) hs

theorem commitPages {c : Nat} (hs : s.memWf) : (s.commitPages c).memWf := update (mapPages hs)

theorem releasePrev {c : Nat} (hs : s.memWf) : (s.releasePrev c).memWf := retryCredits (freeFrames (mapPages hs))

theorem restorePages {c : Nat} (hs : s.memWf) : (s.restorePages c).memWf :=
  retryCredits (update (freeFrames (foldl (fun ht => ht) hs)))

theorem withdrawPages {c : Nat} (hs : s.memWf) : (s.withdrawPages c).memWf :=
  retryCredits (update (freeFrames (foldl (fun ht => ht) hs)))

theorem keepTable {c : Nat} (hs : s.memWf) : (s.keepTable c).memWf := by
  unfold State.keepTable
  split
  · exact .ite (freeRun_wf _ _ _ hs) hs
  · exact hs

theorem applyStaged {c : Nat} (hs : s.memWf) : (s.applyStaged c).memWf := update (.ite (keepTable hs) hs)

theorem applyDue {c : Nat} (hs : s.memWf) : (s.applyDue c).memWf := applyAll hs

theorem endBarrier {c st : Nat} (hs : s.memWf) : (s.endBarrier c st).memWf := by
  unfold State.endBarrier
  split
  · exact hs
  · exact complete hs

theorem leaveTo {c : Nat} {held : Bool} {st : Nat} (hs : s.memWf) : (s.leaveTo c held st).memWf :=
  .ite (endBarrier hs) (endBarrier (leaveEqx hs))

theorem syncPulse {c : Nat} (hs : s.memWf) : (s.syncPulse c).memWf := .ite hs hs

theorem rollbackEqx {c : Nat} {v : Verdict} {recs : List ExRec} (hs : s.memWf) : (s.rollbackEqx c v recs).memWf := by
  unfold State.rollbackEqx
  extract_lets s1 s2 s3 s4 s5 s6 s7 s8
  have h4 : s4.memWf := update (applyDue (applyStaged (almEqx (restorePages (fenceRanks hs)))))
  have h7 : s7.memWf := raise (update (update (syncPulse (discardHeld (update (collPurge h4))))))
  refine leaveTo ?_
  unfold s8
  split
  · exact raise h7
  · exact h7

theorem endCommit {c : Nat} {held : Bool} (hs : s.memWf) : (s.endCommit c held).memWf := leaveTo (releasePrev hs)

theorem commitEqx {c : Nat} {recs : List ExRec} (hs : s.memWf) : (s.commitEqx c recs).memWf := by
  unfold State.commitEqx
  extract_lets s1 e s2 s3 s4 s5 s6 image s7 s8 s9 n
  have h6 : s6.memWf := collPurge (update (applyDue (applyStaged (almEqx (update (update (update (commitPages hs))))))))
  have h9 : s9.memWf := update (syncPulse (.ite (takeImage h6) h6))
  exact .ite (update h9) (endCommit h9)

theorem decideEqx {c : Nat} {lost : Bool} (hs : s.memWf) : (s.decideEqx c lost).memWf :=
  .ite (commitEqx hs) (rollbackEqx hs)

theorem tryEqx {c : Nat} (hs : s.memWf) : (s.tryEqx c).memWf := .ite (decideEqx hs) hs

theorem execEqxBarrier {h : Hdr} {ckpt : Bool} (hs : s.memWf) : OutWf (execEqxBarrier h ckpt s) :=
  packet (fun ht => guarded (fun hu => hu) ht) hs

theorem execEqxProtect {h : Hdr} {p : ProtectP} (hs : s.memWf) : OutWf (execEqxProtect h p s) :=
  packet (fun ht => guarded (fun hu => finishNow hu) ht) hs

theorem resumeStep {c : Nat} (hs : s.memWf) : (s.resumeStep c).memWf := leaveEqx (update (freeFrames (mapPages hs)))

theorem execEqxResume {h : Hdr} (hs : s.memWf) : OutWf (execEqxResume h s) :=
  packet (fun ht => guarded (fun hu => finishNow (resumeStep hu)) ht) hs

theorem execEqxDrainDone {ctx : BitVec 6} (hs : s.memWf) : OutWf (execEqxDrainDone ctx s) :=
  .ite (.next hs) (.next (tryEqx (update (update (update (update (update (update hs))))))))

theorem joinRecord {c r : Nat} {rec : ExRec} (hs : s.memWf) : (s.joinRecord c r rec).memWf :=
  .ite hs (tryEqx (.ite hs hs))

theorem takeRecord {c r : Nat} {rec : ExRec} (hs : s.memWf) : (s.takeRecord c r rec).memWf :=
  .ite hs (.ite (.ite hs (joinRecord hs)) (joinRecord hs))

theorem eqxExpired {c : Nat} (hs : s.memWf) : (s.eqxExpired c).memWf := .ite (decideEqx hs) hs

theorem execEqxRecordReceive {ctx : BitVec 6} {rank : BitVec 16} {rec : ExRec} (hs : s.memWf) :
    OutWf (execEqxRecordReceive ctx rank rec s) :=
  .next (untie eqxExpired (takeRecord hs))

theorem execEqxTimeout {ctx : BitVec 6} (hs : s.memWf) : OutWf (execEqxTimeout ctx s) :=
  .ite (.next (expire eqxExpired hs)) (.next hs)

theorem execEqxSyncPulseEnd (hs : s.memWf) : OutWf (execEqxSyncPulseEnd s) := by
  unfold Machine.execEqxSyncPulseEnd
  split
  · exact .next hs
  · exact .ite (.next hs) (.next hs)

theorem withdraw {c : Nat} (hs : s.memWf) : (s.withdraw c).memWf := by
  refine leaveTo (raise (update (update (discardHeld (update ?_)))))
  split
  · exact releaseImage (update (update (withdrawPages hs)))
  · exact update (update (withdrawPages hs))

theorem decideDigest {c : Nat} (hs : s.memWf) : (s.decideDigest c).memWf := by
  unfold State.decideDigest
  extract_lets sets bad policy major losers named t1 t2 t3 t4
  have h2 : t2.memWf := update (update (foldl raise hs))
  have h3 : t3.memWf := fenceRanks h2
  refine .ite (endCommit hs) (.ite (endCommit h2) (.ite (withdraw h2) (.ite (endCommit ?_) (endCommit h3))))
  unfold t4
  split
  · exact releaseImage h3
  · exact h3

theorem tryDigest {c : Nat} (hs : s.memWf) : (s.tryDigest c).memWf := .ite (decideDigest hs) hs

theorem execDigestComputeDone {ctx : BitVec 6} (hs : s.memWf) : OutWf (execDigestComputeDone ctx s) := by
  unfold Machine.execDigestComputeDone
  dsimp only
  split
  · exact .next hs
  · exact .ite (.next hs) (.next (tryDigest hs))

theorem execDigestRootReceive {ctx : BitVec 6} {rank : BitVec 16} {root : W64} (hs : s.memWf) :
    OutWf (execDigestRootReceive ctx rank root s) :=
  .ite (.next hs) (.next (tryDigest hs))

/-! ### Sys2Proof/Machine/Mgmt.lean -/

theorem answer {b : Binding} {f : State → State} (hf : ∀ {t : State}, t.memWf → (f t).memWf) (hs : s.memWf) :
    OutWf (s.answer b f) :=
  .ite (.next (hf hs)) (.next hs)

theorem execPldmBaseRequest {binding : Binding} (hs : s.memWf) : OutWf (execPldmBaseRequest binding s) :=
  answer (fun ht => ht) hs

theorem execMctpSetEndpointId {binding : Binding} {eid : BitVec 8} (hs : s.memWf) :
    OutWf (execMctpSetEndpointId binding eid s) :=
  answer (fun ht => ht) hs

theorem sensorReading {x : Sensor} (hs : s.memWf) : ((s.sensorReading x).2).memWf := by
  unfold State.sensorReading
  split
  · split <;> exact hs
  · dsimp only
    split
    · exact hs
    · exact hs
  · exact hs
  · exact hs

theorem execPldmMonitorRequest {binding : Binding} {req : MonReq} (hs : s.memWf) :
    OutWf (execPldmMonitorRequest binding req s) := by
  refine answer (fun ht => ?_) hs
  split
  · exact ht
  · exact ht
  · split
    · exact ht
    · exact update (sensorReading ht)

theorem fwFail {v : BitVec 16} (hs : s.memWf) : (s.fwFail v).memWf := raise hs

theorem execPldmFwUpdate {binding : Binding} {req : FwReq} (hs : s.memWf) :
    OutWf (execPldmFwUpdate binding req s) := by
  refine answer (fun ht => ?_) hs
  split
  · exact ht
  · exact .ite ht (fwFail ht)
  · exact .ite ht ht

theorem coreRuns (hs : s.memWf) : s.coreRuns.memWf := foldl deliver hs

theorem execMgmtFwBankStart (hs : s.memWf) : OutWf (execMgmtFwBankStart s) := by
  unfold Machine.execMgmtFwBankStart
  split
  · exact .next hs
  · exact .ite (.next hs) (.next (raise (coreRuns hs)))

theorem execMgmtFwStartTimeout (hs : s.memWf) : OutWf (execMgmtFwStartTimeout s) := by
  unfold Machine.execMgmtFwStartTimeout
  split
  · exact .next hs
  · exact .ite (.next hs) (.next (fwFail (coreRuns hs)))

theorem execPldmOemRequest {binding : Binding} {req : OemReq} (hs : s.memWf) :
    OutWf (execPldmOemRequest binding req s) :=
  answer (fun ht => ht) hs

theorem execSpdmRequest {binding : Binding} {req : SpdmReq} (hs : s.memWf) :
    OutWf (execSpdmRequest binding req s) := by
  refine answer (fun ht => update ?_) hs
  split
  · exact ht
  · exact ht

theorem execArpIcmpEchoRequest {frame : NetFrame} (hs : s.memWf) : OutWf (execArpIcmpEchoRequest frame s) := by
  refine answer (fun ht => ?_) hs
  dsimp only
  split
  · exact ht
  · exact ht
  · exact ht
  · exact ht

theorem execDhcpAddressAssign {address : W32} (hs : s.memWf) : OutWf (execDhcpAddressAssign address s) :=
  .ite (.next hs) (.next hs)

theorem execEvtMsixCoalesce (hs : s.memWf) : OutWf (execEvtMsixCoalesce s) := .ite (.next (evtMsix hs)) (.next hs)

/-! ### Sys2Proof/Machine/Quant.lean -/

theorem writeCodes {id c : Nat} {v : Conv} {bad : Nat → Bool} {codes : List (List QCode)} (hs : s.memWf) :
    (s.writeCodes id c v bad codes).memWf :=
  foldl storeMarked hs

theorem writeSide {id c : Nat} {v : Conv} {bad : Nat → Bool} {rows : List (List QElem)} {lst : List Nat}
    (hs : s.memWf) : (s.writeSide id c v bad rows lst).memWf :=
  .ite (foldl storeMarked hs) (.ite (foldl storeMarked hs) hs)

theorem writeColmax {id c : Nat} {v : Conv} {rows : List (List QElem)} (hs : s.memWf) :
    (s.writeColmax id c v rows).memWf :=
  .ite hs (foldl (fun ht => .ite ht (store ht)) hs)

theorem writeBlocks {id c : Nat} {v : Conv} {code : Nat → Nat → Nat} (hs : s.memWf) :
    (s.writeBlocks id c v code).memWf :=
  .ite hs (foldl store hs)

theorem fillGranules {k : Nat} {gs : List Nat} {n : Nat} (hs : s.memWf) : (s.fillGranules k gs n).memWf :=
  foldl (fun ht => freeRun_wf _ _ _ ht) hs

theorem takeQnt {u id : Nat} {v : Conv} {side : Nat} (hs : s.memWf) : (s.takeQnt u id v side).memWf :=
  fillGranules (fillGranules hs)

theorem convNotes {id c u : Nat} {v : Conv} {t : StatSum} {nonfinite sideNf : Bool} (hs : s.memWf) :
    (s.convNotes id c u v t nonfinite sideNf).memWf := by
  unfold State.convNotes
  extract_lets d n det s1 per s2 s3 s4 s5 s6
  have h1 : s1.memWf := update (deep (update hs))
  have h2 : s2.memWf := .ite (update h1) h1
  have h3 : s3.memWf := .ite (update h2) h2
  have h4 : s4.memWf := .ite (raise (update h3)) h3
  have h5 : s5.memWf := .ite (raise (update h4)) h4
  have h6 : s6.memWf := .ite (raise (update h5)) h5
  exact .ite (update h6) h6

theorem convert {id c u : Nat} {v : Conv} {lst : List Nat} {given : Option (List F32)} (hs : s.memWf) :
    (s.convert id c u v lst given).memWf := by
  unfold State.convert
  extract_lets n1 rows scales scaleBad bad codes block all _ t s1 s2 s3 s4 nonfinite sideNf
  have h2 : s2.memWf := .ite (storeMarked (writeCodes hs)) (writeCodes hs)
  have h3 : s3.memWf := .ite (foldl (fun ht => ht) h2) h2
  exact convNotes (writeBlocks (writeColmax (writeSide h3)))

theorem runList {id c u : Nat} {v : Conv} {lst : List Nat} (hs : s.memWf) : (s.runList id c u v lst).memWf := by
  unfold State.runList
  dsimp only
  split
  · exact qntFail hs
  · exact .ite (qntEnd (loadAll hs)) (qntEnd (convert (takeQnt (loadAll hs))))

theorem runConvert {id c u : Nat} {p : ConvertP} (hs : s.memWf) : (s.runConvert id c u p).memWf := by
  refine .ite (qntFail hs) (.ite hs (.ite (qntEnd (loadAll hs))
        (.ite (qntRefuse (loadAll hs)) (.ite (qntEnd (loadAll (loadAll hs))) ?_))))
  split
  · exact qntRefuse (loadAll (loadAll hs))
  · exact runList (loadAll (loadAll hs))

theorem runScaleLoad {id c u : Nat} {p : ScaleLoadP} (hs : s.memWf) : (s.runScaleLoad id c u p).memWf :=
  .ite (qntEnd (store hs)) (.ite (qntEnd (load hs)) (update (foldl (fun ht => ht) (load hs))))

theorem putOutlier {id c u : Nat} {p : OutlierP} {ws : List W32} (hs : s.memWf) : (s.putOutlier id c u p ws).memWf :=
  .ite (update (.ite (raise (update (store hs))) (store hs))) (.ite (raise (update (store hs))) (store hs))

theorem runOutlier {id c u : Nat} {p : OutlierP} (hs : s.memWf) : (s.runOutlier id c u p).memWf :=
  .ite (qntEnd (load hs)) (qntEnd (putOutlier (load hs)))

theorem runQnt {u : Nat} {f : Flight} (hs : s.memWf) : (s.runQnt u f).memWf := by
  unfold State.runQnt
  split
  · exact runConvert hs
  · exact runScaleLoad hs
  · exact runOutlier hs
  · exact hs

theorem pokeQnt {u : Nat} (hs : s.memWf) : (s.pokeQnt u).memWf := by
  unfold State.pokeQnt
  split
  · exact runQnt hs
  · exact hs

theorem toQnt {id c u : Nat} {cmd : Instr} {reads : List (Nat × Nat)} (hs : s.memWf) :
    (s.toQnt id c u cmd reads).memWf :=
  pokeQnt (giveWork hs)

theorem qntReject {u id : Nat} {e : Err} (hs : s.memWf) : (s.qntReject u id e).memWf := reject (qntFlags hs)

theorem execQntConvert {h : Hdr} {p : ConvertP} (hs : s.memWf) : OutWf (execQntConvert h p s) := by
  refine packet (fun ht => ?_) hs
  dsimp only
  split
  · exact qntReject ht
  · exact toQnt (.ite (checkStream ht) ht)

theorem execQntScaleLoad {h : Hdr} {p : ScaleLoadP} (hs : s.memWf) : OutWf (execQntScaleLoad h p s) := by
  refine packet (fun ht => ?_) hs
  dsimp only
  split
  · exact qntReject ht
  · exact toQnt ht

theorem execQntOutlierSelect {h : Hdr} {p : OutlierP} (hs : s.memWf) : OutWf (execQntOutlierSelect h p s) := by
  refine packet (fun ht => ?_) hs
  dsimp only
  split
  · exact qntReject ht
  · exact toQnt ht

theorem execOutlierGranuleAcquire {quantiser : BitVec 7} (hs : s.memWf) :
    OutWf (execOutlierGranuleAcquire quantiser s) := by
  refine .ite .fault (.ite (.next hs) (.next ?_))
  split
  · exact settle (pokeQnt hs)
  · exact pokeQnt hs

/-! ### Sys2Proof/Machine/Vigil.lean -/

theorem buildGraph {only : Option Nat} {id : W64} {follow : Option Nat} {trunc : Bool} (hs : s.memWf) :
    ((s.buildGraph only id follow trunc).2).memWf :=
  raise hs

theorem runSnapshot {id q c : Nat} {follow : Bool} {dst : W64} {maxBytes : W32} (hs : s.memWf) :
    (s.runSnapshot id q c follow dst maxBytes).memWf :=
  finishNow (update (store (update (buildGraph hs))))

theorem execVigilSnapshot {h : Hdr} {follow : Bool} {dst : W64} {maxBytes : W32} (hs : s.memWf) :
    OutWf (execVigilSnapshot h follow dst maxBytes s) :=
  packet (fun ht => guarded runSnapshot ht) hs

theorem autoGraph (hs : s.memWf) : s.autoGraph.memWf := .ite hs (buildGraph hs)

theorem suspectQueue {q : Nat} (hs : s.memWf) : (s.suspectQueue q).memWf := autoGraph (raise hs)

theorem execVigilExamine {queue : BitVec 15} (hs : s.memWf) : OutWf (execVigilExamine queue s) :=
  .ite .fault (.ite (.next hs) (.ite (.next hs) (.ite (.next hs) (.ite (.next hs) (.next (suspectQueue hs))))))

theorem execVigilFollowRequest {graphId : W64} {hops : Nat} (hs : s.memWf) :
    OutWf (execVigilFollowRequest graphId hops s) :=
  .ite (.next hs) (.next (buildGraph hs))

/-! ### Sys2Proof/Machine/Work.lean -/

theorem wakeUnit {d : Nat} {x : GovUnit} (hs : s.memWf) : (s.wakeUnit d x).memWf := by
  unfold State.wakeUnit
  split
  · exact hs
  · exact pokeElt hs
  · exact pokeQnt hs
  · exact foldl goOnColl hs

theorem wakeUnits {us : List (Nat × GovUnit)} (hs : s.memWf) : (s.wakeUnits us).memWf := foldl wakeUnit hs

theorem execCommandComplete {id : Nat} (hs : s.memWf) : OutWf (execCommandComplete id s) := by
  unfold Machine.execCommandComplete
  split
  · exact .next hs
  · exact .ite (.next hs) (.next (getD (.map (fun ht => settle (wakeUnits ht)) (leave hs)) hs))

theorem goOn {id : Nat} (hs : s.memWf) : (s.goOn id).memWf := by
  unfold State.goOn
  split
  · exact .ite hs (settle (wakeUnits (resume hs)))
  · exact slowDone hs

theorem execFlashReadComplete {channel : BitVec 5} {retries : Nat} {failed : Bool} (hs : s.memWf) :
    OutWf (execFlashReadComplete channel retries failed s) := by
  refine .ite .fault ?_
  split
  · exact .next hs
  · refine .next ?_
    split
    · exact goOn (endRead hs)
    · exact endRead hs

theorem execOutlierTerm {engine : BitVec 11} {quarter : BitVec 2} {row : BitVec 7} (hs : s.memWf) :
    OutWf (execOutlierTerm engine quarter row s) := by
  refine unitRow hs ?_
  split
  · exact .ite hs (pokeElt (pokeElt (touchUnit (update (outlierRow hs)))))
  · exact hs

theorem warmed (hs : s.memWf) : s.warmed.memWf := .ite (restart hs) hs

theorem execGovTick {die : BitVec 3} (hs : s.memWf) : OutWf (execGovTick die s) :=
  .ite .fault (.ite (.next (warmed hs)) (.next (warmed (settleAll (wakeUnits (govTick hs))))))

/-! ### Sys2Proof/Machine/Tick.lean -/

theorem tick (hs : s.memWf) : s.tick.memWf := .ite hs (foldl gridEdge (update (closeFlits hs)))

/-! ### Every command and every step -/

theorem exec {i : Instr} (hs : s.memWf) : OutWf (Machine.exec i s) :=
  match i with
  | .nop .. => execNop hs
  | .ctrSet .. => execCtrSet hs
  | .capRead .. => execCapRead hs
  | .ctrRead .. => execCtrRead hs
  | .ctrWaitMem .. => execCtrWaitMem hs
  | .ctrWaitMemRetest .. => execCtrWaitMemRetest hs
  | .unassignedOpcode .. => execUnassignedOpcode hs
  | .memCopy .. => execMemCopy hs
  | .tbCopy .. => execTbCopy hs
  | .tbBuild .. => execTbBuild hs
  | .arrMatmul .. => execArrMatmul hs
  | .arrDrain .. => execArrDrain hs
  | .arrMode .. => execArrMode hs
  | .arrMapRead .. => execArrMapRead hs
  | .qntConvert .. => execQntConvert hs
  | .qntScaleLoad .. => execQntScaleLoad hs
  | .qntOutlierSelect .. => execQntOutlierSelect hs
  | .almSlotWrite .. => execAlmSlotWrite hs
  | .eltKernel .. => execEltKernel hs
  | .eltUpdate .. => execEltUpdate hs
  | .rngStreamReg .. => execRngStreamReg hs
  | .fabGet .. => execFabGet hs
  | .fabPut .. => execFabPut hs
  | .fabAtomic .. => execFabAtomic hs
  | .fabFence .. => execFabFence hs
  | .fabTbCopy .. => execFabTbCopy hs
  | .collReduceScatter .. => execCollReduceScatter hs
  | .collAllGather .. => execCollAllGather hs
  | .fenceClear .. => execFenceClear hs
  | .partRejoin .. => execPartRejoin hs
  | .tierMap .. => execTierMap hs
  | .tierUnmap .. => execTierUnmap hs
  | .tierSeal .. => execTierSeal hs
  | .tierUnseal .. => execTierUnseal hs
  | .tierMigrate .. => execTierMigrate hs
  | .tierQuery .. => execTierQuery hs
  | .eqxBarrier .. => execEqxBarrier hs
  | .eqxProtect .. => execEqxProtect hs
  | .eqxResume .. => execEqxResume hs
  | .imageList .. => execImageList hs
  | .imageRelease .. => execImageRelease hs
  | .harvest .. => execHarvest hs
  | .cfgBegin .. => execCfgBegin hs
  | .cfgWrite .. => execCfgWrite hs
  | .cfgAbort .. => execCfgAbort hs
  | .cfgCommit .. => execCfgCommit hs
  | .calLoad .. => execCalLoad hs
  | .queueCreate .. => execQueueCreate hs
  | .queueDestroy .. => execQueueDestroy hs
  | .ctxAssign .. => execCtxAssign hs
  | .checkTile .. => execCheckTile hs
  | .vigilSnapshot .. => execVigilSnapshot hs
  | .cntSelect .. => execCntSelect hs
  | .cfgDbProd .. => execCfgDbProd hs
  | .cfgDbCons .. => execCfgDbCons hs
  | .commandComplete .. => execCommandComplete hs
  | .arrAccept .. => execArrAccept hs
  | .spillRegionAcquire .. => execSpillRegionAcquire hs
  | .rowIssue .. => execRowIssue hs
  | .cellUpdate .. => execCellUpdate hs
  | .runPromotion .. => execRunPromotion hs
  | .spillAdd .. => execSpillAdd hs
  | .drainStart .. => execDrainStart hs
  | .epilogueRowOutput .. => execEpilogueRowOutput hs
  | .slotFree .. => execSlotFree hs
  | .chainRowReceive .. => execChainRowReceive hs
  | .preloadRegionAcquire .. => execPreloadRegionAcquire hs
  | .preloadRowComplete .. => execPreloadRowComplete hs
  | .outlierTerm .. => execOutlierTerm hs
  | .deferredSramWrite .. => execDeferredSramWrite hs
  | .outlierGranuleAcquire .. => execOutlierGranuleAcquire hs
  | .eqxDrainDone .. => execEqxDrainDone hs
  | .eqxRecordReceive .. => execEqxRecordReceive hs
  | .eqxSyncPulseEnd => execEqxSyncPulseEnd hs
  | .eqxTimeout .. => execEqxTimeout hs
  | .digestComputeDone .. => execDigestComputeDone hs
  | .digestRootReceive .. => execDigestRootReceive hs
  | .stepCopyDone .. => execStepCopyDone hs
  | .ckptPageDrained .. => execCkptPageDrained hs
  | .ckptSeal .. => execCkptSeal hs
  | .harvestComplete .. => execHarvestComplete hs
  | .cfgApplyIdle .. => execCfgApplyIdle hs
  | .txnVote .. => execTxnVote hs
  | .txnDecision .. => execTxnDecision hs
  | .voteTimeout .. => execVoteTimeout hs
  | .decisionWaitTimeout .. => execDecisionWaitTimeout hs
  | .ngfPortEnable .. => execNgfPortEnable hs
  | .ngfPortRetrain .. => execNgfPortRetrain hs
  | .ngfPortEncrypt .. => execNgfPortEncrypt hs
  | .linkTrainDone .. => execLinkTrainDone hs
  | .linkTrainTimeout .. => execLinkTrainTimeout hs
  | .alignDone .. => execAlignDone hs
  | .alignTimeout .. => execAlignTimeout hs
  | .capabilityFlitSend .. => execCapabilityFlitSend hs
  | .capabilityFlitReceive .. => execCapabilityFlitReceive hs
  | .negotiateTimeout .. => execNegotiateTimeout hs
  | .controlFlitReceive .. => execControlFlitReceive hs
  | .fecLockLoss .. => execFecLockLoss hs
  | .flitDataReceive .. => execFlitDataReceive hs
  | .flitAckReceive .. => execFlitAckReceive hs
  | .flitNakReceive .. => execFlitNakReceive hs
  | .fabReadRequest .. => execFabReadRequest hs
  | .fabWriteRequest .. => execFabWriteRequest hs
  | .fabAtomicRequest .. => execFabAtomicRequest hs
  | .fabResponse .. => execFabResponse hs
  | .e2eAck .. => execE2eAck hs
  | .e2eRetxTimeout .. => execE2eRetxTimeout hs
  | .eptFill .. => execEptFill hs
  | .txnSlotFree => execTxnSlotFree hs
  | .collExponent .. => execCollExponent hs
  | .collScale .. => execCollScale hs
  | .collContribution .. => execCollContribution hs
  | .collGather .. => execCollGather hs
  | .collBusyResend .. => execCollBusyResend hs
  | .reduceDeadline .. => execReduceDeadline hs
  | .hbmPatrol .. => execHbmPatrol hs
  | .pageMoveDone .. => execPageMoveDone hs
  | .flashReadComplete .. => execFlashReadComplete hs
  | .readDisturbScrub .. => execReadDisturbScrub hs
  | .badBlockDetect .. => execBadBlockDetect hs
  | .flashChannelFailure .. => execFlashChannelFailure hs
  | .ctxStructUe .. => execCtxStructUe hs
  | .partStructUe => execPartStructUe hs
  | .dieLinkLoss .. => execDieLinkLoss hs
  | .cpHeartbeatTimeout .. => execCpHeartbeatTimeout hs
  | .injectedCheckTile .. => execInjectedCheckTile hs
  | .refclkLoss => execRefclkLoss hs
  | .pllLock => execPllLock hs
  | .pllLockTimeout => execPllLockTimeout hs
  | .droopStart .. => execDroopStart hs
  | .droopEnd .. => execDroopEnd hs
  | .clockGate .. => execClockGate hs
  | .ppsEdge => execPpsEdge hs
  | .govTick .. => execGovTick hs
  | .unitReleaseRequest .. => execUnitReleaseRequest hs
  | .overcurrent .. => execOvercurrent hs
  | .emergencyRegrant .. => execEmergencyRegrant hs
  | .brakeNAssert => execBrakeNAssert hs
  | .brakeNRelease => execBrakeNRelease hs
  | .ageingMeasure .. => execAgeingMeasure hs
  | .ageingMeasureDone .. => execAgeingMeasureDone hs
  | .thermalSample .. => execThermalSample hs
  | .securityAlarm .. => execSecurityAlarm hs
  | .alarmRearm .. => execAlarmRearm hs
  | .alarmNRelease => execAlarmNRelease hs
  | .vwmKekLoad => execVwmKekLoad hs
  | .kekLoadDone => execKekLoadDone hs
  | .vwmKekErase => execVwmKekErase hs
  | .vwmAlarmClassWrite .. => execVwmAlarmClassWrite hs
  | .vwmCheckCtrlWrite .. => execVwmCheckCtrlWrite hs
  | .porstNDeassert => execPorstNDeassert hs
  | .porstNAssert => execPorstNAssert hs
  | .warmReset .. => execWarmReset hs
  | .perstNRelease => execPerstNRelease hs
  | .romComplete .. => execRomComplete hs
  | .imageBufferWrite .. => execImageBufferWrite hs
  | .vwmBootLenWrite .. => execVwmBootLenWrite hs
  | .vwmBootGo => execVwmBootGo hs
  | .vwmBootWarmReset => execVwmBootWarmReset hs
  | .verifyDone => execVerifyDone hs
  | .bringupDone .. => execBringupDone hs
  | .bringupTimeout .. => execBringupTimeout hs
  | .aonResetRelease => execAonResetRelease hs
  | .aonRailFall => execAonRailFall hs
  | .pldmBaseRequest .. => execPldmBaseRequest hs
  | .pldmMonitorRequest .. => execPldmMonitorRequest hs
  | .pldmFwUpdate .. => execPldmFwUpdate hs
  | .mgmtFwStartTimeout => execMgmtFwStartTimeout hs
  | .pldmOemRequest .. => execPldmOemRequest hs
  | .spdmRequest .. => execSpdmRequest hs
  | .evtMsixCoalesce => execEvtMsixCoalesce hs
  | .vigilExamine .. => execVigilExamine hs
  | .vigilFollowRequest .. => execVigilFollowRequest hs
  | .engCntClear .. => execEngCntClear hs
  | .engRunaheadWrite .. => execEngRunaheadWrite hs
  | .accCtrlClear .. => execAccCtrlClear hs
  | .splStageQuotaWrite .. => execSplStageQuotaWrite hs
  | .splCtrlClearWait .. => execSplCtrlClearWait hs
  | .splCtrlClearExp .. => execSplCtrlClearExp hs
  | .qntCtrlClear .. => execQntCtrlClear hs
  | .almBaseWrite .. => execAlmBaseWrite hs
  | .cfgRngSeedWrite .. => execCfgRngSeedWrite hs
  | .cfgRngStepWrite .. => execCfgRngStepWrite hs
  | .cfgStreamBaseWrite .. => execCfgStreamBaseWrite hs
  | .tierQuotaHbmWrite .. => execTierQuotaHbmWrite hs
  | .tierQuotaFlashWrite .. => execTierQuotaFlashWrite hs
  | .eqxCtrlWrite .. => execEqxCtrlWrite hs
  | .eqxGroupBaseWrite .. => execEqxGroupBaseWrite hs
  | .eqxGroupWrite .. => execEqxGroupWrite hs
  | .eqxTimeoutWrite .. => execEqxTimeoutWrite hs
  | .eqxCreditsWrite .. => execEqxCreditsWrite hs
  | .eqxSyncCfgWrite .. => execEqxSyncCfgWrite hs
  | .clkPpsCtrlWrite .. => execClkPpsCtrlWrite hs
  | .ngfPartIdWrite .. => execNgfPartIdWrite hs
  | .ngfFabDigestWrite .. => execNgfFabDigestWrite hs
  | .ngfCtxCtrlWrite .. => execNgfCtxCtrlWrite hs
  | .ngfCtrlClear .. => execNgfCtrlClear hs
  | .cfgCtrlClear .. => execCfgCtrlClear hs
  | .govCtrlWrite .. => execGovCtrlWrite hs
  | .vwmEvtCtrlWrite .. => execVwmEvtCtrlWrite hs
  | .vwmEvtConsWrite .. => execVwmEvtConsWrite hs
  | .vwmVigilCtrlWrite .. => execVwmVigilCtrlWrite hs
  | .vwmLcCtrlClear .. => execVwmLcCtrlClear hs
  | .lanCtrlWrite .. => execLanCtrlWrite hs
  | .lanConsWrite .. => execLanConsWrite hs
  | .w1cWrite .. => execW1cWrite hs
  | .registerWrite .. => execRegisterWrite hs
  | .signedMaintenanceRequest .. => execSignedMaintenanceRequest hs
  | .mctpSetEndpointId .. => execMctpSetEndpointId hs
  | .arpIcmpEchoRequest .. => execArpIcmpEchoRequest hs
  | .dhcpAddressAssign .. => execDhcpAddressAssign hs
  | .mgmtFwBankStart => execMgmtFwBankStart hs

theorem step (hs : s.memWf) : OutWf (Machine.step s) := by
  unfold Machine.step
  split
  · exact .next (tick hs)
  · exact exec (update hs)

end State.memWf
end

/-- Settles O4, from the lemma of every command and that of the timebase. -/
theorem memoryStaysCanonical : Obligations.MemoryStaysCanonical := by
  unfold Obligations.MemoryStaysCanonical
  exact fun s t hs h => State.memWf.step hs t h

end Sys2Proof.Machine

namespace Sys2Proof.Machine

/-! ### Element engines: the window's front (R122, R179, R223, R356) -/

/-- Only the oldest command of a window can be at its front, and it is once nothing is left that it waits for. -/
theorem State.eltFront_eq_some_iff {s : State} {el id : Nat} {f g : Flight} (hid : (s.eltList el).head? = some id)
    (hf : s.flightOf id = some f) :
    s.eltFront el = some g ↔ f = g ∧ g.finished = false ∧ s.reading g.id = false
      ∧ s.termsDue (clusterOfElt el) = false ∧ s.grantedTo (el / 32) (.elt (el % 32)) = true := by
  rw [State.eltFront, hid, Option.bind_some, hf, Option.filter_eq_some_iff]
  simp only [Option.some.injEq, Bool.and_eq_true, Bool.not_eq_true', and_assoc]

/-- An engine with a command at its front runs it. -/
theorem State.pokeElt_of_front {s : State} {el : Nat} {f : Flight} (h : s.eltFront el = some f) :
    s.pokeElt el = s.runElt el f := by
  simp only [State.pokeElt, h]

/-- Settles O18: a dispatched packet whose checks pass enters the window, and the window's front is its oldest command. -/
theorem elementCommandsRun : Obligations.ElementCommandsRun := by
  unfold Obligations.ElementCommandsRun
  refine ⟨fun h s => ⟨fun p r ok => ?update, fun p acc r ok => ?kernel, fun p r ok => ?stream⟩,
    fun s el id f hid hf => ⟨?front, fun g hg => ?only, State.pokeElt_of_front⟩,
    fun s el f h => ⟨fun p hcmd => ?runsUpdate, fun p b acc hcmd => ?runsKernel⟩⟩
  case update => exact State.packet_guarded r (check := fun t c => firstErr (t.chkUpdate c p)) ok _
  case kernel => exact State.packet_guarded r (check := fun t c => t.kernelErr c p true) ok _
  case stream => exact State.packet_guarded r (check := fun t c => t.streamRegErr c p) ok _
  case front => exact (State.eltFront_eq_some_iff hid hf).trans (and_iff_right rfl)
  case only => exact ((State.eltFront_eq_some_iff hid hf).1 hg).1.symm
  case runsUpdate => simp only [State.runElt, hcmd]
  case runsKernel => simp only [State.runElt, hcmd]

end Sys2Proof.Machine

namespace Sys2Proof.Machine

/-! ### Direct writes that are ignored (R142, R160, R190, R218, R232, R241, R352, R380) -/

section
variable {s t : State} {r : Reg} {i : Nat} {v : W64} (hp : s.boot.phase = .ready) (hb : s.boot.bases ≠ [])
  (hi : inRange i (s.winCount r.info.win) = true)
include hp hb hi

/-- The row of a register that the part has, once the part is ready: the register's own rule decides. -/
theorem State.directRow_ready (hw : s.directRw r i v = if !s.regLive r then s else t) : s.directRow r i v = .next t := by
  rw [State.directRow, hi, hw, State.regLive_of_ready hp hb]
  rfl

/-- A rule that takes a write only while the context is idle: with commands in flight its other branch is the row. -/
theorem State.directRow_busy (hc : (s.ctxFlights i).isEmpty = false) {u : State}
    (hw : s.directRw r i v = if !s.regLive r then s else if (s.ctxFlights i).isEmpty then u else t) :
    s.directRow r i v = .next t :=
  State.directRow_ready hp hb hi (hw.trans (by rw [hc]; rfl))

end

/-- A quota that R218 refuses sets the context's flag, and nothing else. -/
theorem State.setQuota_refused {s : State} {r : Reg} {c : Nat} {v : W64} (h : s.quotaRefused r c v = true) :
    s.setQuota r c v = s.setReg .tierCtxErr c (s.reg .tierCtxErr c ||| BitVec.ofNat 64 1) := if_pos h

/-- Any other quota is stored. -/
theorem State.setQuota_stored {s : State} {r : Reg} {c : Nat} {v : W64} (h : s.quotaRefused r c v = false) :
    s.setQuota r c v = s.setReg r c v := if_neg (by simp [h])

/-! A repartition of staging (R142, R146). -/

/-- A partition that R142 refuses sets the cluster's flag, and nothing else. -/
theorem State.setStage_refused {s : State} {k : Nat} {v : W64} (h : s.stageRefused k v = true) :
    s.setStage k v = s.setReg .splErr k (s.reg .splErr k ||| BitVec.ofNat 64 2) := if_pos h

/-- The registers in which a quantiser's fault shows. -/
def Reg.ofQntFaults : List Reg := [.qntErr, .splErr]

section
variable {r : Reg} (s : State) (i : Nat)

theorem State.qntFlags_reg (hr : r ∉ Reg.ofQntFaults) (u st : Nat) : (s.qntFlags u st).reg r i = s.reg r i := by
  have hqnt : (if inRange u s.nQnt then s.orReg .qntErr u 1 else s).reg r i = s.reg r i :=
    State.ite_kept (·.reg r i) (s.setReg_reg_notMem hr (by decide) i u _) rfl
  exact State.ite_kept (·.reg r i) ((State.setReg_reg_notMem _ hr (by decide) i u _).trans hqnt) hqnt

/-- The conversions that lose the outlier partition change only the registers of a quantiser's faults. -/
theorem State.dropConverts_reg (hr : r ∉ Reg.ofQntFaults) (k : Nat) : (s.dropConverts k).reg r i = s.reg r i := by
  unfold State.dropConverts
  refine State.foldl_kept (·.reg r i) (fun t id => ?_) _ s
  exact State.ite_kept (·.reg r i) (t.qntFlags_reg i hr k _) rfl

end

/-- Staging with other contents, where granules enter or leave general staging: `State.setStage` up to the register. -/
def State.restaged (s : State) (k : Nat) (v : W64) : State :=
  ((List.range 128).filter fun g => (granPart (s.reg .splStageQuota k) g == 3) != (granPart v g == 3)).foldl
    (fun (s : State) g => s.freeRun (physSram (granuleOff k g)) granuleBytes) s

theorem State.restaged_flight (s : State) (k : Nat) (v : W64) : (s.restaged k v).flight = s.flight :=
  State.foldl_kept (·.flight) (f := fun t g => t.freeRun (physSram (granuleOff k g)) granuleBytes) (fun _ _ => rfl) _ s

theorem State.restaged_clus (s : State) (k : Nat) (v : W64) : (s.restaged k v).clus = s.clus :=
  State.foldl_kept (·.clus) (f := fun t g => t.freeRun (physSram (granuleOff k g)) granuleBytes) (fun _ _ => rfl) _ s

section
variable {s : State} {k : Nat} {v : W64}

/-- Any other partition is stored over the new contents; conversions lose the outlier partition when none is left. -/
theorem State.setStage_stored (h : s.stageRefused k v = false) :
    s.setStage k v = if bits v 23 16 == 0 then ((s.restaged k v).setReg .splStageQuota k v).dropConverts k
      else (s.restaged k v).setReg .splStageQuota k v := if_neg (by simp [h])

theorem State.setStage_reg (h : s.stageRefused k v = false) : (s.setStage k v).reg .splStageQuota k = v := by
  have hset := (s.restaged k v).setReg_reg .splStageQuota k v
  rw [State.setStage_stored h]
  exact State.ite_kept (·.reg .splStageQuota k) ((State.dropConverts_reg _ k (by decide) k).trans hset) hset

/-- While an outlier partition is left, no command and no cluster's bookkeeping changes. -/
theorem State.setStage_frame (h : s.stageRefused k v = false) (hout : bits v 23 16 ≠ 0) :
    (s.setStage k v).flight = s.flight ∧ (s.setStage k v).clus = s.clus := by
  rw [State.setStage_stored h, if_neg (by simpa using hout)]
  exact ⟨s.restaged_flight k v, s.restaged_clus k v⟩

end

/-- Settles O54: each ignored write runs the branch of its register's rule that sets the flag. -/
theorem ignoredWritesOnlyFlag : Obligations.IgnoredWritesOnlyFlag := by
  unfold Obligations.IgnoredWritesOnlyFlag
  intro s hp hb flags
  have one : inRange 0 1 = true := rfl
  refine ⟨fun c hc v w => ?inFlight, fun v => ⟨?sync, ?pps, ?classes, ?check⟩,
    fun c v => ?quotas, fun k v hk => ?staging⟩
  case inFlight =>
    have hi := inRange_ctx c
    refine ⟨?ctrl, ?base, ?group, ?timeout, ?credits, ?seed, ?step, ?streams, ?alm⟩
    case ctrl => exact State.directRow_busy hp hb (r := .eqxCtrl) hi hc rfl
    case base => exact State.directRow_busy hp hb (r := .eqxGroupBase) hi hc rfl
    case group => exact State.directRow_busy hp hb (r := .eqxGroup) hi hc rfl
    case timeout => exact State.directRow_busy hp hb (r := .eqxTimeout) hi hc rfl
    case credits => exact State.directRow_busy hp hb (r := .eqxCredits) hi hc rfl
    case seed => exact State.directRow_busy hp hb (r := .cfgRngSeed) hi hc rfl
    case step => exact State.directRow_busy hp hb (r := .cfgRngStep) hi hc rfl
    case streams => exact State.directRow_busy hp hb (r := .cfgStreamBase) hi hc rfl
    case alm => exact State.directRow_busy hp hb (r := .almBase) hi hc rfl
  case sync => exact State.directRow_ready hp hb (r := .eqxSyncCfg) one rfl
  case pps => exact State.directRow_ready hp hb (r := .clkPpsCtrl) one rfl
  case classes => exact State.directRow_ready hp hb (r := .vwmAlarmClass) one rfl
  case check => exact State.directRow_ready hp hb (r := .vwmCheckCtrl) one rfl
  case quotas =>
    have hbm := State.directRow_puts hp hb (r := .tierQuotaHbm) (inRange_ctx c) (by decide) (.inl (by decide))
      (v.setWidth 64)
    have flash := State.directRow_puts hp hb (r := .tierQuotaFlash) (inRange_ctx c) (by decide) (.inl (by decide))
      (v.setWidth 64)
    exact ⟨fun h => hbm.trans (congrArg _ (State.setQuota_refused h)),
      fun h => hbm.trans (congrArg _ (State.setQuota_stored h)),
      fun h => flash.trans (congrArg _ (State.setQuota_refused h)),
      fun h => flash.trans (congrArg _ (State.setQuota_stored h))⟩
  case staging =>
    have stage := State.directRow_puts hp hb (r := .splStageQuota) hk (by decide) (.inl (by decide)) (v.setWidth 64)
    exact ⟨fun h => stage.trans (congrArg _ (State.setStage_refused h)),
      fun h => ⟨_, stage, State.setStage_reg h, State.setStage_frame h⟩⟩

end Sys2Proof.Machine

namespace Sys2Proof.Machine
open Sys2Proof

/-! ### Statistics blocks in bytes (R161) -/

/-- A field that starts behind the first bytes is a field of the others. -/
theorem fieldLe_append {pre : List Byte} {lo : Nat} (h : pre.length ≤ lo) (bs : List Byte) (n : Nat) :
    fieldLe (pre ++ bs) lo n = fieldLe bs (lo - pre.length) n := by
  rw [fieldLe, fieldLe, List.drop_append, List.drop_eq_nil_of_le h, List.nil_append]

/-- The bytes of a number spell the number, whatever follows them. -/
theorem fieldLe_leBytes {n v : Nat} (hv : v < 256 ^ n) (rest : List Byte) : fieldLe (leBytes n v ++ rest) 0 n = v := by
  rw [fieldLe, List.drop_zero, List.take_left' (leBytes_length n v), ofLeBytes_leBytes, Nat.mod_eq_of_lt hv]

/-- A field that starts behind a number is a field of what follows it. -/
theorem fieldLe_leBytes_skip {n lo : Nat} (h : n ≤ lo) (v : Nat) (rest : List Byte) (k : Nat) :
    fieldLe (leBytes n v ++ rest) lo k = fieldLe rest (lo - n) k := by
  rw [fieldLe_append (by rwa [leBytes_length]), leBytes_length]

/-- In a table of numbers of `n` bytes each, entry `i` lies at byte n·i. -/
theorem fieldLe_flatMap {α : Type} {n : Nat} {f : α → Nat} {l : List α} (hf : ∀ a ∈ l, f a < 256 ^ n) {i : Nat}
    (hi : i < l.length) : fieldLe (l.flatMap fun a => leBytes n (f a)) (n * i) n = f l[i] := by
  induction l generalizing i with
  | nil => exact absurd hi (Nat.not_lt_zero i)
  | cons a l ih =>
    rw [List.flatMap_cons]
    cases i with
    | zero => exact fieldLe_leBytes (hf a (by simp)) _
    | succ i =>
      rw [fieldLe_leBytes_skip (Nat.mul_succ n i ▸ Nat.le_add_left ..), Nat.mul_succ, Nat.add_sub_cancel]
      exact ih (fun b hb => hf b (List.mem_cons_of_mem a hb)) (Nat.lt_of_succ_lt_succ hi)

theorem nth_eq_getElem {α : Type} (d : α) {l : List α} {i : Nat} (h : i < l.length) : nth d l i = l[i] := by
  induction l generalizing i with
  | nil => exact absurd h (Nat.not_lt_zero i)
  | cons a l ih =>
    cases i with
    | zero => rfl
    | succ i => exact ih (Nat.lt_of_succ_lt_succ h)

/-- The bins of a histogram, read from their table, are the histogram. -/
theorem map_fieldLe_bins {k n : Nat} {hist : List Nat} (hlen : hist.length = k) (hbin : ∀ v ∈ hist, v < 256 ^ n) :
    (List.range k).map (fun i => fieldLe ((List.range k).flatMap fun j => leBytes n (nth 0 hist j)) (n * i) n) = hist := by
  subst hlen
  have hnth : ∀ j ∈ List.range hist.length, nth 0 hist j < 256 ^ n := fun j hj => by
    rw [nth_eq_getElem 0 (List.mem_range.1 hj)]
    exact hbin _ (List.getElem_mem _)
  refine List.ext_getElem (by simp) fun i hi _ => ?_
  have hi : i < (List.range hist.length).length := by simpa using hi
  rw [List.getElem_map, List.getElem_range, fieldLe_flatMap hnth hi, List.getElem_range, nth_eq_getElem]

/-- Words 2 to 31 of a block: its sums and the words that hold none. -/
def StatSum.headBytes (x : StatSum) : List Byte :=
  leBytes 8 x.elements ++ leBytes 8 x.sat ++ leBytes 8 x.zeroed ++ leBytes 8 x.nonfinite
  ++ leBytes 16 x.errSum ++ leBytes 16 x.sigSum ++ leBytes 4 x.blocksZero ++ leBytes 4 x.blocksSat
  ++ leBytes 4 x.blocksNonfinite ++ leBytes 4 x.outlierCand ++ List.replicate 40 0

theorem StatSum.headBytes_length (x : StatSum) : (StatSum.headBytes x).length = 120 := by simp [StatSum.headBytes]

/-- Words 32 to 95 of a block: the bins of its histogram. -/
def StatSum.binBytes (x : StatSum) : List Byte := (List.range 64).flatMap fun i => leBytes 4 (nth 0 x.hist i)

theorem StatSum.bytes_eq (x : StatSum) : StatSum.bytes x = StatSum.headBytes x ++ StatSum.binBytes x := rfl

section
variable {x : StatSum} {e : List Byte} (he : e.length = 8)
include he

/-- Behind the 8 bytes of configuration, byte `lo` of a slot is byte `lo` - 8 of the sums. -/
theorem StatSum.fieldLe_slot {lo : Nat} (h : 8 ≤ lo) (n : Nat) :
    fieldLe (e ++ StatSum.bytes x) lo n = fieldLe (StatSum.bytes x) (lo - 8) n := by
  rw [fieldLe_append (he ▸ h), he]

/-- The bins of a block, read where they lie, are its histogram. -/
theorem StatSum.hist_ofBytes (hlen : x.hist.length = 64) (hbin : ∀ v ∈ x.hist, v < 2 ^ 32) :
    (StatSum.ofBytes (e ++ StatSum.bytes x)).hist = x.hist := by
  have bin : ∀ i, fieldLe (e ++ StatSum.bytes x) (128 + 4 * i) 4 = fieldLe (StatSum.binBytes x) (4 * i) 4 := fun i => by
    have head := StatSum.headBytes_length x
    have place : 128 + 4 * i - 8 - 120 = 4 * i := by omega
    rw [StatSum.fieldLe_slot he (by omega), StatSum.bytes_eq, fieldLe_append (by omega), head, place]
  simp only [StatSum.ofBytes, bin]
  exact map_fieldLe_bins (n := 4) hlen hbin

end

/-- Settles O60: the ten sums lie one after another where they are read, and the bins behind them. -/
theorem statisticsReadBack : Obligations.StatisticsReadBack := by
  unfold Obligations.StatisticsReadBack
  intro x elements sat zeroed nonfinite errSum sigSum blocksZero blocksSat blocksNonfinite outlierCand hlen hbin e he
  have hist := StatSum.hist_ofBytes he hlen hbin
  simp only [StatSum.ofBytes] at hist ⊢
  rw [hist]
  simp (disch := omega) only [StatSum.fieldLe_slot he]
  simp (disch := omega) only [StatSum.bytes, List.append_assoc, fieldLe_leBytes_skip, fieldLe_leBytes, Nat.reduceSub]

end Sys2Proof.Machine

namespace Sys2Proof.Machine
open Sys2Proof

/-! ### A packet at its dispatch (R18, R309) -/

/-- What a dispatched packet's row does at its dispatch decides what it leaves. -/
theorem State.packet_answers {s : State} {h : Hdr} {o : Opc} (r : s.Ready h o) {run run' : Nat → Nat → State → State}
    (e : run s.nextId (s.ctxOf h) (s.dispatched h o.code) = run' s.nextId (s.ctxOf h) (s.dispatched h o.code)) :
    s.packet s.txnScopes h o run = .next (s.after h o.code run') := by
  rw [State.packet_ready r, State.after, State.after, e]

/-! ### Quantisers: the window's front (R144, R223, R356) -/

/-- Only the oldest command of a window can be at its front, and it is once nothing is left that it waits for. -/
theorem State.qntFront_eq_some_iff {s : State} {u id : Nat} {f g : Flight} (hid : (s.qntList u).head? = some id)
    (hf : s.flightOf id = some f) :
    s.qntFront u = some g ↔ f = g ∧ g.finished = false ∧ s.reading g.id = false
      ∧ s.grantedTo (u / 16) (.qnt (u % 16)) = true := by
  rw [State.qntFront, hid, Option.bind_some, hf, Option.filter_eq_some_iff]
  simp only [Option.some.injEq, Bool.and_eq_true, Bool.not_eq_true', and_assoc]

/-- A quantiser with a command at its front runs it, and the context of that command is settled. -/
theorem exec_outlierGranuleAcquire {s : State} {u : BitVec 7} (hu : inRange u.toNat s.nQnt = true)
    (hfault : s.boot.partFault = false) (hrun : s.boot.running = true) :
    (∀ f, s.qntFront u.toNat = some f →
      exec (.outlierGranuleAcquire u) s = .next ((s.runQnt u.toNat f).settle f.ctx))
    ∧ (s.qntFront u.toNat = none → exec (.outlierGranuleAcquire u) s = .next s) := by
  have row : exec (.outlierGranuleAcquire u) s = execOutlierGranuleAcquire u s := rfl
  constructor
  · intro f hf
    simp [row, execOutlierGranuleAcquire, hu, hfault, hrun, State.pokeQnt, hf]
  · intro hn
    simp [row, execOutlierGranuleAcquire, hu, hfault, hrun, State.pokeQnt, hn]

/-- Settles O17: a dispatched packet whose checks pass enters the window, and the window's front is its oldest command. -/
theorem quantiserCommandsRun : Obligations.QuantiserCommandsRun := by
  unfold Obligations.QuantiserCommandsRun
  refine ⟨fun h s => ⟨fun p r ok => ?convert, fun p r ok => ?scaleLoad, fun p r ok => ?outlier,
      fun u hu hfault hrun => exec_outlierGranuleAcquire hu hfault hrun⟩,
    fun s u id f hid hf => ⟨?front, fun g hg => ?only⟩⟩
  case convert => exact State.packet_answers r (by simp only [ok])
  case scaleLoad => exact State.packet_answers r (by simp only [ok])
  case outlier => exact State.packet_answers r (by simp only [ok])
  case front => exact (State.qntFront_eq_some_iff hid hf).trans (and_iff_right rfl)
  case only => exact ((State.qntFront_eq_some_iff hid hf).1 hg).1.symm

end Sys2Proof.Machine

namespace Sys2Proof.Machine
open Sys2Proof

/-! ### Remote accesses (R160, R189, R272, R277, R282) -/

/-- A page that a range touches holds a byte of it. -/
theorem exists_byte_of_mem_pagesTouched {a n p : Nat} (h : p ∈ pagesTouched a n) :
    ∃ x, a ≤ x ∧ x < a + n ∧ x / 2097152 = p := by
  unfold pagesTouched at h
  split at h
  · cases h
  · rename_i hn
    have hn : n ≠ 0 := by simpa using hn
    obtain ⟨i, hi, rfl⟩ := List.mem_map.1 h
    have hi := List.mem_range.1 hi
    exact ⟨max a ((i + a / 2097152) * 2097152), by omega, by omega, by omega⟩

/-- An aligned word of 8 bytes lies in one page. -/
theorem pagesTouched_word {a : Nat} (h : a % 8 = 0) : pagesTouched a 8 = [a / 2097152] := by
  have one : (a + 8 - 1) / 2097152 - a / 2097152 + 1 = 1 := by omega
  rw [pagesTouched, one]
  simp

/-- Some piece of a store lies in the line of each of its bytes. -/
theorem exists_linePiece {fuel a x : Nat} {bs : List Byte} (hf : bs.length < fuel) (ha : a ≤ x) (hx : x < a + bs.length) :
    ∃ p ∈ linePieces fuel a bs, p.1 / 64 = x / 64 := by
  induction fuel generalizing a bs with
  | zero => exact absurd hf (Nat.not_lt_zero _)
  | succ fuel ih =>
    have hne : bs.isEmpty = false := by
      cases bs with
      | nil => simp at hx; omega
      | cons b t => rfl
    simp only [linePieces, hne, Bool.false_eq_true, if_false]
    by_cases hlt : x < a + (64 - a % 64)
    · exact ⟨_, List.mem_cons_self, by simp only; omega⟩
    · obtain ⟨p, hp, hpx⟩ := ih (a := a + (64 - a % 64)) (bs := bs.drop (64 - a % 64)) (by simp; omega) (by omega)
        (by simp; omega)
      exact ⟨p, List.mem_cons_of_mem _ hp, hpx⟩

/-- Some piece of a store starts in each page that it touches. -/
theorem exists_storePiece {a p : Nat} {bs : List Byte} (h : p ∈ pagesTouched a bs.length) :
    ∃ x ∈ storePieces a bs, x.1 / 2097152 = p := by
  obtain ⟨x, ha, hx, rfl⟩ := exists_byte_of_mem_pagesTouched h
  obtain ⟨y, hy, hyx⟩ := exists_linePiece (Nat.lt_succ_self _) ha hx
  exact ⟨y, hy, by omega⟩

/-- The pages of `t` are mapped and sealed as those of `s` are. -/
def State.SamePages (s t : State) : Prop :=
  ∀ c p, (t.page c p).st = (s.page c p).st ∧ (t.page c p).sealed = (s.page c p).sealed

/-- A page is mapped and not sealed. -/
def State.Writable (s : State) (c p : Nat) : Prop := (s.page c p).st ≠ .unmapped ∧ (s.page c p).sealed = false

namespace State.SamePages
variable {s t u : State}

theorem refl (s : State) : s.SamePages s := fun _ _ => ⟨rfl, rfl⟩

theorem trans (h : s.SamePages t) (h' : t.SamePages u) : s.SamePages u := fun c p =>
  ⟨(h' c p).1.trans (h c p).1, (h' c p).2.trans (h c p).2⟩

theorem updPage (h : s.SamePages t) {f : PageS → PageS} (hst : ∀ x, (f x).st = x.st) (hsealed : ∀ x, (f x).sealed = x.sealed)
    (c p : Nat) : s.SamePages (t.updPage c p f) := by
  refine h.trans fun c' p' => ?_
  by_cases hk : pageKey c' p' = pageKey c p
  · have new : (t.updPage c p f).page c' p' = f (t.page c p) := by simp [State.page, State.setPage, hk]
    have old : t.page c' p' = t.page c p := by simp [State.page, hk]
    rw [new, old]
    exact ⟨hst _, hsealed _⟩
  · rw [State.updPage_eq, State.setPage_page_ne _ _ _ _ _ _ hk]
    exact ⟨rfl, rfl⟩

theorem beginCopy (h : s.SamePages t) (c p : Nat) : s.SamePages (t.beginCopy c p) :=
  h.updPage (f := fun x => { x with copying := some t.nextFrame, creditWait := false }) (fun _ => rfl) (fun _ => rfl) c p

theorem writable (h : s.SamePages t) {c p : Nat} (hw : t.Writable c p) : s.Writable c p := by
  obtain ⟨hst, hsealed⟩ := h c p
  exact ⟨hst ▸ hw.1, hsealed ▸ hw.2⟩

end State.SamePages

section
variable {s : State} {fl : Option Nat} {c a : Nat} {bs : List Byte} {pois : Bool}

/-- A store to a page that is not mapped fails, and one to a sealed page (R203, R212). -/
theorem State.storePage_unmapped (h : (s.page c (a / 2097152)).st = .unmapped) :
    s.storePage fl c a bs pois = (some St.unmapped, s) := by
  simp [State.storePage, h]

theorem State.storePage_sealed (h : (s.page c (a / 2097152)).st ≠ .unmapped) (hs : (s.page c (a / 2097152)).sealed = true) :
    s.storePage fl c a bs pois = (some St.sealed, s) := by
  simp [State.storePage, h, hs]

/-- A store to a writable page, which is made, waits, or finds no frame for its step copy (R244, R245, R247), maps and seals
no page. -/
theorem State.storePage_writable (h : s.Writable c (a / 2097152)) :
    (s.storePage fl c a bs pois).1 = some St.quota
    ∨ (s.storePage fl c a bs pois).1 = none ∧ s.SamePages (s.storePage fl c a bs pois).2 := by
  obtain ⟨hst, hsealed⟩ := h
  have waits := (SamePages.refl s).updPage (c := c) (p := a / 2097152)
    (f := fun x => { x with waits := x.waits ++ [⟨fl, a, bs, pois⟩] }) (fun _ => rfl) (fun _ => rfl)
  simp only [State.storePage, beq_iff_eq, hst, hsealed, Bool.false_eq_true, if_false]
  split
  · exact .inr ⟨rfl, waits⟩
  · split
    · split
      · exact .inr ⟨rfl, waits.updPage (f := fun x => { x with creditWait := true }) (fun _ => rfl) (fun _ => rfl) c _⟩
      · split
        · exact .inl rfl
        · split
          · exact .inr ⟨rfl, (waits.trans (SamePages.refl _)).beginCopy c _⟩
          · exact .inr ⟨rfl, waits.beginCopy c _⟩
    · exact .inr ⟨rfl, SamePages.refl s⟩

end

/-- One piece of a remote write to `a`, once those before it have succeeded. -/
def State.remotePiece (id c a pois : Nat) (r : Nat × State) (p : Nat × List Byte) : Nat × State :=
  if r.1 != St.ok then r
  else
    let x := r.2.storePage (some id) c p.1 p.2 (poisonAt pois (p.1 - a) p.2.length)
    (x.1.getD St.ok, x.2)

section
variable {s : State} {id c a pois : Nat} {bs : List Byte}

/-- A remote write within the unified range and outside what it must not touch is made piece by piece. -/
theorem State.remoteWrite_eq (fits : a + bs.length ≤ 35184372088832) (free : s.dmForbidden c a bs.length = false) :
    s.remoteWrite id c a bs pois = (storePieces a bs).foldl (State.remotePiece id c a pois) (St.ok, s) := by
  simp only [State.remoteWrite, inUnified, fits, free, decide_true, Bool.not_true, Bool.false_eq_true, if_false]
  congr
  funext r p
  unfold State.remotePiece
  split
  · rfl
  · rcases r.2.storePage (some id) c p.1 p.2 (poisonAt pois (p.1 - a) p.2.length) with ⟨_ | st, t⟩ <;> rfl

/-- Behind a piece that is refused, none is made. -/
theorem State.remotePiece_refused {r : Nat × State} (h : r.1 ≠ St.ok) (p : Nat × List Byte) :
    State.remotePiece id c a pois r p = r := if_pos (bne_iff_ne.2 h)

theorem State.foldl_remotePiece_refused {r : Nat × State} (h : r.1 ≠ St.ok) (l : List (Nat × List Byte)) :
    l.foldl (State.remotePiece id c a pois) r = r := by
  induction l with
  | nil => rfl
  | cons p l ih => rwa [List.foldl_cons, State.remotePiece_refused h]

/-- A write whose first page refuses it changes nothing. -/
theorem State.remoteWrite_refused (fits : a + bs.length ≤ 35184372088832) (free : s.dmForbidden c a bs.length = false)
    (hne : bs ≠ []) {st : Nat} (hst : st ≠ St.ok)
    (refused : ∀ ps pois, s.storePage (some id) c a ps pois = (some st, s)) : s.remoteWrite id c a bs pois = (st, s) := by
  have first : storePieces a bs
      = (a, bs.take (64 - a % 64)) :: linePieces bs.length (a + (64 - a % 64)) (bs.drop (64 - a % 64)) := by
    simp [storePieces, linePieces, hne]
  rw [State.remoteWrite_eq fits free, first, List.foldl_cons, State.remotePiece, if_neg (by simp)]
  simp only [refused, Option.getD_some]
  exact State.foldl_remotePiece_refused hst _

/-- A piece that succeeds was to a writable page, and maps and seals none. -/
theorem State.remotePiece_ok {st : Nat} {p : Nat × List Byte} (h : (State.remotePiece id c a pois (st, s) p).1 = St.ok) :
    s.Writable c (p.1 / 2097152) ∧ s.SamePages (State.remotePiece id c a pois (st, s) p).2 := by
  have hst : st = St.ok := Decidable.byContradiction fun hne =>
    hne ((congrArg Prod.fst (State.remotePiece_refused hne p)).symm.trans h)
  rw [State.remotePiece, if_neg (by simpa using hst)] at h ⊢
  by_cases hu : (s.page c (p.1 / 2097152)).st = .unmapped
  · simp [State.storePage_unmapped hu, St.unmapped, St.ok] at h
  · cases hs : (s.page c (p.1 / 2097152)).sealed with
    | true => simp [State.storePage_sealed hu hs, St.sealed, St.ok] at h
    | false =>
      rcases State.storePage_writable (fl := some id) (bs := p.2) (pois := poisonAt pois (p.1 - a) p.2.length) ⟨hu, hs⟩ with
        hquota | ⟨-, same⟩
      · simp [hquota, St.quota, St.ok] at h
      · exact ⟨⟨hu, hs⟩, same⟩

/-- Pieces that all succeed were to writable pages. -/
theorem State.writable_of_foldl_remotePiece {l : List (Nat × List Byte)} {r : Nat × State}
    (h : (l.foldl (State.remotePiece id c a pois) r).1 = St.ok) : ∀ p ∈ l, r.2.Writable c (p.1 / 2097152) := by
  induction l generalizing r with
  | nil => exact fun p hp => nomatch hp
  | cons p l ih =>
    have hfirst : (State.remotePiece id c a pois r p).1 = St.ok := Decidable.byContradiction fun hne =>
      hne ((congrArg Prod.fst (State.foldl_remotePiece_refused hne l)).symm.trans h)
    obtain ⟨writable, same⟩ := State.remotePiece_ok hfirst
    intro q hq
    rcases List.mem_cons.1 hq with rfl | hq
    · exact writable
    · exact same.writable (ih h q hq)

/-- A remote write that succeeds found every page that it touches mapped and unsealed. -/
theorem State.writable_of_remoteWrite_ok (fits : a + bs.length ≤ 35184372088832) (free : s.dmForbidden c a bs.length = false)
    (h : (s.remoteWrite id c a bs pois).1 = St.ok) {p : Nat} (hp : p ∈ pagesTouched a bs.length) : s.Writable c p := by
  rw [State.remoteWrite_eq fits free] at h
  obtain ⟨x, hx, rfl⟩ := exists_storePiece hp
  exact State.writable_of_foldl_remotePiece h x hx

end

section
variable {s : State} {id c a n : Nat}

theorem State.allMapped_iff : s.allMapped c a n = true ↔ ∀ p ∈ pagesTouched a n, (s.page c p).st ≠ .unmapped := by
  simp [State.allMapped]

/-- A remote read is of mapped pages of the unified range, or gives nothing. -/
theorem State.remoteRead_cases (s : State) (c a n : Nat) :
    (s.remoteRead c a n).1 = St.ok ∧ a + n ≤ 35184372088832 ∧ s.allMapped c a n = true
    ∨ s.remoteRead c a n = (St.unmapped, [], 0) ∧ ¬ (a + n ≤ 35184372088832 ∧ s.allMapped c a n = true) := by
  by_cases h : a + n ≤ 35184372088832 ∧ s.allMapped c a n = true
  · exact .inl ⟨by simp [State.remoteRead, inUnified, h], h⟩
  · refine .inr ⟨if_pos ?_, h⟩
    have fails : ¬ (inUnified a n && s.allMapped c a n) = true := by
      rwa [Bool.and_eq_true, inUnified, decide_eq_true_eq]
    rw [← Bool.not_and, eq_false_of_ne_true fails, Bool.not_false]

/-- The checks of an atomic at an aligned address, in their order. -/
theorem State.remoteAtomic_refused (ha : a % 8 = 0) (op operand compare : Nat) :
    let x := s.page c (a / 2097152)
    (35184372088832 < a + 8 ∨ x.st = .unmapped → s.remoteAtomic id c a op operand compare = (St.unmapped, 0, 0, s))
    ∧ (a + 8 ≤ 35184372088832 → x.st ≠ .unmapped →
        (s.dmForbidden c a 8 = true → s.remoteAtomic id c a op operand compare = (St.badField, 0, 0, s))
        ∧ (s.dmForbidden c a 8 = false → x.sealed = true →
            s.remoteAtomic id c a op operand compare = (St.sealed, 0, 0, s))) := by
  have word : a / 8 * 8 = a := by omega
  have mapped : s.allMapped c a 8 = ((s.page c (a / 2097152)).st != .unmapped) := by
    simp [State.allMapped, pagesTouched_word ha]
  simp only [State.remoteAtomic, word, mapped]
  refine ⟨fun h => if_pos ?_, fun fits hu => ⟨fun forbidden => ?_, fun free hs => ?_⟩⟩
  · rcases h with h | h
    · simp [inUnified, Nat.not_le.2 h]
    · simp [h]
  · simp [inUnified, fits, hu, forbidden]
  · simp [inUnified, fits, hu, free, pageBytes, hs]

end

/-- Settles O21: the checks of each access come before anything that it does, and every piece of a write passes those of its
page. -/
theorem remoteAccessesBounded : Obligations.RemoteAccessesBounded := by
  unfold Obligations.RemoteAccessesBounded
  refine fun s id c a n bs pois => ⟨?served, ?refused, fun beyond => ?writeBeyond,
    fun fits => ⟨fun forbidden => ?writeForbidden, fun free hne => ⟨fun hu => ?writeUnmapped, fun hu hs => ?writeSealed,
      fun p hp closed hok => ?writePast⟩⟩,
    fun op operand compare ha => ?atomic⟩
  case served =>
    rw [← State.allMapped_iff]
    rcases s.remoteRead_cases c a n with ⟨hok, h⟩ | ⟨hno, h⟩
    · exact iff_of_true hok h
    · exact iff_of_false (by rw [hno]; decide) h
  case refused =>
    intro h
    rcases s.remoteRead_cases c a n with ⟨hok, -⟩ | ⟨hno, -⟩
    · exact absurd hok h
    · exact hno
  case writeBeyond => exact if_pos (by simp [inUnified, Nat.not_le.2 beyond])
  case writeForbidden => exact (if_neg (by simp [inUnified, fits])).trans (if_pos forbidden)
  case writeUnmapped =>
    exact State.remoteWrite_refused fits free hne (by decide) fun _ _ => State.storePage_unmapped hu
  case writeSealed =>
    exact State.remoteWrite_refused fits free hne (by decide) fun _ _ => State.storePage_sealed hu hs
  case writePast =>
    obtain ⟨mapped, unsealed⟩ := State.writable_of_remoteWrite_ok fits free hok hp
    rcases closed with h | h
    · exact mapped h
    · exact absurd h (by simp [unsealed])
  case atomic =>
    obtain ⟨unmapped, checked⟩ := State.remoteAtomic_refused (s := s) (id := id) (c := c) ha op operand compare
    exact ⟨fun beyond => unmapped (.inl beyond), fun fits => ⟨fun hu => unmapped (.inr hu), fun hu => (checked fits hu).1,
      fun hu => (checked fits hu).2⟩⟩

end Sys2Proof.Machine

namespace Sys2Proof.Machine
open Sys2Proof

/-! ### Transactions and what they stage (R173, R300, R325, R328 to R334) -/

/-- A list of checks finds no fault exactly if none of them does. -/
theorem firstErr_eq_none_iff {l : List (Option Err)} : firstErr l = none ↔ ∀ e ∈ l, e = none := by
  induction l with
  | nil => simp [firstErr]
  | cons e l ih => cases e <;> simp [firstErr, ih]

/-- The first checks of a list that finds no fault find none. -/
theorem firstErr_take {l : List (Option Err)} (ok : firstErr l = none) (n : Nat) : firstErr (l.take n) = none :=
  firstErr_eq_none_iff.2 fun e he => firstErr_eq_none_iff.1 ok e (List.mem_of_mem_take he)

section
variable (s : State)

@[simp] theorem State.names_txns (id c : Nat) (reads writes : List (Nat × Nat)) (clusters : List Nat) :
    (s.names id c reads writes clusters).txns = s.txns := rfl

@[simp] theorem State.raise_txns (code sev : Nat) (ctx : Option Nat) (o : Nat) (d : List W32) :
    (s.raise code sev ctx o d).txns = s.txns := by rw [(s.raise_logged code sev ctx o d).frame]

@[simp] theorem State.consume_txns (id c a : Nat) : (s.consume id c a).txns = s.txns := by
  simp only [State.consume]
  split
  · exact State.ite_kept (·.txns) (by simp) (by simp)
  · simp

@[simp] theorem State.consumeRange_txns (id c a n : Nat) : (s.consumeRange id c a n).txns = s.txns := by
  unfold State.consumeRange
  split
  · exact s.consume_txns id c _
  · rfl

/-- Reading the entries of a calendar changes no transaction. -/
theorem State.calRead_openTxn (id c : Nat) (p : CalLoadP) (q : Nat) : (s.calRead id c p).openTxn q = s.openTxn q := by
  simp [State.openTxn, State.calRead]

end

section
variable {s : State} {h : Hdr} {x : Txn}

/-- In an open transaction with room, a change whose checks pass is staged and its command is over (R328, R334). -/
theorem State.stage_adds (opened : s.openTxn h.ring.toNat = some x) (room : x.changes.length < 8192)
    {checks : List (Option Err)} (ok : firstErr checks = none) (id : Nat) (ch : Change) :
    s.stage h id checks ch = (s.updTxn x.id fun t => { t with changes := t.changes ++ [ch] }).finishNow id := by
  have pass : firstErr (checks ++ [errIf (decide (8192 ≤ x.changes.length)) (Err.state St.txnFull)]) = none := by
    rw [firstErr_eq_none_iff] at ok ⊢
    intro e he
    rcases List.mem_append.1 he with he | he
    · exact ok e he
    · simpa [errIf, Nat.not_le.2 room] using he
  simp only [State.stage, opened, pass]

end

/-- Settles O33: each row does at its dispatch what its transaction and its checks decide. -/
theorem transactionCommandsRun : Obligations.TransactionCommandsRun := by
  unfold Obligations.TransactionCommandsRun
  refine ⟨fun h s => ⟨fun r closed room => ?begins, fun r opened => ?refuses, fun x r opened => ?aborts,
      fun x p r opened ok => ?commits⟩,
    fun h s x room => ⟨fun p r opened ok => ?write, fun p r opened ok => ?slot, fun k r opened => ?fence,
      fun e k r opened ok => ?rejoin, fun p r opened ok => ?calendar⟩⟩
  case begins =>
    exact State.packet_answers r
      (by simp only [closed, Option.isSome_none, Bool.false_eq_true, if_false, Nat.not_le.2 room])
  case refuses => exact State.packet_answers r (if_pos opened)
  case aborts => exact State.packet_answers r (by simp only [opened])
  case commits => exact State.packet_answers r (by simp only [opened, ok, Bool.false_eq_true, if_false])
  case write => exact State.packet_answers r (State.stage_adds opened room ok _ _)
  case slot => exact State.packet_answers r (State.stage_adds opened room ok _ _)
  case fence => exact State.packet_answers r (State.stage_adds opened room rfl _ _)
  case rejoin => exact State.packet_answers r (State.stage_adds opened room (by simp [ok, errIf, firstErr]) _ _)
  case calendar =>
    refine State.packet_answers r ?_
    have reads := firstErr_take ok 4
    simp only [opened, reads, Option.isSome_some, Option.isNone_none, Bool.and_self, if_true]
    exact State.stage_adds ((State.calRead_openTxn ..).trans opened) room ok _ _

end Sys2Proof.Machine

namespace Sys2Proof.Machine
open Sys2Proof

/-! ### Completion of a command that took time (R163, R315) -/

/-- A command in flight is found under its own number. -/
theorem State.flightOf_id {s : State} {id : Nat} {f : Flight} (h : s.flightOf id = some f) : f.id = id := by
  simpa using List.find?_some h

/-- Settles O36: the row's guard is the wait, and behind it the command leaves and its units go on. -/
theorem completionWaitsForEffects : Obligations.CompletionWaitsForEffects := by
  unfold Obligations.CompletionWaitsForEffects
  intro s id
  have row : exec (.commandComplete id) s = execCommandComplete id s := rfl
  refine ⟨fun none => ?absent, fun f hf => ⟨fun wait => ?waits, fun fin landed runs => ⟨fun last => ?lastWaits,
    fun t last => ?completes⟩⟩⟩
  case absent => simp only [row, execCommandComplete, none]
  case waits => rcases wait with h | h | h <;> simp [row, execCommandComplete, hf, h]
  case lastWaits => simp [row, execCommandComplete, hf, fin, landed, runs, State.leave, last]
  case completes => simp [row, execCommandComplete, hf, fin, landed, runs, State.leave, last, State.flightOf_id hf]

end Sys2Proof.Machine

namespace Sys2Proof.Machine
open Sys2Proof

/-! ### Events write the host ring alone (R228, R304, R392) -/

/-- An event record takes 32 bytes (R390). -/
theorem EvtRec.bytes_length (x : EvtRec) : x.bytes.length = 32 := by
  have words : ∀ ws : List W32, (ws.flatMap fun w => leBytes 4 w.toNat).length = 4 * ws.length := by
    intro ws
    induction ws with
    | nil => rfl
    | cons w ws ih =>
      rw [List.flatMap_cons, List.length_append, leBytes_length, ih, List.length_cons, Nat.mul_succ, Nat.add_comm]
  have three : ((x.detail ++ [0, 0, 0]).take 3).length = 3 := by simp
  simp only [EvtRec.bytes, List.length_append, leBytes_length, words, three]

/-- A store within a line clears no mark: it writes no line whole (R228). -/
theorem State.wr_poison_short (s : State) (a : Nat) {bs : List Byte} (h : bs.length < 64) :
    (s.wr a bs false).poison = s.poison := by
  have partly : ∀ l, (decide (a ≤ l * 64) && decide (l * 64 + 64 ≤ a + bs.length)) = false := by
    intro l
    simp only [Bool.and_eq_false_iff, decide_eq_false_iff_not]
    omega
  have kept : ∀ (ls : List Nat) (p : NatSet), ls.foldl (fun p _ => p) p = p := by
    intro ls p
    induction ls with
    | nil => rfl
    | cons l ls ih => exact ih
  simp only [State.wr, partly, Bool.false_eq_true, if_false, kept]

/-- From `s` to `t` no byte outside the admin region has changed, and no mark. -/
structure State.AdminOnly (s t : State) : Prop where
  byte : ∀ a, Apart a (physAdmin 0) 67108864 → t.byte a = s.byte a
  poison : t.poison = s.poison

namespace State.AdminOnly
variable {s t u : State}

theorem refl (s : State) : s.AdminOnly s := ⟨fun _ _ => rfl, rfl⟩

theorem sent (h : s.AdminOnly t) (e : EvtS) (o : OutS) : s.AdminOnly { t with evt := e, out := o } := ⟨h.byte, h.poison⟩

theorem setReg (h : s.AdminOnly t) (r : Reg) (i : Nat) (v : W64) : s.AdminOnly (t.setReg r i v) := ⟨h.byte, h.poison⟩

theorem trans (h : s.AdminOnly t) (h' : t.AdminOnly u) : s.AdminOnly u where
  byte a ha := (h'.byte a ha).trans (h.byte a ha)
  poison := h'.poison.trans h.poison

theorem ite (c : Prop) [Decidable c] (h : s.AdminOnly t) (h' : s.AdminOnly u) : s.AdminOnly (if c then t else u) := by
  split
  · exact h
  · exact h'

end State.AdminOnly

section
variable (s : State)

theorem State.sendMgmt_adminOnly (x : EvtRec) : s.AdminOnly (s.sendMgmt x) := by
  unfold State.sendMgmt
  split
  · exact (AdminOnly.refl s).sent _ _
  · exact .refl s

theorem State.evtMsix_adminOnly : s.AdminOnly s.evtMsix :=
  .ite _ ((AdminOnly.refl s).sent _ _) ((AdminOnly.refl s).sent _ _)

theorem State.logEvent_adminOnly (code sev : Nat) (ctx : Option Nat) (o n : Nat) (d : List W32) :
    s.AdminOnly (s.logEvent code sev ctx o n d).2 :=
  ((AdminOnly.refl s).setReg .vwmEvtSeq 0 _).sent _ _

/-- An event record lies within the admin region, where the ring has a place for it (R304, R392). -/
theorem State.wr_ring_adminOnly (x : EvtRec) (h : s.evtRingFull = false) (i : Nat) :
    s.AdminOnly (s.wr (physAdmin (s.fld .vwmEvtBase 0 25 12 * 4096 + 32 * (i % 2 ^ s.fld .vwmEvtCtrl 0 20 16)))
      x.bytes false) where
  byte a ha := by
    have room : s.fld .vwmEvtBase 0 25 12 * 4096 + 32 * 2 ^ s.fld .vwmEvtCtrl 0 20 16 ≤ 67108864 := by
      simp only [State.evtRingFull, Bool.or_eq_false_iff, decide_eq_false_iff_not, Nat.not_lt] at h
      exact h.1
    have entry := Nat.mod_lt i (Nat.two_pow_pos (s.fld .vwmEvtCtrl 0 20 16))
    refine wr_frame s _ _ _ a ?_
    rw [x.bytes_length]
    simp only [Apart, physAdmin] at ha ⊢
    omega
  poison := s.wr_poison_short _ (by rw [x.bytes_length]; decide)

theorem State.hostRing_adminOnly (x : EvtRec) : s.AdminOnly (s.hostRing x).2 := by
  unfold State.hostRing
  split
  · exact .refl s
  · split
    · exact (AdminOnly.refl s).setReg .vwmEvtDrop 0 _
    · rename_i full
      exact ((s.wr_ring_adminOnly x (eq_false_of_ne_true full) _).setReg .vwmEvtProd 0 _).trans (State.evtMsix_adminOnly _)

theorem State.evtOverflow_adminOnly : s.AdminOnly s.evtOverflow :=
  .ite _ (.refl s) (((s.logEvent_adminOnly ..).trans (State.sendMgmt_adminOnly _ _)).sent _ _)

theorem State.deliver_adminOnly (code sev : Nat) (ctx : Option Nat) (o time : Nat) (d : List W32) :
    s.AdminOnly (s.deliver code sev ctx o time d) := by
  have ring := (s.logEvent_adminOnly code sev ctx o time d).trans
    (State.hostRing_adminOnly _ (s.logEvent code sev ctx o time d).1)
  have sent := fun c [Decidable c] =>
    AdminOnly.ite c (ring.trans (State.sendMgmt_adminOnly _ (s.logEvent code sev ctx o time d).1)) ring
  exact .ite _ ((sent _).trans (State.evtOverflow_adminOnly _)) (sent _)

/-- An event, held, dropped or delivered, writes nothing but the host ring (R389, R392, R424). -/
theorem State.raise_adminOnly (code sev : Nat) (ctx : Option Nat) (o : Nat) (d : List W32) :
    s.AdminOnly (s.raise code sev ctx o d) :=
  .ite _ (.refl s) (.ite _ (.ite _ ((AdminOnly.refl s).sent _ _) ((AdminOnly.refl s).setReg .vwmEvtDrop 0 _))
    (s.deliver_adminOnly ..))

@[simp] theorem State.raise_poison (code sev : Nat) (ctx : Option Nat) (o : Nat) (d : List W32) :
    (s.raise code sev ctx o d).poison = s.poison := (s.raise_adminOnly ..).poison

section
variable (code sev : Nat) (ctx : Option Nat) (o : Nat) (d : List W32)
@[simp] theorem State.raise_flight : (s.raise code sev ctx o d).flight = s.flight := (s.raise_logged ..).flight_eq
@[simp] theorem State.raise_pages : (s.raise code sev ctx o d).pages = s.pages := by rw [(s.raise_logged ..).frame]
@[simp] theorem State.raise_images : (s.raise code sev ctx o d).images = s.images := by rw [(s.raise_logged ..).frame]
@[simp] theorem State.raise_ftl : (s.raise code sev ctx o d).ftl = s.ftl := by rw [(s.raise_logged ..).frame]
@[simp] theorem State.raise_ctxs : (s.raise code sev ctx o d).ctxs = s.ctxs := by rw [(s.raise_logged ..).frame]
end

end

/-! ### The first store of a step to a protected page (R203, R244, R245, R247) -/

/-- A copy without a frame in the quota is noted and reported (R245). -/
theorem State.copyQuotaFail_facts (s : State) (c : Nat) :
    ((s.copyQuotaFail c).ctx c).copyQuota = true ∧ (s.copyQuotaFail c).pages = s.pages
      ∧ ∀ a, Apart a (physAdmin 0) 67108864 → (s.copyQuotaFail c).byte a = s.byte a := by
  refine ⟨?_, by simp [State.copyQuotaFail], fun a ha => (State.raise_adminOnly _ ..).byte a ha⟩
  rw [State.copyQuotaFail, State.ctx, State.raise_ctxs, ← State.ctx, State.updCtx_eq, State.setCtx_ctx]

/-- A store that needs a step copy, to a page that waits for none: it waits for a credit, is refused by the quota, or begins the
copy (R244, R245, R247). -/
theorem State.storePage_needsCopy {s : State} {id c a : Nat} {bs : List Byte} {pois : Bool}
    (hst : (s.page c (a / 2097152)).st ≠ .unmapped) (hsealed : (s.page c (a / 2097152)).sealed = false)
    (hcopying : (s.page c (a / 2097152)).copying = none)
    (hcredit : (s.page c (a / 2097152)).creditWait = false) (hneeds : s.needsCopy c (a / 2097152) = true) :
    s.storePage (some id) c a bs pois =
      let p := a / 2097152
      let x := s.page c p
      let held := s.frameHeld c x.frame = true
      let t := s.setPage c p { x with waits := x.waits ++ [⟨some id, a, bs, pois⟩] }
      if held ∧ (s.reg .eqxCredits c).toNat ≤ (s.ctx c).creditsHeld.length then
        (none, t.updPage c p fun x => { x with creditWait := true })
      else if (s.reg .tierQuotaHbm c).toNat ≤ s.hbmUse c then (some St.quota, s.copyQuotaFail c)
      else if held then
        (none, (t.updCtx c fun y => { y with
          creditPages := NatSet.ins p y.creditPages, creditsHeld := NatSet.ins x.frame y.creditsHeld }).beginCopy c p)
      else (none, t.beginCopy c p) := by
  simp only [State.storePage, beq_iff_eq, hst, hsealed, hcopying, hcredit, hneeds, Option.isSome_none, Bool.or_self,
    Bool.and_eq_true, decide_eq_true_eq, Bool.false_eq_true, if_false, if_true, State.updPage_eq]

/-- A step copy of a page begins with the next frame, and the stores that wait for it stay (R244). -/
@[simp] theorem State.beginCopy_page (s : State) (c p : Nat) :
    (s.beginCopy c p).page c p = { s.page c p with copying := some s.nextFrame, creditWait := false } :=
  s.setPage_page c p _

@[simp] theorem State.beginCopy_mem (s : State) (c p : Nat) : (s.beginCopy c p).mem = s.mem := rfl

/-- Settles O28: the store waits, or is refused, by the branches of a store that needs a step copy. -/
theorem firstWriteMakesAStepCopy : Obligations.FirstWriteMakesAStepCopy := by
  unfold Obligations.FirstWriteMakesAStepCopy
  intro s id c a bs b
  dsimp only
  intro hst hsealed hwaits hcopying hcredit hneeds
  have mapped : (s.page c (a / 2097152)).st ≠ .unmapped := by rw [hst]; decide
  rw [State.storePage_needsCopy mapped hsealed hcopying hcredit hneeds]
  refine ⟨fun noCredit => ?waits, fun credit room => ?begins, fun credit full => ?refused⟩
  case waits =>
    rw [if_pos noCredit]
    simp [hwaits, hcopying]
  case begins =>
    rw [if_neg credit, if_neg (Nat.not_le.2 room)]
    split <;> simp [hwaits]
  case refused =>
    rw [if_neg credit, if_pos full]
    exact ⟨rfl, s.copyQuotaFail_facts c⟩


/-! ### A page that moves (R216, R221, R222, R224) -/

/-- In `t` the page at `dst` holds what the one at `src` held in `s`, with its marks; the one at `src` is released, and every
byte outside the two is as before. -/
structure State.PageMoved (s t : State) (src dst : Nat) : Prop where
  bytes : ∀ i, i < 2097152 → t.byte (dst + i) = s.byte (src + i)
  marks : ∀ i, i < 32768 → (dst / 64 + i ∈ t.poison ↔ src / 64 + i ∈ s.poison)
  zeros : ∀ i, i < 2097152 → t.byte (src + i) = 0
  unmarked : ∀ i, i < 32768 → src / 64 + i ∉ t.poison
  frame : ∀ a, Apart a src 2097152 → Apart a dst 2097152 → t.byte a = s.byte a

/-- A zeroed range of lines has no mark, and every other mark stays. -/
theorem State.zero_poison (s : State) {a n : Nat} (ha : a % 64 = 0) (l : Nat) :
    l ∈ (s.zero a n).poison ↔ l ∈ s.poison ∧ ¬ (a / 64 ≤ l ∧ l * 64 < a + n) := by
  have line : a ≤ l * 64 ↔ a / 64 ≤ l := by omega
  simp only [State.zero, List.mem_filter, Bool.not_eq_true', Bool.and_eq_false_iff, decide_eq_false_iff_not, line]
  exact and_congr_right fun _ => by omega

/-- Only memory decides whether a page has moved. -/
theorem State.PageMoved.of_mem {s t u : State} {src dst : Nat} (h : s.PageMoved u src dst) (hm : t.mem = u.mem)
    (hp : t.poison = u.poison) : s.PageMoved t src dst := by
  have byte : t.byte = u.byte := funext fun a => by rw [State.byte, hm, State.byte]
  exact ⟨byte ▸ h.bytes, hp ▸ h.marks, byte ▸ h.zeros, hp ▸ h.unmarked, byte ▸ h.frame⟩

/-- A copy of a page to another place, behind which the old place is released, moves it. -/
theorem State.copyMem_zero_moved (s : State) {src dst : Nat} (hs : src % 64 = 0) (hd : dst % 64 = 0)
    (apart : src + 2097152 ≤ dst ∨ dst + 2097152 ≤ src) :
    s.PageMoved ((s.copyMem src dst 2097152).zero src 2097152) src dst where
  bytes i hi := by
    rw [zero_byte, if_neg (by omega), copyMem_byte, if_pos (by omega), Nat.add_sub_cancel_left]
  marks i hi := by
    rw [State.zero_poison _ hs, copyMem_poison s src dst _ _ hs hd (by decide), if_pos (by omega)]
    simp only [Nat.add_sub_cancel_left, Nat.add_comm i]
    exact and_iff_left (by omega)
  zeros i hi := by rw [zero_byte, if_pos (by omega)]
  unmarked i hi := by
    rw [State.zero_poison _ hs]
    exact fun h => h.2 (by omega)
  frame a ha hb := by
    simp only [Apart] at ha hb
    rw [zero_byte, if_neg (by omega), copyMem_byte, if_neg (by omega)]

/-- HBM frames and flash pages start at a line; a frame lies below every flash page, and both outside the admin region. -/
theorem physFrame_line (f : Nat) : physFrame f 0 % 64 = 0 := by simp only [physFrame, memStride]; omega
theorem physFlash_line (f : Nat) : physFlash f 0 % 64 = 0 := by simp only [physFlash, memStride]; omega
theorem physFrame_below_physFlash {f : Nat} (h : f < 2 ^ 40) (g : Nat) : physFrame f 0 + 2097152 ≤ physFlash g 0 := by
  simp only [physFrame, physFlash, memStride]; omega
theorem physFrame_apart_admin {f i : Nat} (h : f < 2 ^ 40) (hi : i < 2097152) :
    Apart (physFrame f 0 + i) (physAdmin 0) 67108864 := by
  simp only [Apart, physFrame, physAdmin, memStride]; omega
theorem physFlash_apart_admin {f i : Nat} (h : f < 2 ^ 40) (hi : i < 2097152) :
    Apart (physFlash f 0 + i) (physAdmin 0) 67108864 := by
  simp only [Apart, physFlash, physAdmin, memStride]; omega

/-- While no image drains, no frame is held by one. -/
theorem State.frameHeld_of_not_draining {s : State} (h : s.draining = false) (c f : Nat) : s.frameHeld c f = false := by
  refine eq_false_of_ne_true fun held => ?_
  obtain ⟨m, hm, hf⟩ := List.mem_flatMap.1 (List.contains_iff_mem.1 held)
  obtain ⟨p, hp, -⟩ := List.mem_map.1 hf
  have drains : s.draining = true := List.any_eq_true.2 ⟨m, (List.mem_filter.1 hm).1, by
    simp only [List.mem_filter, Bool.and_eq_true] at hm hp
    simpa [hm.2.2] using ⟨p, hp.1, by simpa using hp.2⟩⟩
  rw [h] at drains
  cases drains

/-- While a channel works, the next flash page lies on one that does (R221). -/
theorem State.takeFpage_works {s : State} (h : ∃ k, k < 32 ∧ s.chanWorks k = true) :
    ∃ k, s.chanWorks k = true ∧ s.takeFpage
      = some (s.nextFpage, k, { s with nextFpage := s.nextFpage + 1, ftl := { s.ftl with nextChan := (k + 1) % 32 } }) := by
  obtain ⟨j, hj, works⟩ := h
  have among : j ∈ (List.range 32).map fun i => (s.ftl.nextChan + i) % 32 :=
    List.mem_map.2 ⟨(j + 32 - s.ftl.nextChan % 32) % 32, List.mem_range.2 (Nat.mod_lt _ (by decide)), by omega⟩
  obtain ⟨k, hk⟩ := Option.isSome_iff_exists.1 (List.find?_isSome.2 ⟨j, among, works⟩)
  exact ⟨k, List.find?_some hk, by rw [State.takeFpage, hk]; rfl⟩

/-- The counters of FTL writes, in the registers and in the history store (R224). -/
def State.wearCounted (s : State) (host bytes : Nat) : State :=
  let s := (s.bump .ftlHostWritten 0 host).bump .ftlNandWritten 0 bytes
  { s with hist := { s.hist with hostWritten := s.reg .ftlHostWritten 0, nandWritten := s.reg .ftlNandWritten 0 } }

section
variable (s : State) (host bytes : Nat)

/-- Programming flash counts the bytes and may raise the wear events (R224). -/
theorem State.nandWrite_logged : (s.wearCounted host bytes).Logged (s.nandWrite host bytes) := by
  have first := fun c [Decidable c] =>
    Logged.ite c (State.raise_logged (s.wearCounted host bytes) 0x0302 1 none anchorDie []) (State.logged_refl _)
  exact .ite _ ((first _).trans (State.raise_logged _ ..)) (first _)

theorem State.nandWrite_adminOnly : s.AdminOnly (s.nandWrite host bytes) := by
  have counted : s.AdminOnly (s.wearCounted host bytes) := ⟨fun _ _ => rfl, rfl⟩
  have first := fun c [Decidable c] =>
    AdminOnly.ite c (counted.trans (State.raise_adminOnly _ 0x0302 1 none anchorDie [])) counted
  exact .ite _ ((first _).trans (State.raise_adminOnly _ ..)) (first _)

@[simp] theorem State.nandWrite_pages : (s.nandWrite host bytes).pages = s.pages := by
  rw [(s.nandWrite_logged host bytes).frame]; rfl

@[simp] theorem State.nandWrite_flight : (s.nandWrite host bytes).flight = s.flight :=
  (s.nandWrite_logged host bytes).flight_eq

end

section
variable {s : State} {c : BitVec 6} {p : BitVec 24}

/-- The row of a page that reaches HBM. -/
theorem exec_pageMoveDone_up (h : (s.page c.toNat p.toNat).st = .up) :
    let x := s.page c.toNat p.toNat
    exec (.pageMoveDone c p) s = .next
      ((((s.endMoveReads x.fpage).copyMem (physFlash x.fpage 0) (physFrame x.frame 0) pageBytes).setPage c.toNat p.toNat
        { x with st := .hbm, sealed := !s.unsealing c.toNat p.toNat }).zero (physFlash x.fpage 0) pageBytes) := by
  have row : exec (.pageMoveDone c p) s = execPageMoveDone c p s := rfl
  simp only [row, execPageMoveDone, h]
  rfl

/-- The row of a page on its way to flash. -/
theorem exec_pageMoveDone_down (h : (s.page c.toNat p.toNat).st = .down) :
    exec (.pageMoveDone c p) s
      = .next (if s.draining then s else s.landDown c.toNat p.toNat (s.page c.toNat p.toNat)) := by
  have row : exec (.pageMoveDone c p) s = execPageMoveDone c p s := rfl
  simp only [row, execPageMoveDone, h]

/-- The row of a page that does not move. -/
theorem exec_pageMoveDone_still (hu : (s.page c.toNat p.toNat).st ≠ .up) (hd : (s.page c.toNat p.toNat).st ≠ .down) :
    exec (.pageMoveDone c p) s = .next s := by
  have row : exec (.pageMoveDone c p) s = execPageMoveDone c p s := rfl
  rw [row, execPageMoveDone]
  dsimp only
  split
  · exact (hd ‹_›).elim
  · exact (hu ‹_›).elim
  · rfl

end

/-- A page that lands in flash: its frame moves to the next flash page, on a channel that works, and the bytes are counted
(R216, R221, R224). -/
theorem State.landDown_eq {s : State} (calm : s.draining = false) (works : ∃ k, k < 32 ∧ s.chanWorks k = true) (c p : Nat)
    (x : PageS) : ∃ k u, s.chanWorks k = true ∧ s.landDown c p x = u.nandWrite pageBytes pageBytes
      ∧ u.pages = (s.setPage c p { x with st := .flash, fpage := s.nextFpage, chan := k }).pages ∧ u.flight = s.flight
      ∧ (x.frame < 2 ^ 40 → s.PageMoved u (physFrame x.frame 0) (physFlash s.nextFpage 0)) := by
  obtain ⟨k, hk, taken⟩ := State.takeFpage_works works
  refine ⟨k, _, hk, by rw [State.landDown, taken], ?_, ?_, fun hframe => ?_⟩
  all_goals rw [State.freeFrame, if_neg (by rw [State.frameHeld_of_not_draining (by exact calm)]; decide)]
  · rfl
  · rfl
  · exact (s.copyMem_zero_moved (physFrame_line _) (physFlash_line _)
      (.inl (physFrame_below_physFlash hframe _))).of_mem rfl rfl

/-- Settles O25: the copy and the release behind it move the page, and beside them events alone write memory. -/
theorem pageMovesKeepBytes : Obligations.PageMovesKeepBytes := by
  unfold Obligations.PageMovesKeepBytes
  intro s c p x moves released
  refine ⟨fun hframe hfpage hnext => ⟨fun up => ?up, fun down calm works => ?down⟩, fun down drains => ?stays,
    exec_pageMoveDone_still⟩
  case stays => rw [exec_pageMoveDone_down down, if_pos drains]
  case up =>
    have moved := (s.copyMem_zero_moved (physFlash_line x.fpage) (physFrame_line x.frame)
      (.inr (physFrame_below_physFlash hframe _))).of_mem rfl rfl
    exact ⟨_, exec_pageMoveDone_up up, by simp, by simp [x], ⟨moved.bytes, moved.marks⟩, ⟨moved.zeros, moved.unmarked⟩,
      fun a ha hb => moved.frame a hb ha, rfl, rfl, rfl⟩
  case down =>
    obtain ⟨k, u, hk, hland, hpages, hflight, hmoved⟩ := State.landDown_eq calm works c.toNat p.toNat x
    have moved := hmoved hframe
    have admin := u.nandWrite_adminOnly pageBytes pageBytes
    have page : (u.nandWrite pageBytes pageBytes).page c.toNat p.toNat
        = { x with st := .flash, fpage := s.nextFpage, chan := k } := by
      rw [State.page, State.nandWrite_pages, hpages]
      exact s.setPage_page ..
    refine ⟨_, (exec_pageMoveDone_down down).trans (congrArg _ ((if_neg (by simp [calm])).trans hland)), by rw [page],
      by rw [page], by rw [page]; exact hk, ⟨fun i hi => ?copied, fun i hi => ?marks⟩,
      ⟨fun i hi => ?zeros, fun i hi => ?unmarked⟩,
      fun a hf hg ha => (admin.byte a ha).trans (moved.frame a hf hg), (State.nandWrite_flight ..).trans hflight⟩
    case copied => exact (admin.byte _ (physFlash_apart_admin hnext hi)).trans (moved.bytes i hi)
    case marks => exact admin.poison ▸ moved.marks i hi
    case zeros => exact (admin.byte _ (physFrame_apart_admin hframe hi)).trans (moved.zeros i hi)
    case unmarked => exact admin.poison ▸ moved.unmarked i hi

end Sys2Proof.Machine

namespace Sys2Proof.Machine
open Sys2Proof

/-! ### Flash reads of a command's sources (R202, R223) -/

/-- The first element of a kind, changed so that it stays of that kind, is still the first. -/
theorem find?_updFirst {α : Type} {p : α → Bool} {f : α → α} (hf : ∀ x, p (f x) = p x) (l : List α) :
    (updFirst p f l).find? p = (l.find? p).map f := by
  induction l with
  | nil => rfl
  | cons a l ih => cases ha : p a <;> simp [updFirst, ha, hf, ih]

/-- A command in flight that is changed is found, changed, under its number. -/
theorem State.flightOf_updFlight {s : State} {id : Nat} {f : Flight} (h : s.flightOf id = some f) {g : Flight → Flight}
    (hg : ∀ f, (g f).id = f.id) : (s.updFlight id g).flightOf id = some (g f) :=
  (find?_updFirst (fun f => by rw [hg]) s.flight).trans (congrArg (Option.map g) h)

section
variable {s : State} {id c : Nat} {rs : List (Nat × Nat)} {cmd : Instr} {body : State → State}

theorem State.withReads_now (h : s.flashPieces id c rs = []) : s.withReads id c rs cmd body = body s := by
  simp [State.withReads, h]

theorem State.withReads_later (h : s.flashPieces id c rs ≠ []) :
    s.withReads id c rs cmd body = (s.queueReads id c rs).updFlight id fun f => { f with cmd := some cmd } := by
  simp [State.withReads, h]

end

/-! ### Control commands and the memory wait (R203, R223, R229, R321) -/

section
variable {s : State} {id c : Nat} {a v : W64} {f : Flight}

/-- Holding a queue changes neither memory nor pages nor the reads that flash owes. -/
theorem State.holdQueue_flashPieces (s : State) (id c : Nat) (a v : W64) (rs : List (Nat × Nat)) :
    (s.holdQueue id a v).flashPieces id c rs = s.flashPieces id c rs := rfl

/-- A held queue waits. -/
theorem State.holdQueue_waiting (hf : s.flightOf id = some f) : ((s.holdQueue id a v).queue f.queue).waiting = true := by
  have queue : s.queueOfFlight id = f.queue := by simp only [State.queueOfFlight, hf]
  simp [State.holdQueue, queue]

end

/-- Settles O9: each packet's checks let it pass, and a test of the word ends by its branch. -/
theorem controlCommandsRun : Obligations.ControlCommandsRun := by
  unfold Obligations.ControlCommandsRun
  refine ⟨fun h s => ⟨fun r => ?nop, fun k v r => ?set, fun dst n r ok => ?cap, fun first n dst r ok => ?read,
      fun a v r ha => ?wait⟩,
    fun s id c h a v => ⟨fun now => ?testNow, fun later => ?testLater⟩,
    fun s id c a v f hf => ⟨fun mapped clean holds => ?completes, fun e fault made => ?failsLater, fun e fault made => ?fails,
      fun mapped pois => ?poisoned, fun mapped clean less => ?goesOn⟩⟩
  case nop => exact State.packet_ready r _
  case set => exact State.packet_ready r _
  case cap => exact State.packet_guarded r (check := fun t c => t.capReadErr c dst n) ok _
  case read => exact State.packet_guarded r (check := fun t c => t.ctrReadErr c first n dst) ok _
  case wait => exact State.packet_answers r (State.guarded_none (by simp [chkAlign, errIf, ha]) _)
  case testNow => simp [State.readAndTest, now]
  case testLater =>
    rw [State.readAndTest, if_neg (by simpa using later), State.withReads_later (by rwa [State.holdQueue_flashPieces])]
    exact ⟨congrArg (s.ftl.reads ++ ·) (s.holdQueue_flashPieces ..), by simp [State.queueReads, State.holdQueue],
      by simp [State.queueReads, State.holdQueue]⟩
  all_goals have queue : s.queueOfFlight id = f.queue := by simp only [State.queueOfFlight, hf]
  case completes => simp [State.waitTest, queue, mapped, clean, holds]
  case failsLater => simp [State.waitTest, queue, hf, fault, made]
  case fails => simp [State.waitTest, queue, hf, fault, made]
  case poisoned => simp [State.waitTest, queue, mapped, pois]
  case goesOn =>
    have waits : s.waitTest id c a v = (s.madeAccess id).holdQueue id a v := by
      simp [State.waitTest, mapped, clean, Nat.not_le.2 less]
    rw [waits]
    exact ⟨State.holdQueue_waiting (f := { f with made := true }) (State.flightOf_updFlight hf fun _ => rfl), rfl, rfl⟩

/-! ### Copies, block builds and the end of a flash read (R208 to R211, R223, R226) -/

section
variable {s : State} {id : Nat}

/-- A read that goes on while its command still reads changes nothing. -/
theorem State.goOn_reading (h : s.reading id = true) : s.goOn id = s := by
  unfold State.goOn
  split
  · exact if_pos h
  · unfold State.slowDone
    split
    · rfl
    · exact if_pos h

/-- A command that reads no more goes on, and so do its units. -/
theorem State.goOn_done {f : Flight} (h : s.reading id = false) (hf : s.flightOf id = some f) :
    s.goOn id = ((s.resume f).wakeUnits (s.unitsOf f)).settle f.ctx := by
  simp [State.goOn, hf, h]

end

section
variable (s : State) (r : FlashRead) (retries : Nat) (failed : Bool)

/-- The end of a read takes it from its channel and counts its retries; memory and commands stay (R223, R226). -/
theorem State.endRead_reads : (s.endRead r retries failed).ftl.reads = dropFirst (fun x => x.chan == r.chan) s.ftl.reads := by
  cases failed <;> rfl

theorem State.endRead_retries : (s.endRead r retries failed).reg .ftlReadRetry 0
    = Reg.cut .ftlReadRetry (s.reg .ftlReadRetry 0 + BitVec.ofNat 64 retries) := by
  cases failed <;> exact State.setReg_reg ..

theorem State.endRead_mem : (s.endRead r retries failed).mem = s.mem := by cases failed <;> rfl

theorem State.endRead_flight : (s.endRead r retries failed).flight = s.flight := by cases failed <;> rfl

/-- A failed read poisons one of the lines that it read (R226). -/
theorem State.endRead_failed (h : 0 < r.len) : ∃ i, i < (r.off % 64 + r.len + 63) / 64
    ∧ (s.endRead r retries true).poison = NatSet.ins (physFlash r.fpage r.off / 64 + i) s.poison :=
  ⟨_, Nat.mod_lt (Config.freeNat s.freeCount) (by omega), rfl⟩

/-- The row of a read that completes. -/
theorem exec_flashReadComplete {s : State} {k : BitVec 5} (hk : inRange k.toNat s.nChan = true) (retries : Nat) (failed : Bool) :
    (s.ftl.reads.find? (fun r => r.chan == k.toNat) = none → exec (.flashReadComplete k retries failed) s = .next s)
    ∧ ∀ r, s.ftl.reads.find? (fun r => r.chan == k.toNat) = some r →
      (r.flight = none → exec (.flashReadComplete k retries failed) s = .next (s.endRead r retries failed))
      ∧ ∀ id, r.flight = some id →
        exec (.flashReadComplete k retries failed) s = .next ((s.endRead r retries failed).goOn id) := by
  have row : exec (.flashReadComplete k retries failed) s = execFlashReadComplete k retries failed s := rfl
  refine ⟨fun none => ?_, fun r hr => ⟨fun hf => ?_, fun id hf => ?_⟩⟩
  · simp [row, execFlashReadComplete, hk, none]
  · simp [row, execFlashReadComplete, hk, hr, hf]
  · simp [row, execFlashReadComplete, hk, hr, hf]

end

/-- Settles O11: a command whose checks pass runs at once or behind its reads, and the end of its last read lets it go on. -/
theorem dataMovementRuns : Obligations.DataMovementRuns := by
  unfold Obligations.DataMovementRuns
  refine ⟨fun h s => ⟨fun src dst len ecc r ok => ?copy, fun p r ok => ?blocks, fun p r ok => ?build⟩,
    fun s id c rs cmd body => ⟨State.withReads_now, fun later => ?later⟩,
    fun s k retries failed hk => ⟨(exec_flashReadComplete hk retries failed).1, fun r hr => ?ends⟩⟩
  case copy => exact State.packet_guarded r (check := fun t c => t.memCopyErr c src dst len) ok _
  case blocks => exact State.packet_guarded r (check := fun t c => t.tbCopyErr c p) ok _
  case build => exact State.packet_guarded r (check := fun t c => t.tbBuildErr c p) ok _
  case later =>
    rw [State.withReads_later later]
    exact ⟨rfl, rfl, rfl, rfl, fun f hf => ⟨_, State.flightOf_updFlight hf fun _ => rfl, rfl, rfl, rfl⟩⟩
  case ends =>
    obtain ⟨alone, goesOn⟩ := (exec_flashReadComplete hk retries failed).2 r hr
    refine ⟨alone, fun id hid => ⟨fun _ => goesOn id hid, fun f done hf => ?_, State.goOn_reading⟩,
      s.endRead_reads .., s.endRead_retries .., s.endRead_mem .., s.endRead_flight .., fun hfailed hlen => ?_,
      fun hfailed => ?_⟩
    · rw [goesOn id hid, State.goOn_done done hf]
    · subst hfailed
      exact s.endRead_failed r retries hlen
    · subst hfailed
      rfl

/-! ### The HBM patrol (R227, R228) -/

/-- Of two registers that count, each counts for itself, and every other register stays. -/
theorem State.bump_bump_reg (s : State) {r r' : Reg} (h : r ≠ r') (i i' n n' : Nat) :
    ((s.bump r i n).bump r' i' n').reg r i = r.cut (s.reg r i + BitVec.ofNat 64 n)
    ∧ ∀ q, q ≠ r → q ≠ r' → ∀ j, ((s.bump r i n).bump r' i' n').reg q j = s.reg q j :=
  ⟨(State.setReg_reg_ne _ _ _ _ h).trans (s.setReg_reg ..),
    fun _ hq hq' _ => (State.setReg_reg_ne _ _ _ _ hq').trans (s.setReg_reg_ne _ _ _ hq)⟩

section
variable {s : State} {ctx : BitVec 6} {a : W64} {p : Nat} (hp : s.readPhys ctx.toNat a.toNat = some p) (lo : memStride ≤ p)
  (hi : p < 2 * memStride)
include hp lo hi

/-- The patrol of an HBM line is a read with what ECC finds. -/
theorem exec_hbmPatrol : exec (.hbmPatrol ctx a .clean) s = .next s
    ∧ exec (.hbmPatrol ctx a .corrected) s = .next (s.eccAt ctx.toNat ⟨a, .corrected⟩)
    ∧ exec (.hbmPatrol ctx a .uncorrectable) s = .next (s.eccAt ctx.toNat ⟨a, .uncorrectable⟩) := by
  have row : ∀ found, exec (.hbmPatrol ctx a found) s = execHbmPatrol ctx a found s := fun _ => rfl
  have line : ¬ (p < memStride ∨ 2 * memStride ≤ p) := by omega
  simp [row, execHbmPatrol, hp, line]

/-- A corrected error of an HBM line is counted. -/
theorem State.eccAt_corrected : s.eccAt ctx.toNat ⟨a, .corrected⟩
    = (s.nextFree.2.bump .tierHbmCe 0 1).bump .vwmLcEccCe (Config.freeNat s.nextFree.1 % s.dies) 1 := by
  simp [State.eccAt, hp, Nat.not_lt.2 lo, Nat.not_le.2 hi]

/-- An uncorrectable one is counted, and marks the line. -/
theorem State.eccAt_uncorrectable : s.eccAt ctx.toNat ⟨a, .uncorrectable⟩
    = { (s.nextFree.2.bump .tierHbmUe 0 1).bump .vwmLcEccUe (Config.freeNat s.nextFree.1 % s.dies) 1 with
        poison := NatSet.ins (p / 64) s.poison } := by
  simp [State.eccAt, hp, Nat.not_lt.2 lo, Nat.not_le.2 hi, isAccum]
  rfl

end

/-- Settles O12: the patrol reads an HBM line, and what it finds is counted in registers of their own. -/
theorem patrolCountsAndPoisons : Obligations.PatrolCountsAndPoisons := by
  unfold Obligations.PatrolCountsAndPoisons
  intro s ctx a p hp lo hi
  obtain ⟨clean, corrected, uncorrectable⟩ := exec_hbmPatrol hp lo hi
  rw [State.eccAt_corrected hp lo hi] at corrected
  rw [State.eccAt_uncorrectable hp lo hi] at uncorrectable
  obtain ⟨ce, ceOnly⟩ := State.bump_bump_reg s.nextFree.2 (show Reg.tierHbmCe ≠ Reg.vwmLcEccCe by decide) 0
    (Config.freeNat s.nextFree.1 % s.dies) 1 1
  obtain ⟨ue, ueOnly⟩ := State.bump_bump_reg s.nextFree.2 (show Reg.tierHbmUe ≠ Reg.vwmLcEccUe by decide) 0
    (Config.freeNat s.nextFree.1 % s.dies) 1 1
  exact ⟨clean, ⟨_, corrected, rfl, rfl, ce, ceOnly .tierHbmUe (by decide) (by decide) 0⟩,
    ⟨_, uncorrectable, rfl, rfl, ue, ueOnly .tierHbmCe (by decide) (by decide) 0⟩⟩

end Sys2Proof.Machine

namespace Sys2Proof.Machine
open Sys2Proof

/-! ### Fabric commands (R272, R279 to R281) -/

/-- Settles O19: a command whose checks pass sends, or serves the own part, at its dispatch. -/
theorem fabricCommandsRun : Obligations.FabricCommandsRun := by
  unfold Obligations.FabricCommandsRun
  refine fun h s => ⟨fun src dst len r ok => ?get, fun src dst len r ok => ?put, fun p r ok => ?atomic, fun r => ?fence,
    fun p r ok => ?blocks⟩
  case get =>
    exact State.packet_guarded r (check := fun t c => firstErr [t.chkMove c 6 dst len.toNat, chkFabLen len]) ok _
  case put =>
    exact State.packet_guarded r (check := fun t c => firstErr [t.chkRead c 4 src len.toNat, chkFabLen len]) ok _
  case atomic =>
    exact State.packet_guarded r
      (check := fun t c => firstErr [chkAlign 4 p.addr 8, chkAlign 11 p.oldAddr 8, t.chkMove c 11 p.oldAddr 8]) ok _
  case fence => exact State.packet_ready r _
  case blocks => exact State.packet_guarded r (check := fun t c => t.fabTbErr c p) ok _

/-! ### Tier commands (R213 to R217) -/

/-- Settles O23: a command whose checks pass changes the map at its dispatch. -/
theorem tierCommandsRun : Obligations.TierCommandsRun := by
  unfold Obligations.TierCommandsRun
  refine fun h s p => ⟨fun r ok => ?map, fun r ok => ?unmap, fun r ok => ?sealing, fun r ok => ?unsealing, fun r ok => ?migrate,
    fun r ok => ?query⟩
  case map => exact State.packet_guarded r (check := fun t c => t.tierMapErr c p) ok _
  case unmap => exact State.packet_guarded r (check := fun t c => t.tierRangeErr c p) ok _
  case sealing => exact State.packet_guarded r (check := fun t c => t.tierRangeErr c p) ok _
  case unsealing => exact State.packet_guarded r (check := fun t c => t.tierUnsealErr c p) ok _
  case migrate => exact State.packet_guarded r (check := fun t c => t.tierMigrateErr c p) ok _
  case query => exact State.packet_guarded r (check := fun t c => t.tierQueryErr c p) ok _

end Sys2Proof.Machine

namespace Sys2Proof.Machine
open Sys2Proof

/-! ### The refusals of the tier commands (R199, R203, R213, R214, R219, R309) -/

/-- Of two lists of checks the first that finds a fault decides. -/
theorem firstErr_append (l m : List (Option Err)) : firstErr (l ++ m) = (firstErr l).or (firstErr m) := by
  induction l with
  | nil => rfl
  | cons e l ih => cases e with
    | none => exact ih
    | some e => rfl

/-- A check by a condition comes before those behind it. -/
theorem firstErr_errIf (b : Bool) (e : Err) (l : List (Option Err)) :
    firstErr (errIf b e :: l) = if b then some e else firstErr l := by
  cases b <;> rfl

/-- Some page of a command's range is of a kind. -/
theorem TierP.any_pages (p : TierP) {f : Nat → Bool} {q : Nat → Prop} (h : ∀ n, f n = true ↔ q n) :
    (TierP.pages p).any f = true ↔ ∃ i, i < p.count.toNat ∧ q (p.va.toNat / 2097152 + i) := by
  simp only [TierP.pages, pageBytes, List.any_map, List.any_eq_true, List.mem_range, Function.comp_apply, h, Nat.add_comm]

@[simp] theorem TierP.pages_length (p : TierP) : (TierP.pages p).length = p.count.toNat := by simp [TierP.pages]

section
variable {s : State} {c : Nat} {p : TierP} {e : Err}

/-- A fault of the range or of the count refuses each of the commands, before everything else. -/
theorem State.tierErrs_of_fields (h : firstErr (s.tierFields c p) = some e) :
    s.tierMapErr c p = some e ∧ s.tierRangeErr c p = some e ∧ s.tierUnsealErr c p = some e
      ∧ s.tierMigrateErr c p = some e ∧ s.tierQueryErr c p = some e := by
  simp [State.tierMapErr, State.tierRangeErr, State.tierUnsealErr, State.tierMigrateErr, State.tierQueryErr,
    firstErr_append, h]

/-- A fault of the range comes before one of the count. -/
theorem State.tierFields_of_range (h : s.chkPages c 5 p.va p.count.toNat = some e) : firstErr (s.tierFields c p) = some e := by
  rw [State.tierFields, h, firstErr]

/-- A range whose first address names no page (R199, R309). -/
theorem State.chkPages_hole {w n : Nat} {a : W64} (h : s.place c a.toNat = .hole) :
    s.chkPages c w a n = some (Err.word St.unmapped w) := by
  simp [State.chkPages, State.chkPlace, h]

theorem State.chkPages_sram {w n o : Nat} {a : W64} (h : s.place c a.toNat = .sram o) :
    s.chkPages c w a n = some (Err.word (if s.ownerOf (o / 33554432) = some c then St.badField else St.notOwner) w) := by
  by_cases ho : s.ownerOf (o / 33554432) = some c <;> simp [State.chkPages, State.chkPlace, h, sramCluster, errIf, ho]

/-- An address of the unified range names its page, for every context (R199). -/
theorem State.place_page {a : Nat} (hc : c ≠ adminCtx) (ha : a < 35184372088832) :
    s.place c a = .page (a / 2097152) (a % 2097152) := by
  simp [State.place, ha, hc]

/-- A range of pages of a context: it starts at a page boundary and ends within the map. -/
theorem State.chkPages_page {w n : Nat} {a : W64} (hc : c ≠ adminCtx) (ha : a.toNat < 35184372088832) :
    s.chkPages c w a n = if a.toNat % 2097152 ≠ 0 then some (Err.word St.badField w)
      else if 16777216 < a.toNat / 2097152 + n then some (Err.word St.unmapped w) else none := by
  simp [State.chkPages, State.place_page hc ha, errIf]

/-- Behind a range of whole pages of a context the count decides: it must not be 0. -/
theorem State.tierFields_eq (hc : c ≠ adminCtx) (ha : p.va.toNat < 35184372088832) (hoff : p.va.toNat % 2097152 = 0)
    (hend : p.va.toNat / 2097152 + p.count.toNat ≤ 16777216) :
    firstErr (s.tierFields c p) = if p.count.toNat = 0 then some ⟨St.badField, 7⟩ else none := by
  have count : (p.count == 0) = decide (p.count.toNat = 0) := by
    rw [Bool.eq_iff_iff, beq_iff_eq, decide_eq_true_eq, ← BitVec.toNat_inj]
    rfl
  rw [State.tierFields, State.chkPages_page hc ha, if_neg (by omega), if_neg (by omega), count, firstErr, firstErr_errIf]
  simp only [decide_eq_true_eq]
  rfl

/-- TIER_MIGRATE toward HBM has the checks of TIER_UNSEAL. -/
theorem State.tierMigrateErr_toHbm (target : p.target = false) : s.tierMigrateErr c p = s.tierUnsealErr c p := by
  simp [State.tierMigrateErr, State.tierUnsealErr, target]

section
variable (ok : firstErr (s.tierFields c p) = none)
include ok

/-- TIER_MAP of a range that passes: no page of it may be mapped, and the quota must have the frames. -/
theorem State.tierMapErr_eq : s.tierMapErr c p =
    if (TierP.pages p).any fun n => (s.page c n).st != .unmapped then some ⟨St.badField, 0xFFFFFFFF⟩
    else if (s.reg .tierQuotaHbm c).toNat < s.hbmUse c + p.count.toNat then some ⟨St.quota, 0⟩ else none := by
  simp only [State.tierMapErr, firstErr_append, ok, firstErr_errIf, State.chkHbmQuota, TierP.pages_length, Option.none_or,
    decide_eq_true_eq]
  rfl

/-- TIER_UNMAP and TIER_SEAL: no page may be protected. -/
theorem State.tierRangeErr_eq : s.tierRangeErr c p =
    if (TierP.pages p).any fun n => (s.page c n).st != .unmapped && s.protPage c n then some ⟨St.badField, 0xFFFFFFFF⟩
    else none := by
  simp only [State.tierRangeErr, firstErr_append, ok, firstErr_errIf, State.chkUnprotected, Option.none_or]
  rfl

/-- TIER_UNSEAL: every page must be mapped and none protected, and the quota must have the frames. -/
theorem State.tierUnsealErr_eq : s.tierUnsealErr c p =
    if (TierP.pages p).any fun n => (s.page c n).st == .unmapped then some ⟨St.unmapped, 0⟩
    else if (TierP.pages p).any fun n => (s.page c n).st != .unmapped && s.protPage c n then some ⟨St.badField, 0xFFFFFFFF⟩
    else if (s.reg .tierQuotaHbm c).toNat
        < s.hbmUse c + s.countSt c (TierP.pages p) (fun t => t == .flash || t == .down) then some ⟨St.quota, 0⟩
    else none := by
  simp only [State.tierUnsealErr, firstErr_append, ok, firstErr_errIf, State.chkMapped, State.chkUnprotected,
    State.chkHbmQuota, Option.none_or, decide_eq_true_eq]
  rfl

/-- TIER_MIGRATE: toward flash every page must besides be sealed, and flash must have place and be writable. -/
theorem State.tierMigrateErr_eq : s.tierMigrateErr c p =
    if (TierP.pages p).any fun n => (s.page c n).st == .unmapped then some ⟨St.unmapped, 0⟩
    else if (TierP.pages p).any fun n => (s.page c n).st != .unmapped && s.protPage c n then some ⟨St.badField, 0xFFFFFFFF⟩
    else if p.target then
      if (TierP.pages p).any fun n => !(s.page c n).sealed then some ⟨St.notSealed, 0⟩
      else if (s.reg .tierQuotaFlash c).toNat < s.flashUse c + s.countSt c (TierP.pages p) (fun t => t == .hbm) then
        some ⟨St.quota, 0⟩
      else if s.ftl.readOnly then some ⟨St.flashRo, 0⟩ else none
    else s.tierUnsealErr c p := by
  cases target : p.target with
  | false =>
    rw [State.tierMigrateErr_toHbm target, State.tierUnsealErr_eq ok]
    split
    · rfl
    · split <;> simp
  | true =>
    simp only [State.tierMigrateErr, target, if_true, firstErr_append, ok, List.append_assoc, List.cons_append,
      List.nil_append, firstErr_errIf, State.chkMapped, State.chkUnprotected, Option.none_or, decide_eq_true_eq]
    rfl

/-- TIER_QUERY: its destination is aligned and can be written. -/
theorem State.tierQueryErr_eq : s.tierQueryErr c p =
    if p.dstAddr.toNat % 64 ≠ 0 then some ⟨St.badField, 8⟩ else s.chkWrite c 8 p.dstAddr (16 * p.count.toNat) := by
  simp only [State.tierQueryErr, firstErr_append, ok, chkAlign, firstErr_errIf, bne_iff_ne, Option.none_or]
  cases s.chkWrite c 8 p.dstAddr (16 * p.count.toNat) <;> rfl

end

end

/-- Settles O24: the fields shared by the commands come first, then each command's own checks. -/
theorem tierChecksDecide : Obligations.TierChecksDecide := by
  unfold Obligations.TierChecksDecide
  intro s c p first n all unmapped prot fromFlash noFrames
  refine ⟨fun hole => ?hole, fun o sram => ⟨fun foreign => ?foreign, fun own => ?own⟩, fun hc ha =>
    ⟨fun inside => ?inside, fun hoff => ⟨fun past => ?past, fun hend => ⟨fun hn => ?count, fun hn => ?checks⟩⟩⟩⟩
  case hole => exact State.tierErrs_of_fields (State.tierFields_of_range (State.chkPages_hole hole))
  case foreign =>
    exact State.tierErrs_of_fields (State.tierFields_of_range ((State.chkPages_sram sram).trans (by rw [if_neg foreign]; rfl)))
  case own =>
    exact State.tierErrs_of_fields (State.tierFields_of_range ((State.chkPages_sram sram).trans (by rw [if_pos own]; rfl)))
  case inside =>
    exact State.tierErrs_of_fields (State.tierFields_of_range ((State.chkPages_page hc ha).trans (if_pos inside)))
  case past =>
    exact State.tierErrs_of_fields (State.tierFields_of_range ((State.chkPages_page hc ha).trans
      ((if_neg fun h => h hoff).trans (if_pos past))))
  case count => exact State.tierErrs_of_fields ((State.tierFields_eq hc ha hoff hend).trans (if_pos hn))
  case checks =>
    have ok : firstErr (s.tierFields c p) = none := (State.tierFields_eq hc ha hoff hend).trans (if_neg hn)
    have anyUnmapped : (TierP.pages p).any (fun n => (s.page c n).st == .unmapped) = true ↔ unmapped :=
      TierP.any_pages p (q := fun m => (s.page c m).st = .unmapped) fun _ => beq_iff_eq
    have anyProt : (TierP.pages p).any (fun n => (s.page c n).st != .unmapped && s.protPage c n) = true ↔ prot :=
      TierP.any_pages p (q := fun m => (s.page c m).st ≠ .unmapped ∧ s.protPage c m = true) fun _ => by
        rw [Bool.and_eq_true, bne_iff_ne]
    have anyMapped : (TierP.pages p).any (fun n => (s.page c n).st != .unmapped) = true
        ↔ ∃ i, i < n ∧ (s.page c (first + i)).st ≠ .unmapped := TierP.any_pages p fun _ => bne_iff_ne
    have anyUnsealed : (TierP.pages p).any (fun n => !(s.page c n).sealed) = true
        ↔ ∃ i, i < n ∧ (s.page c (first + i)).sealed = false := TierP.any_pages p fun _ => by rw [Bool.not_eq_true']
    have migrating := State.tierMigrateErr_eq ok
    have unsealing := State.tierUnsealErr_eq ok
    rw [State.tierMapErr_eq ok, State.tierRangeErr_eq ok, State.tierQueryErr_eq ok]
    simp only [anyUnmapped, anyProt, anyMapped, anyUnsealed] at *
    refine ⟨fun some => if_pos some, fun all => if_neg fun ⟨i, hi, h⟩ => h (all i hi), fun some => if_pos some,
      fun none => if_neg none, fun some => ⟨unsealing.trans (if_pos some), migrating.trans (if_pos some)⟩,
      fun mapped some => ⟨unsealing.trans ((if_neg mapped).trans (if_pos some)),
        migrating.trans ((if_neg mapped).trans (if_pos some))⟩,
      fun mapped free => ?free, fun off => if_pos off, fun aligned => if_neg fun h => h aligned⟩
    rw [if_neg mapped, if_neg free] at unsealing migrating
    exact ⟨fun full => unsealing.trans (if_pos full), fun room => unsealing.trans (if_neg room), State.tierMigrateErr_toHbm,
      fun target => ⟨fun some => migrating.trans ((if_pos target).trans (if_pos some)),
        fun all => migrating.trans ((if_pos target).trans (if_neg fun ⟨i, hi, h⟩ => by simp [all i hi] at h))⟩⟩

end Sys2Proof.Machine

namespace Sys2Proof.Machine
open Sys2Proof

/-! ### Collectives (R284 to R291, R298, R340) -/

section
variable {s : State} {c : Nat}

/-- A descriptor that its check lets pass can be read, and the part has a rank (R283, R284). -/
theorem State.chkDesc_none {a : W64} (h : s.chkDesc c a = none) :
    (s.readDesc c a.toNat).isSome = true ∧ (s.ownRank c).isSome = true := by
  have last := firstErr_eq_none_iff.1 h _ (List.mem_of_mem_getLast? rfl)
  cases hd : s.readDesc c a.toNat <;> cases hr : s.ownRank c <;> simp [hd, hr] at last ⊢

/-- The checks of each collective command contain that of its descriptor. -/
theorem State.chkDesc_of_reduceErr {p : ReduceP} (h : s.reduceErr c p = none) : s.chkDesc c p.groupAddr = none := by
  refine firstErr_eq_none_iff.1 h _ ?_
  have among : s.chkDesc c p.groupAddr ∈ s.chkReduce c p := by
    unfold State.chkReduce
    split <;> simp
  simp [among]

theorem State.chkDesc_of_gatherErr {p : GatherP} (h : s.gatherErr c p = none) : s.chkDesc c p.groupAddr = none :=
  firstErr_eq_none_iff.1 h _ (by simp)

/-- A collective that finds its descriptor and its rank goes on (R283). -/
theorem State.withDesc_found {id a r : Nat} {d : List Nat × List (Nat × Nat)} (hd : s.readDesc c a = some d)
    (hr : s.ownRank c = some r) (body : State → List Nat × List (Nat × Nat) → Nat → State) :
    s.withDesc id c a body = body (s.updFlight id fun f => { f with cmd := none }) d r := by
  have desc : (s.updFlight id fun f => { f with cmd := none }).readDesc c a = some d := hd
  have rank : (s.updFlight id fun f => { f with cmd := none }).ownRank c = some r := hr
  simp only [State.withDesc, desc, rank]

end

section
variable {s : State}

/-- A collective packet of its phase that the part takes, from a partner whose endpoint context is cached. -/
theorem State.collRow_taken {n : Nat} {k : Pkt} {phase : Nat} (hn : inRange n s.nPorts = true)
    (cached : s.fab.cache.contains k.srcPart.toNat = true) (taken : s.takes n k 2 (0x0F + phase) = true)
    (hphase : Pkt.phase k = phase) :
    s.collRow n k phase = .next ((((s.touchEpt k.srcPart.toNat).collArrive n k s.now).settle k.dstCtx.toNat).untie
      (.reduceDeadline k.dstCtx (BitVec.ofNat 20 (Pkt.bucket k))) (isPhaseOf k.dstCtx (Pkt.bucket k))
      fun t => t.runDeadline k.dstCtx.toNat (Pkt.bucket k)) := by
  have same : (Pkt.phase k != phase) = false := by simp [hphase]
  simp only [State.collRow, same, State.packetRow, hn, taken, cached, Bool.not_true, Bool.false_eq_true, if_false,
    Out.andThen]
  rfl

/-- A deadline of a cycle without an arrival that it awaits runs when it has come (R340). -/
theorem exec_reduceDeadline {c : BitVec 6} {b : BitVec 20} {e : Nat} (h : s.deadlineAt c.toNat b.toNat = some e)
    (calm : e = s.now → s.comes (isPhaseOf c b.toNat) = false) :
    exec (.reduceDeadline c b) s = .next (s.runDeadline c.toNat b.toNat) := by
  have row : exec (.reduceDeadline c b) s = execReduceDeadline c b s := rfl
  have first : ¬ ((s.now == e && s.comes (isPhaseOf c b.toNat)) = true) := by
    simp only [Bool.and_eq_true, beq_iff_eq, not_and]
    exact fun hnow => by simp [calm hnow.symm]
  simp only [row, execReduceDeadline, h, State.expire, if_neg first]

section
variable {c b : Nat} {x : CollS} {e : Nat} (hx : s.coll c b = some x) (due : e ≤ s.now)
include hx due

/-- The deadline of phase 1 decides the slots at the root (R288). -/
theorem State.deadline_phase1 (armed : x.armed1 = true) (waits : x.expPassed = false) (expiry : x.expiry x.expAt = some e) :
    s.deadlineAt c b = some e ∧ s.runDeadline c b
      = (((s.updColl c b fun x => { x with expPassed := true }).rootCheck c b).collCheck c b).settle c := by
  have comes : s.deadlineAt c b = some e := by
    simp [State.deadlineAt, hx, armed, waits, expiry, due]
  simp [State.runDeadline, hx, comes, armed, waits, expiry, due]

/-- The deadline of phase 3 decides the slots at a reducer. -/
theorem State.deadline_phase3 (passed : x.expPassed = true) (armed : x.armed3 = true) (waits : x.conPassed = false)
    (expiry : x.expiry x.conAt = some e) :
    s.deadlineAt c b = some e ∧ s.runDeadline c b
      = (((s.updColl c b fun x => { x with conPassed := true }).reducerCheck c b).collCheck c b).settle c := by
  have comes : s.deadlineAt c b = some e := by
    simp [State.deadlineAt, hx, passed, armed, waits, expiry, due]
  simp [State.runDeadline, hx, comes, passed]

end

/-- A packet that a busy answer has sent back goes again 10 µs later (R291). -/
theorem exec_collBusyResend {n : BitVec 16} {q : W32} {u : Unacked} (hu : s.unacked n.toNat q.toNat = some u) :
    exec (.collBusyResend n q) s = .next (if u.pkt.cls ≠ 2 ∨ s.now < u.sentAt + 10000 then s
      else s.resend n.toNat q.toNat false) := by
  have row : exec (.collBusyResend n q) s = execCollBusyResend n q s := rfl
  simp only [row, execCollBusyResend, hu, Bool.or_eq_true, bne_iff_ne, decide_eq_true_eq]
  split <;> rfl

end

/-- Settles O22: commands by their checks, packets by their phase, and a deadline by the phase that it closes. -/
theorem collectivesRun : Obligations.CollectivesRun := by
  unfold Obligations.CollectivesRun
  refine ⟨fun h s => ⟨fun p r ok => ?gather, fun p r ok => ?scatter, fun u id c p d r hd hr => ?gatherStarts,
      fun u id c p d r hd hr => ?reduceStarts, fun p ok => ?reduceDesc, fun p ok => ?gatherDesc⟩,
    fun s n k hn cached => ⟨fun taken phase => ?exponent, fun taken phase => ?scale, fun taken phase => ?contribution,
      fun taken phase => ?slice, fun free => ?untied⟩,
    fun s => ⟨fun n q u hu => ⟨fun hcls hdue => ?resends, fun wait => ?rests⟩,
      fun c b => ⟨fun none => ?noDeadline, fun x e hx due calm =>
        ⟨fun armed waits expiry => ?phase1, fun passed armed waits expiry => ?phase3⟩⟩⟩⟩
  case gather => exact State.packet_guarded r (check := fun t c => t.gatherErr c p) ok _
  case scatter => exact State.packet_guarded r (check := fun t c => t.reduceErr c p) ok _
  case gatherStarts => exact State.withDesc_found hd hr _
  case reduceStarts => exact State.withDesc_found hd hr _
  case reduceDesc => exact State.chkDesc_none (State.chkDesc_of_reduceErr ok)
  case gatherDesc => exact State.chkDesc_none (State.chkDesc_of_gatherErr ok)
  case exponent => exact State.collRow_taken hn cached taken phase
  case scale => exact State.collRow_taken hn cached taken phase
  case contribution => exact State.collRow_taken hn cached taken phase
  case slice => exact State.collRow_taken hn cached taken phase
  case untied => exact if_neg (by rw [free, Bool.false_and]; decide)
  case resends => exact (exec_collBusyResend hu).trans (congrArg _ (if_neg (by simp [hcls, Nat.not_lt.2 hdue])))
  case rests => exact (exec_collBusyResend hu).trans (congrArg _ (if_pos wait))
  case noDeadline =>
    have row : exec (.reduceDeadline c b) s = execReduceDeadline c b s := rfl
    simp only [row, execReduceDeadline, none]
  case phase1 =>
    obtain ⟨comes, runs⟩ := State.deadline_phase1 hx due armed waits expiry
    rw [exec_reduceDeadline comes calm, runs]
  case phase3 =>
    obtain ⟨comes, runs⟩ := State.deadline_phase3 hx due passed armed waits expiry
    rw [exec_reduceDeadline comes calm, runs]

end Sys2Proof.Machine

namespace Sys2Proof.Machine
open Sys2Proof

/-! ### Fields of one bit -/

/-- A field of one bit reads back. -/
theorem bits_setBits_one (w : W64) {k v : Nat} (hk : k < 64) (hv : v < 2) : bits (setBits w k k v) k k = v := by
  have bit : (setBits w k k v).getLsbD k = decide (v = 1) := by
    have mask : (maskOf k k).getLsbD k = true := by simp [maskOf, BitVec.getLsbD_ofNat, hk, Nat.testBit_shiftLeft]
    simp only [setBits, BitVec.getLsbD_or, BitVec.getLsbD_and, BitVec.getLsbD_not, mask, BitVec.getLsbD_ofNat,
      Nat.testBit_shiftLeft]
    have hv : v = 0 ∨ v = 1 := by omega
    rcases hv with rfl | rfl <;> simp [hk]
  have lt : bits (setBits w k k v) k k < 2 ^ (k + 1 - k) := Nat.mod_lt _ (Nat.two_pow_pos _)
  rw [Nat.add_sub_cancel_left] at lt
  have one : bits (setBits w k k v) k k = 1 ↔ v = 1 := by
    rw [← beq_iff_eq, bits_one_beq, bit, decide_eq_true_eq]
  omega

/-! ### What the end of a drain leaves alone (R226, R244, R247, R250, R251) -/

/-- The flash layer, the images and the marks of a state. -/
def State.flashSide (s : State) : FtlS × List ImageS × NatSet := (s.ftl, s.images, s.poison)

section
variable (s : State)

theorem State.failWaits_flashSide (c p st : Nat) : (s.failWaits c p st).flashSide = s.flashSide :=
  (State.foldl_kept State.flashSide (fun t w => by cases w.flight <;> rfl) _ _).trans rfl

theorem State.copyQuotaFail_flashSide (c : Nat) : (s.copyQuotaFail c).flashSide = s.flashSide := by
  simp [State.flashSide, State.copyQuotaFail]

theorem State.beginCopy_flashSide (c p : Nat) : (s.beginCopy c p).flashSide = s.flashSide := rfl

theorem State.retryCredit_flashSide (c p : Nat) : (s.retryCredit c p).flashSide = s.flashSide := by
  unfold State.retryCredit
  dsimp only
  split
  · rfl
  · split
    · exact (State.copyQuotaFail_flashSide _ c).trans (s.failWaits_flashSide c p _)
    · exact (State.beginCopy_flashSide _ c p).trans (State.ite_kept State.flashSide rfl rfl)

theorem State.retryCredits_flashSide (c : Nat) : (s.retryCredits c).flashSide = s.flashSide :=
  State.foldl_kept State.flashSide (fun t (e : Nat × PageS) => t.retryCredit_flashSide c e.1) _ s

theorem State.retryCredits_ftl (c : Nat) : (s.retryCredits c).ftl = s.ftl := congrArg (·.1) (s.retryCredits_flashSide c)
theorem State.retryCredits_images (c : Nat) : (s.retryCredits c).images = s.images :=
  congrArg (·.2.1) (s.retryCredits_flashSide c)
theorem State.retryCredits_poison (c : Nat) : (s.retryCredits c).poison = s.poison :=
  congrArg (·.2.2) (s.retryCredits_flashSide c)

/-- An image that lets a frame go takes its credit back and at most zeroes it. -/
theorem State.imageLets_cases (c f : Nat) :
    s.imageLets c f = s.updCtx c (fun x => { x with creditsHeld := NatSet.del x.creditsHeld f })
    ∨ s.imageLets c f
      = (s.updCtx c (fun x => { x with creditsHeld := NatSet.del x.creditsHeld f })).zero (physFrame f 0) pageBytes := by
  unfold State.imageLets State.freeFrame
  dsimp only
  split
  · exact .inl rfl
  · split
    · exact .inl rfl
    · exact .inr rfl

theorem State.imageLets_ftl (c f : Nat) : (s.imageLets c f).ftl = s.ftl := by
  rcases s.imageLets_cases c f with h | h <;> rw [h] <;> rfl

theorem State.imageLets_images (c f : Nat) : (s.imageLets c f).images = s.images := by
  rcases s.imageLets_cases c f with h | h <;> rw [h] <;> rfl

theorem State.imageLets_reg (c f : Nat) (r : Reg) (i : Nat) : (s.imageLets c f).reg r i = s.reg r i := by
  rcases s.imageLets_cases c f with h | h <;> rw [h] <;> rfl

/-- A line of flash, or one beyond it, is no line of an HBM frame: its mark stays. -/
theorem State.imageLets_mark {f l : Nat} (hf : f < 2 ^ 40) (hl : 2 * memStride ≤ l * 64) (h : l ∈ s.poison) (c : Nat) :
    l ∈ (s.imageLets c f).poison := by
  rcases s.imageLets_cases c f with e | e <;> rw [e]
  · exact h
  · rw [State.zero_poison _ (physFrame_line f)]
    refine ⟨h, ?_⟩
    simp only [physFrame, memStride, pageBytes] at hl ⊢
    omega

/-- The frames that images still hold are frames of HBM. -/
def State.HeldInHbm (s : State) : Prop :=
  ∀ m ∈ s.images, m.st = .draining → ∀ p ∈ m.pages, p.drained = false → p.frame < 2 ^ 40

/-- A change of the first element of a kind changes an element of it. -/
theorem mem_updFirst {α : Type} {p : α → Bool} {f : α → α} {l : List α} {a : α} (h : a ∈ updFirst p f l) :
    a ∈ l ∨ ∃ b ∈ l, a = f b := by
  induction l with
  | nil => cases h
  | cons b l ih =>
    unfold updFirst at h
    split at h
    · rcases List.mem_cons.1 h with rfl | h
      · exact .inr ⟨b, List.mem_cons_self, rfl⟩
      · exact .inl (List.mem_cons_of_mem _ h)
    · rcases List.mem_cons.1 h with rfl | h
      · exact .inl List.mem_cons_self
      · rcases ih h with h | ⟨x, hx, rfl⟩
        · exact .inl (List.mem_cons_of_mem _ h)
        · exact .inr ⟨x, List.mem_cons_of_mem _ hx, rfl⟩

/-- The frames that a drain still holds. -/
def ImageS.undrained (m : ImageS) : List Nat := (m.pages.filter fun p => !p.drained).map fun p => p.frame

/-- A drain that fails: its record stays as failed, its frames are let go, and what waited for them goes on (R251). -/
theorem State.failImage_cases (id : Nat) : s.failImage id = s ∨ ∃ m ∈ s.images, m.st = .draining ∧ s.failImage id =
    (((m.undrained.foldl (fun (s : State) f => s.imageLets m.ctx f)
      (s.updImage id fun x => { x with st := .failed, key := false })).retryCredits m.ctx).orReg .eqxFlags m.ctx 8).raise
        0x0407 2 (some m.ctx) anchorDie [] := by
  unfold State.failImage
  split
  · exact .inl rfl
  · rename_i m hm
    split
    · exact .inl rfl
    · rename_i hst
      exact .inr ⟨m, List.mem_of_find?_eq_some hm, by simpa using hst, rfl⟩

theorem State.failImage_ftl (id : Nat) : (s.failImage id).ftl = s.ftl := by
  rcases s.failImage_cases id with h | ⟨m, -, -, h⟩ <;> rw [h]
  rw [State.raise_ftl, State.orReg_eq, State.setReg_ftl, State.retryCredits_ftl,
    State.foldl_kept (·.ftl) fun t f => t.imageLets_ftl m.ctx f]
  rfl

theorem State.failImage_reg {r : Reg} (hr : r ∉ .eqxFlags :: Reg.ofEvents) (id i : Nat) :
    (s.failImage id).reg r i = s.reg r i := by
  have events := List.not_mem_of_not_mem_cons hr
  rcases s.failImage_cases id with h | ⟨m, -, -, h⟩ <;> rw [h]
  rw [(State.raise_logged _ ..).reg r events, State.orReg_eq, State.setReg_reg_notMem _ hr List.mem_cons_self,
    State.retryCredits_reg _ i events, State.foldl_kept (·.reg r i) fun t f => t.imageLets_reg m.ctx f r i]
  rfl

theorem State.failImage_images (id : Nat) : (s.failImage id).images = s.images
    ∨ (s.failImage id).images = (s.updImage id fun x => { x with st := .failed, key := false }).images := by
  rcases s.failImage_cases id with h | ⟨m, -, -, h⟩ <;> rw [h]
  · exact .inl rfl
  · refine .inr ?_
    rw [State.raise_images, State.orReg_eq, State.setReg_images, State.retryCredits_images,
      State.foldl_kept (·.images) fun t f => t.imageLets_images m.ctx f]

section
variable {s : State} (held : s.HeldInHbm)
include held

/-- A failed image holds no frame. -/
theorem State.failImage_held (id : Nat) : (s.failImage id).HeldInHbm := by
  intro m hm hst
  rcases s.failImage_images id with h | h <;> rw [h] at hm
  · exact held m hm hst
  · rcases mem_updFirst hm with hm | ⟨b, -, rfl⟩
    · exact held m hm hst
    · cases hst

theorem State.failImage_mark {l : Nat} (hl : 2 * memStride ≤ l * 64) (h : l ∈ s.poison) (id : Nat) :
    l ∈ (s.failImage id).poison := by
  rcases s.failImage_cases id with e | ⟨m, hm, hst, e⟩ <;> rw [e]
  · exact h
  have lets : ∀ fs : List Nat, (∀ f ∈ fs, f < 2 ^ 40) → ∀ t : State, l ∈ t.poison →
      l ∈ (fs.foldl (fun (s : State) f => s.imageLets m.ctx f) t).poison := by
    intro fs
    induction fs with
    | nil => exact fun _ _ h => h
    | cons f fs ih =>
      intro hfs t ht
      exact ih (fun g hg => hfs g (List.mem_cons_of_mem _ hg)) _ (t.imageLets_mark (hfs f List.mem_cons_self) hl ht m.ctx)
  rw [State.raise_poison, State.orReg_eq, State.setReg_poison, State.retryCredits_poison]
  refine lets _ (fun f hf => ?_) _ h
  obtain ⟨p, hp, rfl⟩ := List.mem_map.1 hf
  exact held m hm hst p (List.mem_filter.1 hp).1 (by simpa using (List.mem_filter.1 hp).2)

theorem State.failDrains_mark {l : Nat} (hl : 2 * memStride ≤ l * 64) (h : l ∈ s.poison) : l ∈ s.failDrains.poison := by
  unfold State.failDrains
  generalize (s.images.filter fun m => m.st == .draining).map (fun m => m.id) = ids
  induction ids generalizing s with
  | nil => exact h
  | cons id ids ih => exact ih (State.failImage_held held id) (State.failImage_mark held hl h id)

end

theorem State.failDrains_ftl : s.failDrains.ftl = s.ftl := State.foldl_kept (·.ftl) State.failImage_ftl _ s

theorem State.failDrains_reg {r : Reg} (hr : r ∉ .eqxFlags :: Reg.ofEvents) (i : Nat) : s.failDrains.reg r i = s.reg r i :=
  State.foldl_kept (·.reg r i) (fun t id => t.failImage_reg hr id i) _ s

end

/-- A set with an element added is not empty. -/
theorem NatSet.ins_ne_nil (k : Nat) (m : NatSet) : (NatSet.ins k m).isEmpty = false := by
  cases h : NatSet.ins k m with
  | nil => exact absurd ((NatSet.mem_ins k k m).2 (.inl rfl)) (by simp [h])
  | cons => rfl

/-! ### Scrubs, bad blocks and lost channels (R224 to R226) -/

/-- A run of marked lines: those of the run, and those that were marked before. -/
theorem mem_markRun {lo n l : Nat} {m : NatSet} : l ∈ markRun lo n m ↔ (lo ≤ l ∧ l < lo + n) ∨ l ∈ m := by
  have run : l ∈ (List.range n).map (· + lo) ↔ lo ≤ l ∧ l < lo + n := by
    simp only [List.mem_map, List.mem_range]
    exact ⟨fun ⟨i, hi, e⟩ => by omega, fun h => ⟨l - lo, by omega, by omega⟩⟩
  simp only [markRun, List.mem_append, List.mem_filter, run, decide_eq_true_eq]
  constructor
  · rintro ((⟨h, -⟩ | h) | ⟨h, -⟩)
    · exact .inr h
    · exact .inl h
    · exact .inr h
  · rintro (h | h)
    · exact .inl (.inr h)
    · by_cases below : l < lo
      · exact .inl (.inl ⟨h, below⟩)
      · by_cases above : lo + n ≤ l
        · exact .inr ⟨h, above⟩
        · exact .inl (.inr ⟨by omega, by omega⟩)

section
variable (s : State)

/-- Poisoning flash pages marks every line of each of them, and no mark goes. -/
theorem State.poisonFpages_mark {fs : List Nat} {l : Nat}
    (h : l ∈ s.poison ∨ ∃ f ∈ fs, physFlash f 0 / 64 ≤ l ∧ l < physFlash f 0 / 64 + 32768) :
    l ∈ (fs.foldl State.poisonFpage s).poison := by
  induction fs generalizing s with
  | nil => simpa using h
  | cons f fs ih =>
    refine ih _ ?_
    rcases h with h | ⟨g, hg, hl⟩
    · exact .inl (mem_markRun.2 (.inr h))
    · rcases List.mem_cons.1 hg with rfl | hg
      · exact .inl (mem_markRun.2 (.inl hl))
      · exact .inr ⟨g, hg, hl⟩

/-- A channel works while its bit in FTL_CHANNELS stands. -/
theorem State.chanWorks_eq (k : Nat) : s.chanWorks k = (s.fld .ftlChannels 0 k k == 1) := by
  simp only [State.chanWorks, State.fld, bits, Nat.shiftRight_eq_div_pow, Nat.add_sub_cancel_left, Nat.pow_one]

/-- The pages that are served from channel `k`. -/
def State.fpagesOn (s : State) (k : Nat) : List Nat :=
  (s.pages.filter fun e => e.2.chan == k && (e.2.st == .flash || e.2.st == .up)).map fun e => e.2.fpage

/-- The flash pages that sealed images have on channel `k`. -/
def State.imageFpagesOn (s : State) (k : Nat) : List Nat :=
  (s.images.filter fun m => m.st == .sealed).flatMap fun m =>
    ((m.pages.filter fun p => p.drained && p.chan == k).map fun p => p.fpage)
    ++ (m.extra.filter fun e => e.2 == k).map fun e => e.1

/-- A channel that is lost: its bit goes, the pages on it are poisoned, and drains fail (R226, R251). -/
theorem State.dropChannel_eq (k : Nat) : s.dropChannel k =
    ((s.fpagesOn k ++ s.imageFpagesOn k).foldl State.poisonFpage (s.setFld .ftlChannels 0 k k 0)).failDrains.raise
      0x0305 2 none anchorDie [] := rfl

theorem State.dropChannel_chanWorks {k : Nat} (hk : k < 64) : (s.dropChannel k).chanWorks k = false := by
  have field : (s.dropChannel k).reg .ftlChannels 0 = setBits (s.reg .ftlChannels 0) k k 0 := by
    rw [State.dropChannel_eq, (State.raise_logged _ ..).reg _ (by decide), State.failDrains_reg _ (by decide),
      State.foldl_kept (·.reg .ftlChannels 0) (f := State.poisonFpage) fun _ _ => rfl]
    exact s.setReg_reg ..
  rw [State.chanWorks_eq, State.fld, field, bits_setBits_one _ hk (by decide)]
  rfl

/-- Every line of a page that was served from the lost channel is poisoned. -/
theorem State.dropChannel_mark {k : Nat} (held : s.HeldInHbm) {e : Nat × PageS} (he : e ∈ s.pages) (hk : e.2.chan = k)
    (served : e.2.st = .flash ∨ e.2.st = .up) {i : Nat} (hi : i < 32768) :
    physFlash e.2.fpage 0 / 64 + i ∈ (s.dropChannel k).poison := by
  have among : e.2.fpage ∈ s.fpagesOn k :=
    List.mem_map.2 ⟨e, List.mem_filter.2 ⟨he, by simpa [hk] using served⟩, rfl⟩
  have images : ((s.fpagesOn k ++ s.imageFpagesOn k).foldl State.poisonFpage (s.setFld .ftlChannels 0 k k 0)).images
      = s.images := State.foldl_kept (·.images) (f := State.poisonFpage) (fun _ _ => rfl) _ _
  rw [State.dropChannel_eq, State.raise_poison]
  refine State.failDrains_mark (fun m hm => held m (images ▸ hm)) ?_ (State.poisonFpages_mark _ (.inr
    ⟨_, List.mem_append_left _ among, by omega, by omega⟩))
  simp only [physFlash, memStride]
  omega

/-! The layer is read-only from the end of its spare area on (R226). -/

/-- A page on its way to flash stays in HBM. -/
def stayInHbm (e : Nat × PageS) : Nat × PageS := (e.1, if e.2.st == .down then { e.2 with st := .hbm } else e.2)

/-- A migration to flash ends with ST_FLASH_RO. -/
def State.endMigration (s : State) (id : Nat) : State :=
  s.updFlight id fun f => { f with status := St.flashRo, effect := 1, work := .plain }

/-- The layer becomes read-only: drains fail, migrations end, and pages on their way to flash stay (R226, R251). -/
theorem State.flashReadOnly_eq (h : s.ftl.readOnly = false) : ∃ (t : State) (ids : List Nat),
    t = ({ s with ftl := { s.ftl with readOnly := true } }.raise 0x0304 2 none anchorDie []).failDrains
    ∧ s.flashReadOnly = ids.foldl State.endMigration { t with pages := t.pages.map stayInHbm } :=
  ⟨_, _, rfl, if_neg (by simp [h])⟩

theorem State.flashReadOnly_idle (h : s.ftl.readOnly = true) : s.flashReadOnly = s := if_pos h

theorem State.flashReadOnly_readOnly : s.flashReadOnly.ftl.readOnly = true := by
  cases h : s.ftl.readOnly with
  | true => rw [s.flashReadOnly_idle h, h]
  | false =>
    obtain ⟨t, ids, ht, e⟩ := s.flashReadOnly_eq h
    have layer : t.ftl = { s.ftl with readOnly := true } := by rw [ht, State.failDrains_ftl, State.raise_ftl]
    rw [e, State.foldl_kept (·.ftl.readOnly) (f := State.endMigration) fun _ _ => rfl]
    exact congrArg FtlS.readOnly layer

theorem State.flashReadOnly_pages (h : s.ftl.readOnly = false) : ∀ e ∈ s.flashReadOnly.pages, e.2.st ≠ .down := by
  obtain ⟨t, ids, -, e⟩ := s.flashReadOnly_eq h
  rw [e, State.foldl_kept (·.pages) (f := State.endMigration) fun _ _ => rfl]
  intro p hp
  obtain ⟨q, -, rfl⟩ := List.mem_map.1 hp
  unfold stayInHbm
  dsimp only
  split
  · exact fun down => nomatch down
  · rename_i hq
    simpa using hq

/-! A scrub. -/

/-- The channels with a scrub show in FTL_STATE (R225). -/
theorem State.setScrubs_fld (l : NatSet) : (s.setScrubs l).fld .ftlState 0 1 1 = if l.isEmpty then 0 else 1 := by
  have field : (s.setScrubs l).reg .ftlState 0 = setBits (s.reg .ftlState 0) 1 1 (if l.isEmpty then 0 else 1) :=
    State.setReg_reg ..
  rw [State.fld, field, bits_setBits_one _ (by decide) (by split <;> decide)]

section
variable (host bytes : Nat)

@[simp] theorem State.nandWrite_ftl : (s.nandWrite host bytes).ftl = s.ftl := by
  rw [(s.nandWrite_logged host bytes).frame]; rfl

/-- Programming flash writes its two counters, and events their own registers (R224). -/
theorem State.nandWrite_reg {r : Reg} (hr : r ∉ [.ftlHostWritten, .ftlNandWritten] ++ Reg.ofEvents) (i : Nat) :
    (s.nandWrite host bytes).reg r i = s.reg r i := by
  rw [(s.nandWrite_logged host bytes).reg r fun h => hr (List.mem_append_right _ h)]
  exact (State.setReg_reg_notMem _ hr (by decide) i 0 _).trans (s.setReg_reg_notMem hr (by decide) i 0 _)

end

end

section
variable {s : State} {k : BitVec 5} (hk : inRange k.toNat s.nChan = true)
include hk

/-- The rows of a channel that the part has. -/
theorem exec_readDisturbScrub : exec (.readDisturbScrub k true) s = .next (s.setScrubs (NatSet.ins k.toNat s.ftl.scrubs))
    ∧ (s.ftl.scrubs.contains k.toNat = false → exec (.readDisturbScrub k false) s = .next s)
    ∧ (s.ftl.scrubs.contains k.toNat = true → exec (.readDisturbScrub k false) s =
        .next (((s.setScrubs (NatSet.del s.ftl.scrubs k.toNat)).bump .ftlScrubBlocks 0 1).nextFree.2.nandWrite 0
          (Config.freeNat s.freeCount))) := by
  have row : ∀ active, exec (.readDisturbScrub k active) s = execReadDisturbScrub k active s := fun _ => rfl
  refine ⟨?_, fun idle => ?_, fun scrubs => ?_⟩
  · simp [row, execReadDisturbScrub, hk]
  · simp only [row, execReadDisturbScrub, hk, idle]; rfl
  · simp only [row, execReadDisturbScrub, hk, scrubs]; rfl

theorem exec_badBlockDetect : exec (.badBlockDetect k true) s = .next s
    ∧ exec (.badBlockDetect k false) s = .next s.flashReadOnly := by
  have row : ∀ spare, exec (.badBlockDetect k spare) s = execBadBlockDetect k spare s := fun _ => rfl
  simp [row, execBadBlockDetect, hk]

theorem exec_flashChannelFailure : exec (.flashChannelFailure k) s
    = .next (if s.chanWorks k.toNat then s.dropChannel k.toNat else s) := by
  have row : exec (.flashChannelFailure k) s = execFlashChannelFailure k s := rfl
  simp [row, execFlashChannelFailure, hk]

end

/-- Settles O26: each row does what its case says, and the lost channel's pages are marked before the drains fail. -/
theorem flashLayerRows : Obligations.FlashLayerRows := by
  unfold Obligations.FlashLayerRows
  intro s k hk
  obtain ⟨begins, idle, ends⟩ := exec_readDisturbScrub hk
  obtain ⟨spare, spent⟩ := exec_badBlockDetect hk
  refine ⟨⟨_, begins, rfl, ?shown, rfl, rfl, rfl⟩,
    fun scrubs => ⟨_, ends scrubs, ?ended, ?shownLeft, ?counted, ?pages, ?flight⟩, idle, spare, spent,
    s.flashReadOnly_readOnly, s.flashReadOnly_idle, s.flashReadOnly_pages,
    fun works => ⟨?lost, s.dropChannel_chanWorks (by omega), fun held e he hchan served i hi => ?poisoned⟩,
    fun dead => ?dead⟩
  case shown => rw [State.setScrubs_fld, NatSet.ins_ne_nil]; rfl
  case ended => rw [State.nandWrite_ftl]; rfl
  case shownLeft =>
    rw [State.fld, State.nandWrite_reg _ _ _ (by decide)]
    have left := s.setScrubs_fld (NatSet.del s.ftl.scrubs k.toNat)
    rw [State.fld] at left
    refine (congrArg (bits · 1 1) ?_).trans left
    exact State.setReg_reg_ne _ _ _ _ (by decide)
  case counted =>
    rw [State.nandWrite_reg _ _ _ (by decide)]
    refine (State.setReg_reg ..).trans (congrArg (fun v => Reg.cut .ftlScrubBlocks (v + 1)) ?_)
    exact State.setReg_reg_ne _ _ _ _ (by decide)
  case pages => rw [State.nandWrite_pages]; rfl
  case flight => rw [State.nandWrite_flight]; rfl
  case lost => rw [exec_flashChannelFailure hk, if_pos works]
  case poisoned => exact s.dropChannel_mark held he hchan served hi
  case dead => rw [exec_flashChannelFailure hk, if_neg (by simp [dead])]

end Sys2Proof.Machine

namespace Sys2Proof.Machine
open Sys2Proof

/-! ### The rows of DECIDE (R236, R237) -/

section
variable {α : Type}

/-- Of the lowest entry so far and the next one, the lower; the earlier at a tie. -/
def lowerRank (o : Option (Nat × α)) (p : Nat × α) : Option (Nat × α) :=
  match o with
  | some q => if p.1 < q.1 then some p else o
  | none => some p

/-- The entry of the lowest rank. -/
def lowestRank (l : List (Nat × α)) : Option (Nat × α) := l.foldl lowerRank none

/-- Once there is a lowest entry, it stays or gives way to a later one. -/
theorem foldl_lowerRank (l : List (Nat × α)) (q : Nat × α) : ∃ p ∈ q :: l, l.foldl lowerRank (some q) = some p := by
  induction l generalizing q with
  | nil => exact ⟨q, List.mem_cons_self, rfl⟩
  | cons a l ih =>
    rw [List.foldl_cons, lowerRank]
    split
    · obtain ⟨p, hp, e⟩ := ih a
      exact ⟨p, List.mem_cons_of_mem _ hp, e⟩
    · obtain ⟨p, hp, e⟩ := ih q
      exact ⟨p, List.mem_cons.2 ((List.mem_cons.1 hp).imp_right (List.mem_cons_of_mem _)), e⟩

/-- A list with an entry has a lowest one, which is an entry of it. -/
theorem lowestRank_of_ne_nil {l : List (Nat × α)} (h : l ≠ []) : ∃ p ∈ l, lowestRank l = some p := by
  cases l with
  | nil => exact (h rfl).elim
  | cons a l => exact foldl_lowerRank l a

variable [DecidableEq α]

theorem firstDiffers_eq (l : List (Nat × α)) : firstDiffers l = match lowestRank l with
    | none => none
    | some p => (lowestRank (l.filter fun q => q.2 != p.2)).map fun q => q.1 := rfl

/-- A combined record names a rank for an item exactly where two records differ in it (R236). -/
theorem firstDiffers_isSome_iff (l : List (Nat × α)) : (firstDiffers l).isSome = true ↔ ∃ p ∈ l, ∃ q ∈ l, p.2 ≠ q.2 := by
  by_cases hl : l = []
  · subst hl
    simp [firstDiffers_eq, lowestRank]
  obtain ⟨p, hp, low⟩ := lowestRank_of_ne_nil hl
  simp only [firstDiffers_eq, low, Option.isSome_map]
  by_cases hd : l.filter (fun q => q.2 != p.2) = []
  · have same : ∀ q ∈ l, q.2 = p.2 := fun q hq => by
      simpa using List.filter_eq_nil_iff.1 hd q hq
    rw [hd]
    exact iff_of_false (by simp [lowestRank]) fun ⟨a, ha, b, hb, hne⟩ => hne ((same a ha).trans (same b hb).symm)
  · obtain ⟨q, hq, e⟩ := lowestRank_of_ne_nil hd
    obtain ⟨hql, hne⟩ := List.mem_filter.1 hq
    exact iff_of_true (by rw [e]; rfl) ⟨q, hql, p, hp, by simpa using hne⟩

end

section
variable {recs : List (Nat × ExRec)}

/-- Two members differ in an item exactly where the combined record names a rank for it (R236). -/
theorem firstDiffers_records {α : Type} [DecidableEq α] (item : ExRec → α) :
    (firstDiffers (recs.map fun p => (p.1, item p.2))).isSome = true ↔ ∃ p ∈ recs, ∃ q ∈ recs, item p.2 ≠ item q.2 := by
  rw [firstDiffers_isSome_iff]
  constructor
  · rintro ⟨p', hp', q', hq', hne⟩
    obtain ⟨p, hp, rfl⟩ := List.mem_map.1 hp'
    obtain ⟨q, hq, rfl⟩ := List.mem_map.1 hq'
    exact ⟨p, hp, q, hq, hne⟩
  · rintro ⟨p, hp, q, hq, hne⟩
    exact ⟨_, List.mem_map_of_mem hp, _, List.mem_map_of_mem hq, hne⟩

/-- The combined record names a rank for the epoch exactly where two members hold different ones. -/
theorem combine_epochRank : (combine recs).epochRank.isSome = true ↔
    ∃ a ∈ recs.map fun p => p.2.epoch.toNat, ∃ b ∈ recs.map fun p => p.2.epoch.toNat, a ≠ b := by
  refine (firstDiffers_records fun r => r.epoch).trans ⟨?_, ?_⟩
  · rintro ⟨p, hp, q, hq, hne⟩
    exact ⟨_, List.mem_map_of_mem hp, _, List.mem_map_of_mem hq, fun h => hne (BitVec.eq_of_toNat_eq h)⟩
  · rintro ⟨a, ha, b, hb, hne⟩
    obtain ⟨p, hp, rfl⟩ := List.mem_map.1 ha
    obtain ⟨q, hq, rfl⟩ := List.mem_map.1 hb
    exact ⟨p, hp, q, hq, fun h => hne (congrArg BitVec.toNat h)⟩

theorem combine_digestRank : (combine recs).digestRank.isSome = true ↔
    ∃ p ∈ recs, ∃ q ∈ recs, p.2.digest ≠ q.2.digest := firstDiffers_records fun r => r.digest

/-- Each step flag has its bit of EQX_LAST, and no other is set (R237). -/
theorem Combined.flags_bits (x : Combined) :
    (Combined.flags x / 2 % 2 = 1 ↔ x.nonfinite = true) ∧ (Combined.flags x / 4 % 2 = 1 ↔ x.poison = true)
    ∧ (Combined.flags x / 8 % 2 = 1 ↔ x.reductionMissing = true) ∧ (Combined.flags x / 16 % 2 = 1 ↔ x.copyQuota = true)
    ∧ (Combined.flags x = 0 ↔ x.nonfinite = false ∧ x.poison = false ∧ x.reductionMissing = false ∧ x.copyQuota = false) := by
  unfold Combined.flags
  cases x.nonfinite <;> cases x.poison <;> cases x.reductionMissing <;> cases x.copyQuota <;> decide

/-- No flag of the combined record is set exactly where no member has one. -/
theorem combine_flags_eq_zero_iff : Combined.flags (combine recs) = 0 ↔ ∀ p ∈ recs,
    p.2.nonfinite = false ∧ p.2.poison = false ∧ p.2.reductionMissing = false ∧ p.2.copyQuota = false := by
  obtain ⟨-, -, -, -, none⟩ := (combine recs).flags_bits
  rw [none]
  simp only [combine, List.any_eq_false, Bool.not_eq_true]
  exact ⟨fun ⟨nonfinite, poison, missing, quota⟩ p hp => ⟨nonfinite p hp, poison p hp, missing p hp, quota p hp⟩,
    fun h => ⟨fun p hp => (h p hp).1, fun p hp => (h p hp).2.1, fun p hp => (h p hp).2.2.1, fun p hp => (h p hp).2.2.2⟩⟩

/-! DECIDE with every record there: one lemma per row of R237. -/

variable {s : State} {c : Nat}

theorem State.verdict_epochs (h : (combine recs).epochRank.isSome = true) : s.verdict c recs false
    = ⟨false, true, 64, some 0x0403, (recs.filter fun p =>
        p.2.epoch.toNat != majorityEpoch (recs.map fun p => p.2.epoch.toNat)).map fun p => p.1⟩ := by
  simp only [State.verdict, Bool.false_eq_true, if_false, if_pos h]

section
variable (he : ¬ (combine recs).epochRank.isSome = true)
include he

theorem State.verdict_digests (h : (combine recs).digestRank.isSome = true) :
    s.verdict c recs false = ⟨false, true, 32, some 0x0404, []⟩ := by
  simp only [State.verdict, Bool.false_eq_true, if_false, if_neg he, if_pos h]

variable (hd : ¬ (combine recs).digestRank.isSome = true)
include hd

theorem State.verdict_flags (h : Combined.flags (combine recs) ≠ 0) : s.verdict c recs false
    = ⟨false, decide (s.fld .eqxCtrl c 3 0 ≤ (s.ctx c).attempt + 1), Combined.flags (combine recs), none, []⟩ := by
  simp only [State.verdict, Bool.false_eq_true, if_false, if_neg he, if_neg hd, bne_iff_ne, if_pos h]

theorem State.verdict_commits (h : Combined.flags (combine recs) = 0) :
    s.verdict c recs false = ⟨true, false, 0, none, []⟩ := by
  simp only [State.verdict, Bool.false_eq_true, if_false, if_neg he, if_neg hd, h, bne_self_eq_false]

end
end

/-- Settles O30: the rows in their order, each by what the combined record shows. -/
theorem decideTakesTheFirstRow : Obligations.DecideTakesTheFirstRow := by
  unfold Obligations.DecideTakesTheFirstRow
  intro s c recs v es
  have epochs_of (same : ∀ a ∈ es, ∀ b ∈ es, a = b) : ¬ (combine recs).epochRank.isSome = true := fun h => by
    obtain ⟨a, ha, b, hb, hne⟩ := combine_epochRank.1 h
    exact hne (same a ha b hb)
  have digests_of (same : ∀ p ∈ recs, ∀ q ∈ recs, p.2.digest = q.2.digest) :
      ¬ (combine recs).digestRank.isSome = true := fun h => by
    obtain ⟨p, hp, q, hq, hne⟩ := combine_digestRank.1 h
    exact hne (same p hp q hq)
  refine ⟨rfl, fun differ => ?epochs, fun same differ => State.verdict_digests (epochs_of same) (combine_digestRank.2 differ),
    fun same alike => ⟨fun flagged => ?flags, fun clean => State.verdict_commits (epochs_of same) (digests_of alike)
      (combine_flags_eq_zero_iff.2 clean)⟩⟩
  case epochs =>
    have row : v = _ := State.verdict_epochs (combine_epochRank.2 differ)
    rw [row]
    refine ⟨rfl, rfl, rfl, rfl, fun p hp hne => ?_, fun r hr => ?_⟩
    · exact List.mem_map_of_mem (List.mem_filter.2 ⟨hp, by simpa using hne⟩)
    · obtain ⟨p, hp, rfl⟩ := List.mem_map.1 hr
      exact ⟨p, (List.mem_filter.1 hp).1, rfl, by simpa using (List.mem_filter.1 hp).2⟩
  case flags =>
    have some_flag : Combined.flags (combine recs) ≠ 0 := fun h => by
      obtain ⟨p, hp, set⟩ := flagged
      obtain ⟨nonfinite, poison, missing, quota⟩ := combine_flags_eq_zero_iff.1 h p hp
      simp [nonfinite, poison, missing, quota] at set
    have row : v = _ := State.verdict_flags (epochs_of same) (digests_of alike) some_flag
    obtain ⟨nonfinite, poison, missing, quota, -⟩ := (combine recs).flags_bits
    rw [row]
    exact ⟨rfl, rfl, rfl, decide_eq_true_iff, nonfinite.trans List.any_eq_true, poison.trans List.any_eq_true,
      missing.trans List.any_eq_true, quota.trans List.any_eq_true⟩

/-! ### Majorities (R237, R262) -/

/-- Of the epochs `es`, `b` is held by more members than `e`, or by as many and is no higher. -/
def Leads (es : List Nat) (b e : Nat) : Prop := es.count e < es.count b ∨ (es.count e = es.count b ∧ b ≤ e)

section
variable {es : List Nat} {a b e : Nat}

theorem Leads.refl (es : List Nat) (b : Nat) : Leads es b b := .inr ⟨rfl, Nat.le_refl b⟩

theorem Leads.trans (h : Leads es a b) (h' : Leads es b e) : Leads es a e := by
  unfold Leads at *
  omega

/-- The leader so far and the next epoch: the one that leads the other goes on. -/
def lead (es : List Nat) (b e : Nat) : Nat :=
  if es.count b < es.count e ∨ (es.count b = es.count e ∧ e < b) then e else b

theorem lead_leads (es : List Nat) (b e : Nat) : Leads es (lead es b e) b ∧ Leads es (lead es b e) e := by
  unfold lead
  split
  · exact ⟨by unfold Leads; omega, .refl es e⟩
  · exact ⟨.refl es b, by unfold Leads; omega⟩

theorem lead_eq (es : List Nat) (b e : Nat) : lead es b e = b ∨ lead es b e = e := by
  unfold lead
  split
  · exact .inr rfl
  · exact .inl rfl

theorem majorityEpoch_eq (es : List Nat) : majorityEpoch es = es.foldl (lead es) (es.headD 0) := by
  have count (x : Nat) : (es.filter fun y => y == x).length = es.count x := List.countP_eq_length_filter.symm
  simp only [majorityEpoch, count, Bool.or_eq_true, Bool.and_eq_true, decide_eq_true_eq, beq_iff_eq]
  rfl

/-- The last leader is one of the epochs that were compared and leads each of them. -/
theorem foldl_lead (es l : List Nat) (b : Nat) : (l.foldl (lead es) b = b ∨ l.foldl (lead es) b ∈ l)
    ∧ Leads es (l.foldl (lead es) b) b ∧ ∀ e ∈ l, Leads es (l.foldl (lead es) b) e := by
  induction l generalizing b with
  | nil => exact ⟨.inl rfl, .refl es b, fun _ h => by cases h⟩
  | cons a l ih =>
    obtain ⟨among, first, rest⟩ := ih (lead es b a)
    obtain ⟨overB, overA⟩ := lead_leads es b a
    rw [List.foldl_cons]
    refine ⟨?_, first.trans overB, fun e he => ?_⟩
    · rcases among with h | h
      · rw [h]
        exact (lead_eq es b a).imp_right fun e => List.mem_cons.2 (.inl e)
      · exact .inr (List.mem_cons_of_mem _ h)
    · rcases List.mem_cons.1 he with rfl | he
      · exact first.trans overA
      · exact rest e he

end

/-- At most one root can be held by more than half of the members. -/
theorem root_unique_of_majority {ps : List (Nat × W64)} {v w : W64} (hv : ps.length < 2 * (ps.filter fun q => q.2 == v).length)
    (hw : ps.length < 2 * (ps.filter fun q => q.2 == w).length) : v = w := by
  refine Decidable.byContradiction fun hne => ?_
  have others : ps.countP (fun q => q.2 == w) ≤ ps.countP fun q => !(q.2 == v) :=
    List.countP_mono_left fun q _ hq => by
      rw [beq_iff_eq.1 hq, beq_false_of_ne (Ne.symm hne)]
      rfl
  have parts := ps.length_eq_countP_add_countP fun q => q.2 == v
  rw [← List.countP_eq_length_filter] at hv hw
  simp only [Bool.not_eq_true, Bool.decide_eq_false] at parts
  omega

/-- Settles O31: the kept epoch leads every other, and no two roots have a majority. -/
theorem majoritiesAreRight : Obligations.MajoritiesAreRight := by
  unfold Obligations.MajoritiesAreRight
  refine ⟨fun es hes => ?epoch, fun ps w => ⟨fun h => ?holds, fun ⟨three, most⟩ => ?found⟩⟩
  case epoch =>
    obtain ⟨among, -, leads⟩ := foldl_lead es es (es.headD 0)
    rw [majorityEpoch_eq]
    refine ⟨among.elim (fun h => ?_) id, leads⟩
    rw [h]
    cases es with
    | nil => exact (hes rfl).elim
    | cons a l => exact List.mem_cons_self
  case holds =>
    unfold majorityRoot at h
    split at h
    · cases h
    · rename_i three
      obtain ⟨p, hp, rfl⟩ := Option.map_eq_some_iff.1 h
      exact ⟨Nat.not_lt.1 three, by simpa using List.find?_some hp⟩
  case found =>
    obtain ⟨p, hp⟩ := List.exists_mem_of_length_pos (l := ps.filter fun q => q.2 == w) (by omega)
    obtain ⟨hmem, hw⟩ := List.mem_filter.1 hp
    have witness : (ps.find? fun p => decide (ps.length < 2 * (ps.filter fun q => q.2 == p.2).length)).isSome = true :=
      List.find?_isSome.2 ⟨p, hmem, by simpa [beq_iff_eq.1 hw] using most⟩
    obtain ⟨r, hr⟩ := Option.isSome_iff_exists.1 witness
    have root : r.2 = w := root_unique_of_majority (by simpa using List.find?_some hr) most
    rw [majorityRoot, if_neg (Nat.not_lt.2 three), hr, Option.map_some, root]

end Sys2Proof.Machine

namespace Sys2Proof.Machine
open Sys2Proof

/-! ### The end of a step copy (R244) -/

/-- A change of one element keeps, of the element found, what it keeps of every element. -/
theorem find?_map_updFirst {α β : Type} {p q : α → Bool} {f : α → α} {g : α → β} (hq : ∀ x, q (f x) = q x)
    (hg : ∀ x, g (f x) = g x) (l : List α) : ((updFirst p f l).find? q).map g = (l.find? q).map g := by
  induction l with
  | nil => rfl
  | cons a l ih =>
    unfold updFirst
    split <;> cases h : q a <;> simp [hq, hg, h, ih]

/-- The status of a command in flight. -/
def State.statusOf (s : State) (id : Nat) : Option Nat := (s.flightOf id).map fun f => f.status

/-- The command of a waiting store, if it has one, has not ended (R203). -/
def State.storeLives (s : State) (w : WaitStore) : Bool :=
  match w.flight with
  | some id => (match s.flightOf id with | some f => f.status == St.ok | none => true)
  | none => true

/-- A store that waited for the page's new frame lands, unless its command has ended (R203, R244). -/
def State.landStore (frame : Nat) (s : State) (w : WaitStore) : State :=
  if !s.storeLives w then s
  else
    let s := s.wr (physFrame frame (w.addr % pageBytes)) w.bytes w.poison
    match w.flight with
    | some id => s.updFlight id fun f => { f with made := true }
    | none => s

theorem State.landWaits_eq (s : State) (c p : Nat) : s.landWaits c p = (s.page c p).waits.foldl
    (State.landStore (s.page c p).frame) (s.setPage c p { s.page c p with waits := [] }) := rfl

section
variable (frame : Nat) (s : State) (w : WaitStore)

/-- A store that lands writes its bytes and notes in its command that an access has been made; one that does not changes
nothing. -/
theorem State.landStore_cases : State.landStore frame s w = s ∨
    State.landStore frame s w = s.wr (physFrame frame (w.addr % pageBytes)) w.bytes w.poison ∨
    ∃ id, State.landStore frame s w =
      (s.wr (physFrame frame (w.addr % pageBytes)) w.bytes w.poison).updFlight id fun f => { f with made := true } := by
  unfold State.landStore
  cases s.storeLives w
  · exact .inl rfl
  · cases w.flight
    · exact .inr (.inl rfl)
    · exact .inr (.inr ⟨_, rfl⟩)

theorem State.landStore_regs : (State.landStore frame s w).regs = s.regs := by
  rcases State.landStore_cases frame s w with h | h | ⟨id, h⟩ <;> rw [h] <;> rfl

theorem State.landStore_pages : (State.landStore frame s w).pages = s.pages := by
  rcases State.landStore_cases frame s w with h | h | ⟨id, h⟩ <;> rw [h] <;> rfl

theorem State.landStore_boot : (State.landStore frame s w).boot = s.boot := by
  rcases State.landStore_cases frame s w with h | h | ⟨id, h⟩ <;> rw [h] <;> rfl

theorem State.landStore_statusOf : (State.landStore frame s w).statusOf = s.statusOf := by
  rcases State.landStore_cases frame s w with h | h | ⟨id, h⟩
  · rw [h]
  · rw [h]
    rfl
  · rw [h]
    exact funext fun _ =>
      find?_map_updFirst (f := fun f : Flight => { f with made := true }) (fun _ => rfl) (fun _ => rfl) s.flight

/-- A store touches no byte outside its own. -/
theorem State.landStore_frame {a : Nat} (h : Apart a (physFrame frame (w.addr % pageBytes)) w.bytes.length) :
    (State.landStore frame s w).byte a = s.byte a := by
  have written := wr_frame s _ w.bytes w.poison a h
  rcases State.landStore_cases frame s w with e | e | ⟨id, e⟩ <;> rw [e]
  · exact written
  · exact written

/-- The bytes of a store whose command has not ended are there. -/
theorem State.landStore_byte (live : ∀ id, w.flight = some id → ∀ st, s.statusOf id = some st → st = St.ok)
    (clean : w.poison = false) {i : Nat} (hi : i < w.bytes.length) :
    (State.landStore frame s w).byte (physFrame frame (w.addr % pageBytes) + i) = w.bytes[i] := by
  have written := wr_byte s (physFrame frame (w.addr % pageBytes)) w.bytes i hi
  have lives : s.storeLives w = true := by
    unfold State.storeLives
    split
    · rename_i id hid
      split
      · rename_i g hg
        exact beq_iff_eq.2 (live id hid _ (by rw [State.statusOf, hg]; rfl))
      · rfl
    · rfl
  rw [State.landStore, lives, clean]
  cases w.flight <;> exact written

theorem State.foldl_landStore_frame {a : Nat} {ws : List WaitStore}
    (h : ∀ w ∈ ws, Apart a (physFrame frame (w.addr % pageBytes)) w.bytes.length) :
    (ws.foldl (State.landStore frame) s).byte a = s.byte a := by
  induction ws generalizing s with
  | nil => rfl
  | cons w ws ih =>
    exact (ih _ fun v hv => h v (List.mem_cons_of_mem _ hv)).trans
      (State.landStore_frame frame s w (h w List.mem_cons_self))

end

/-- The step copy of a page has filled frame `f`: the page is mapped to it, its old frame is its step-start frame, and no store
waits (R244). -/
def State.copied (s : State) (c p f : Nat) : State :=
  let x := s.page c p
  let y := { x with frame := f, stepStart := some x.frame, copying := none }
  ((s.copyMem (physFrame x.frame 0) (physFrame f 0) pageBytes).setPage c p y).setPage c p { y with waits := [] }

section
variable {s : State} {c p f : Nat}

theorem State.stepCopyDone_eq (h : (s.page c p).copying = some f) :
    s.stepCopyDone c p = (s.page c p).waits.foldl (State.landStore f) (s.copied c p f) := by
  simp only [State.stepCopyDone, h, State.landWaits_eq, State.setPage_page]
  rfl

/-- The new frame holds the bytes of the old one. -/
theorem State.copied_byte {i : Nat} (hi : i < 2097152) :
    (s.copied c p f).byte (physFrame f i) = s.byte (physFrame (s.page c p).frame i) := by
  have copy := copyMem_byte s (physFrame (s.page c p).frame 0) (physFrame f 0) pageBytes (physFrame f 0 + i)
  rw [if_pos ⟨Nat.le_add_right _ _, Nat.add_lt_add_left hi _⟩, Nat.add_sub_cancel_left] at copy
  exact copy

/-- No byte outside the new frame changes. -/
theorem State.copied_frame {a : Nat} (h : Apart a (physFrame f 0) 2097152) : (s.copied c p f).byte a = s.byte a :=
  (copyMem_byte s (physFrame (s.page c p).frame 0) (physFrame f 0) pageBytes a).trans
    (if_neg (by simp only [Apart, pageBytes] at h ⊢; omega))

/-- Beside memory the stores that waited change commands in flight alone. -/
theorem State.stepCopyDone_kept (h : (s.page c p).copying = some f) :
    (s.stepCopyDone c p).regs = s.regs ∧ (s.stepCopyDone c p).boot = s.boot
    ∧ (s.stepCopyDone c p).page c p
      = { s.page c p with frame := f, stepStart := some (s.page c p).frame, copying := none, waits := [] } := by
  rw [State.stepCopyDone_eq h]
  refine ⟨State.foldl_kept (·.regs) (State.landStore_regs f) _ _, State.foldl_kept (·.boot) (State.landStore_boot f) _ _, ?_⟩
  rw [State.page, State.foldl_kept (·.pages) (State.landStore_pages f)]
  exact State.setPage_page ..

end

/-- Settles O27: the copy fills the new frame, and then each store changes its own bytes alone. -/
theorem stepCopyEnds : Obligations.StepCopyEnds := by
  unfold Obligations.StepCopyEnds
  intro s c p x
  have row : exec (.stepCopyDone c p) s = execStepCopyDone c p s := rfl
  constructor
  · intro f copying hf hframe hne clear
    obtain ⟨regs, boot, page⟩ := State.stepCopyDone_kept copying
    have lands := State.stepCopyDone_eq copying
    refine ⟨s.stepCopyDone c.toNat p.toNat, by rw [row, execStepCopyDone, boot], by rw [page], by rw [page], by rw [page],
      by rw [page], regs, fun i hi ha => ?copied, fun a hout ha => ?rest, fun ws w hws clean live i hi => ?last⟩
    case copied =>
      rw [lands, State.foldl_landStore_frame f _ ha]
      exact State.copied_byte hi
    case rest =>
      rw [lands, State.foldl_landStore_frame f _ ha]
      exact State.copied_frame hout
    case last =>
      have status := State.foldl_kept State.statusOf (State.landStore_statusOf f) ws (s.copied c.toNat p.toNat f)
      rw [lands, hws, List.foldl_append]
      refine State.landStore_byte f _ w (fun id hid st hst => ?_) clean hi
      rw [status] at hst
      obtain ⟨g, hg, rfl⟩ := Option.map_eq_some_iff.1 hst
      exact live id g hid hg
  · intro idle
    have same : s.stepCopyDone c.toNat p.toNat = s := by
      rw [State.stepCopyDone]
      dsimp only
      rw [idle]
    rw [row, execStepCopyDone, same]

end Sys2Proof.Machine

namespace Sys2Proof.Machine
open Sys2Proof

/-! ### The own rank (R232) -/

section
variable {s t : State} {c : Nat}

/-- Local addresses that lie at the same places with the same bytes read the same. -/
theorem State.rdVa_congr (place : t.readPhys = s.readPhys) (byte : t.byte = s.byte) (c a n : Nat) :
    t.rdVa c a n = s.rdVa c a n := by
  induction n generalizing a with
  | zero => rfl
  | succ n ih =>
    rw [State.rdVa, State.rdVa, place, byte, ih]

/-- The registers that place the group table and say which member the part is. -/
def Reg.ofRank : List Reg := [.eqxGroup, .eqxGroupBase, .ngfPartId]

/-- The own rank is what memory and three registers make it. -/
theorem State.ownRank_congr (place : t.readPhys = s.readPhys) (byte : t.byte = s.byte)
    (regs : ∀ r ∈ Reg.ofRank, ∀ i, t.reg r i = s.reg r i) (c : Nat) : t.ownRank c = s.ownRank c := by
  have group := regs .eqxGroup (by decide)
  have base := regs .eqxGroupBase (by decide)
  have part := regs .ngfPartId (by decide)
  simp only [State.ownRank, State.members, State.member, State.rd32, State.fld, group, base, part,
    State.rdVa_congr place byte]

/-- Showing the digest writes its four registers alone (R337). -/
def Reg.ofDigest : List Reg := [.cfgDigest0, .cfgDigest1, .cfgDigest2, .cfgDigest3]

theorem State.showDigest_reg {r : Reg} (hr : r ∉ Reg.ofDigest) (i : Nat) : (s.showDigest c).reg r i = s.reg r i := by
  simp only [State.showDigest, State.setReg_reg_notMem _ hr (r' := .cfgDigest0) (by decide),
    State.setReg_reg_notMem _ hr (r' := .cfgDigest1) (by decide),
    State.setReg_reg_notMem _ hr (r' := .cfgDigest2) (by decide),
    State.setReg_reg_notMem _ hr (r' := .cfgDigest3) (by decide)]

theorem State.setReg_readPhys (s : State) (r : Reg) (i : Nat) (v : W64) : (s.setReg r i v).readPhys = s.readPhys := rfl
theorem State.setReg_byte (s : State) (r : Reg) (i : Nat) (v : W64) : (s.setReg r i v).byte = s.byte := rfl

theorem State.showDigest_ownRank : (s.showDigest c).ownRank c = s.ownRank c :=
  State.ownRank_congr (by simp only [State.showDigest, State.setReg_readPhys])
    (by simp only [State.showDigest, State.setReg_byte])
    (fun r hr => State.showDigest_reg (by revert hr; revert r; decide)) c

end

/-! ### The phases of an Equinox (R235 to R237, R240, R241, R261, R262, R340) -/

/-- The part has sent its record as that of its rank, and the context is in EXCHANGE (R235, R236). -/
def State.sendsRecord (s : State) (c rank : Nat) (r : ExRec) : State :=
  { s with out := { s.out with records := s.out.records ++ [(c, r)] } }.updCtx c fun x => { x with
    phase := .exchange, enteredAt := s.now, records := (x.records.filter fun p : Nat × ExRec => p.1 != rank) ++ [(rank, r)] }

theorem State.sendsRecord_ctx (s : State) (c rank : Nat) (r : ExRec) : (s.sendsRecord c rank r).ctx c = { s.ctx c with
    phase := .exchange, enteredAt := s.now
    records := ((s.ctx c).records.filter fun p : Nat × ExRec => p.1 != rank) ++ [(rank, r)] } := by
  unfold State.sendsRecord
  exact State.setCtx_ctx ..

theorem State.sendsRecord_kept (s : State) (c rank : Nat) (r : ExRec) : (s.sendsRecord c rank r).mem = s.mem
    ∧ (s.sendsRecord c rank r).pages = s.pages ∧ (s.sendsRecord c rank r).flight = s.flight := ⟨rfl, rfl, rfl⟩

/-- Showing the digest changes registers alone. -/
theorem State.showDigest_kept (s : State) (c : Nat) : (s.showDigest c).now = s.now ∧ (s.showDigest c).mem = s.mem
    ∧ (s.showDigest c).pages = s.pages ∧ (s.showDigest c).flight = s.flight := by
  simp [State.showDigest]

section
variable {s : State} {c : BitVec 6}

/-- DRAIN ends with the part's own record (R235, R236, R337). -/
theorem exec_eqxDrainDone (phase : (s.ctx c.toNat).phase = .drain) (ended : s.drained c.toNat = true) :
    exec (.eqxDrainDone c) s = .next (((s.showDigest c.toNat).sendsRecord c.toNat ((s.ownRank c.toNat).getD 0)
      ((s.showDigest c.toNat).ownRecord c.toNat)).tryEqx c.toNat) := by
  have row : exec (.eqxDrainDone c) s = execEqxDrainDone c s := rfl
  rw [row, execEqxDrainDone]
  dsimp only
  rw [if_neg (by rw [phase, ended]; decide), State.showDigest_ownRank]
  rfl

/-- The timeout of a context that is not running out does nothing. -/
theorem exec_eqxTimeout_idle (idle : (s.ctx c.toNat).phase ≠ .exchange ∨ s.now < s.eqxExpiry c.toNat) :
    exec (.eqxTimeout c) s = .next s := by
  have row : exec (.eqxTimeout c) s = execEqxTimeout c s := rfl
  have calm : s.eqxDue c.toNat = false := by
    rcases idle with h | h
    · simp [State.eqxDue, h]
    · simp [State.eqxDue, h]
  rw [row, execEqxTimeout]
  simp [calm]

section
variable (phase : (s.ctx c.toNat).phase = .exchange) (works : s.boot.partFault = false) (expired : s.eqxExpiry c.toNat ≤ s.now)
include phase works expired

/-- The timeout of an Equinox in EXCHANGE that has run out, as R340 orders it after a record of its own cycle. -/
theorem exec_eqxTimeout_due : exec (.eqxTimeout c) s
    = .next (s.expire (.eqxTimeout c) (s.eqxExpiry c.toNat) (isRecordOf c) fun s => s.eqxExpired c.toNat)
    ∧ s.eqxExpired c.toNat = s.decideEqx c.toNat true := by
  have row : exec (.eqxTimeout c) s = execEqxTimeout c s := rfl
  have due : s.eqxDue c.toNat = true := by simp [State.eqxDue, phase, works, expired]
  exact ⟨by rw [row, execEqxTimeout]; simp only [due, if_true], by rw [State.eqxExpired, due, if_pos rfl]⟩

theorem exec_eqxTimeout_decides (calm : s.eqxExpiry c.toNat = s.now → s.comes (isRecordOf c) = false) :
    exec (.eqxTimeout c) s = .next (s.decideEqx c.toNat true) := by
  obtain ⟨runs, decides⟩ := exec_eqxTimeout_due phase works expired
  have first : ¬ ((s.now == s.eqxExpiry c.toNat && s.comes (isRecordOf c)) = true) := by
    simp only [Bool.and_eq_true, beq_iff_eq, not_and]
    exact fun now => by simp [calm now.symm]
  rw [runs, State.expire, if_neg first, decides]

theorem exec_eqxTimeout_tied (now : s.eqxExpiry c.toNat = s.now) (comes : s.comes (isRecordOf c) = true) :
    exec (.eqxTimeout c) s = .next { s with tied := s.tied ++ [.eqxTimeout c] } := by
  obtain ⟨runs, -⟩ := exec_eqxTimeout_due phase works expired
  rw [runs, State.expire, if_pos (by simp [now, comes])]

end

theorem exec_eqxSyncPulseEnd {e : Nat} (pulse : s.clk.syncEnd = some e) (ended : e ≤ s.now) :
    exec .eqxSyncPulseEnd s = .next { s with clk := { s.clk with syncEnd := none } } := by
  have row : exec .eqxSyncPulseEnd s = execEqxSyncPulseEnd s := rfl
  simp only [row, execEqxSyncPulseEnd, pulse, if_neg (Nat.not_lt.2 ended)]

/-- The state once the part has sent its root and taken it for its own rank (R261). -/
def State.rooted (s : State) (c r : Nat) : State :=
  let w := (s.ctx c).ownRoot
  let s := { s with out := { s.out with roots := s.out.roots ++ [(c, w)] } }
  s.updCtx c fun x => { x with roots := x.roots ++ [(r, w)] }

theorem State.rooted_kept (s : State) (c r : Nat) : ((s.rooted c r).ctx c).roots = (s.ctx c).roots ++ [(r, (s.ctx c).ownRoot)]
    ∧ (s.rooted c r).mem = s.mem ∧ (s.rooted c r).regs = s.regs := by
  refine ⟨?_, rfl, rfl⟩
  rw [State.rooted, State.updCtx_eq, State.setCtx_ctx]
  rfl

theorem exec_digestComputeDone {r : Nat} (phase : (s.ctx c.toNat).phase = .digest) (rank : s.ownRank c.toNat = some r)
    (absent : ((s.ctx c.toNat).roots.any fun p => p.1 == r) = false) :
    exec (.digestComputeDone c) s = .next ((s.rooted c.toNat r).tryDigest c.toNat) := by
  have row : exec (.digestComputeDone c) s = execDigestComputeDone c s := rfl
  rw [row, execDigestComputeDone]
  simp only [rank, phase, absent]
  rfl

/-! A member's record or root that the part takes, or drops as late. -/

section
variable {r : BitVec 16} (answers : s.answers c.toNat = true) (other : s.ownRank c.toNat ≠ some r.toNat)
  (member : (s.unfenced c.toNat).contains r.toNat = true)
include answers other member

theorem exec_digestRootReceive (w : W64) (awake : (s.ctx c.toNat).phase ≠ .held)
    (absent : ((s.ctx c.toNat).roots.any fun p => p.1 == r.toNat) = false) :
    exec (.digestRootReceive c r w) s = .next ((s.updCtx c.toNat fun x =>
      { x with roots := x.roots ++ [(r.toNat, w)] }).tryDigest c.toNat) := by
  have row : exec (.digestRootReceive c r w) s = execDigestRootReceive c r w s := rfl
  rw [row, execDigestRootReceive]
  simp only [answers, beq_false_of_ne other, member, beq_false_of_ne awake, absent, Bool.not_true, Bool.or_false,
    Bool.false_eq_true, if_false]

variable (absent : ((s.ctx c.toNat).records.any fun p => p.1 == r.toNat) = false) (rec : ExRec)
include absent

theorem State.takeRecord_late (late : (s.ctx c.toNat).lateRecs.contains r.toNat = true) :
    let t := { s with freeCount := s.freeCount + 1 }.updCtx c.toNat fun x =>
      { x with lateRecs := dropFirst (fun y => y == r.toNat) x.lateRecs }
    s.takeRecord c.toNat r.toNat rec
      = if Config.isLate s.freeCount then t.lateDrop else t.joinRecord c.toNat r.toNat rec := by
  rw [State.takeRecord]
  simp only [answers, beq_false_of_ne other, member, absent, late, Bool.not_true, Bool.or_false, Bool.false_eq_true, if_false,
    if_true]
  rfl

theorem State.takeRecord_joins (late : (s.ctx c.toNat).lateRecs.contains r.toNat = false) :
    s.takeRecord c.toNat r.toNat rec = s.joinRecord c.toNat r.toNat rec := by
  rw [State.takeRecord]
  simp only [answers, beq_false_of_ne other, member, absent, late, Bool.not_true, Bool.or_false, Bool.false_eq_true, if_false]

end
end

section
variable {s : State} {c : Nat} (r : Nat) (rec : ExRec)

/-- A record that comes after the expiry is dropped, and its rank noted (R340). -/
theorem State.joinRecord_tardy (phase : (s.ctx c).phase = .exchange) (expired : s.eqxExpiry c < s.now) :
    s.joinRecord c r rec = (s.updCtx c fun x => { x with tardy := NatSet.ins r x.tardy }).lateDrop := by
  rw [State.joinRecord]
  exact if_pos (by simp [phase, expired])

/-- A record that comes before the expiry, or outside EXCHANGE, is combined (R236). -/
theorem State.joinRecord_taken (early : (s.ctx c).phase = .exchange → s.now < s.eqxExpiry c) : s.joinRecord c r rec
    = (s.updCtx c fun x => { x with records := x.records ++ [(r, rec)] }).tryEqx c := by
  have inTime : ¬ (((s.ctx c).phase == .exchange && decide (s.eqxExpiry c < s.now)) = true) := by
    simp only [Bool.and_eq_true, beq_iff_eq, decide_eq_true_eq, not_and, Nat.not_lt]
    exact fun h => Nat.le_of_lt (early h)
  have untied : ((s.ctx c).phase == .exchange && s.now == s.eqxExpiry c) = false := by
    simp only [Bool.and_eq_false_imp, beq_iff_eq, beq_eq_false_iff_ne]
    exact fun h => Nat.ne_of_lt (early h)
  rw [State.joinRecord]
  dsimp only
  rw [if_neg inTime, untied]
  rfl

end

/-- Settles O29: the commands by their checks, each row by the phase and the records it finds. -/
theorem equinoxRuns : Obligations.EquinoxRuns := by
  unfold Obligations.EquinoxRuns
  refine ⟨fun h s => ⟨fun k r ok => ?barrier, fun p r ok => ?protect, fun r held => ?resume, fun r idle => ?refused⟩,
    fun s c => ⟨fun phase ended => ?drain, fun r rec => ⟨?record, fun free f body => ?untied,
        fun answers other member absent => ⟨fun late => State.takeRecord_late answers other member absent rec late,
          fun late phase expired => ?tardy, fun late early => ?taken⟩⟩,
      fun phase works expired => ⟨exec_eqxTimeout_decides phase works expired, exec_eqxTimeout_tied phase works expired⟩,
      exec_eqxTimeout_idle, fun e pulse ended => exec_eqxSyncPulseEnd pulse ended,
      fun r phase rank absent => ⟨_, exec_digestComputeDone phase rank absent, s.rooted_kept c.toNat r⟩,
      fun r w answers other member awake absent => exec_digestRootReceive answers other member w awake absent⟩⟩
  case barrier => exact State.packet_guarded r (check := fun t c => t.barrierErr c) ok _
  case protect => exact State.packet_guarded r (check := fun t c => t.protectErr c p) ok _
  case resume =>
    exact State.packet_guarded r (check := fun t c => errIf ((t.ctx c).phase != .held) (Err.state St.badField))
      (by simp [errIf, held]) _
  case refused => exact State.packet_answers r (by simp [errIf, idle, State.guarded])
  case drain =>
    obtain ⟨now, mem, pages, flight⟩ := s.showDigest_kept c.toNat
    have run := exec_eqxDrainDone phase ended
    generalize (s.showDigest c.toNat).ownRecord c.toNat = rec at run ⊢
    generalize s.showDigest c.toNat = u at run now mem pages flight
    have ctx := u.sendsRecord_ctx c.toNat ((s.ownRank c.toNat).getD 0) rec
    obtain ⟨mem', pages', flight'⟩ := u.sendsRecord_kept c.toNat ((s.ownRank c.toNat).getD 0) rec
    exact ⟨_, run, by rw [ctx], by rw [ctx]; exact now, mem'.trans mem, pages'.trans pages, flight'.trans flight,
      by simp [ctx]⟩
  case record => rfl
  case untied => exact if_neg (by rw [free, Bool.false_and]; decide)
  case tardy => rw [State.takeRecord_joins answers other member absent rec late, State.joinRecord_tardy _ _ phase expired]
  case taken => rw [State.takeRecord_joins answers other member absent rec late, State.joinRecord_taken _ _ early]

end Sys2Proof.Machine

namespace Sys2Proof.Machine
open Sys2Proof

/-! ### What leaves the images and the flash pages in use alone (R249, R250, R266, R268, R397) -/

/-- The images of a state, and the next flash page to be used. -/
def State.imageSide (s : State) : List ImageS × Nat := (s.images, s.nextFpage)

section
variable (s : State)

theorem State.images_of_imageSide {s t : State} (h : t.imageSide = s.imageSide) : t.images = s.images := congrArg Prod.fst h
theorem State.nextFpage_of_imageSide {s t : State} (h : t.imageSide = s.imageSide) : t.nextFpage = s.nextFpage :=
  congrArg Prod.snd h

theorem State.setReg_imageSide (r : Reg) (i : Nat) (v : W64) : (s.setReg r i v).imageSide = s.imageSide := rfl
theorem State.wr_imageSide (a : Nat) (bs : List Byte) (p : Bool) : (s.wr a bs p).imageSide = s.imageSide := rfl

theorem State.Logged.imageSide {s t : State} (h : s.Logged t) : t.imageSide = s.imageSide := by
  rw [State.imageSide, h.frame]
  rfl

theorem State.nandWrite_imageSide (host bytes : Nat) : (s.nandWrite host bytes).imageSide = s.imageSide :=
  (s.nandWrite_logged host bytes).imageSide

theorem State.failWaits_imageSide (c p st : Nat) : (s.failWaits c p st).imageSide = s.imageSide :=
  (State.foldl_kept State.imageSide (fun t w => by cases w.flight <;> rfl) _ _).trans rfl

theorem State.beginCopy_imageSide (c p : Nat) : (s.beginCopy c p).imageSide = s.imageSide := rfl

theorem State.retryCredit_imageSide (c p : Nat) : (s.retryCredit c p).imageSide = s.imageSide := by
  unfold State.retryCredit
  dsimp only
  split
  · rfl
  · split
    · exact (State.raise_logged _ ..).imageSide.trans (s.failWaits_imageSide c p _)
    · exact (State.beginCopy_imageSide _ c p).trans (State.ite_kept State.imageSide rfl rfl)

theorem State.retryCredits_imageSide (c : Nat) : (s.retryCredits c).imageSide = s.imageSide :=
  State.foldl_kept State.imageSide (fun t (e : Nat × PageS) => t.retryCredit_imageSide c e.1) _ s

theorem State.imageLets_imageSide (c f : Nat) : (s.imageLets c f).imageSide = s.imageSide := by
  rcases s.imageLets_cases c f with h | h <;> rw [h] <;> rfl

theorem State.writeTags_imageSide (m : ImageS) : (s.writeTags m).imageSide = s.imageSide := by
  unfold State.writeTags
  exact State.foldl_kept State.imageSide (fun t _ => t.wr_imageSide ..) _ s

theorem State.endDrain_imageSide (id : Nat) : (s.endDrain id).imageSide = s.imageSide := by
  unfold State.endDrain
  split
  · split
    · rfl
    · exact (State.nandWrite_imageSide ..).trans (s.writeTags_imageSide _)
  · rfl

/-! A response that goes out. -/

theorem State.fillFlits_imageSide (n : Nat) (k : Pkt) : (s.fillFlits n k).imageSide = s.imageSide := by
  unfold State.fillFlits
  dsimp only
  rw [State.foldl_kept State.imageSide (fun t e => by split <;> rfl)]
  split
  · unfold State.closeFlit
    split <;> rfl
  · rfl

theorem State.countSent_imageSide (n : Nat) (k : Pkt) : (s.countSent n k).2.imageSide = s.imageSide := by
  unfold State.countSent
  dsimp only
  split <;> rfl

theorem State.lanWrite_imageSide (x : LanRec) (time : Nat) : (s.lanWrite x time).imageSide = s.imageSide := by
  unfold State.lanWrite
  dsimp only
  split
  · split
    · rfl
    · exact (State.raise_logged _ ..).imageSide
  · rw [State.setReg_imageSide, State.wr_imageSide]

theorem State.lanSend_imageSide (n e : Nat) (o : Outgoing) : (s.lanSend n e o).imageSide = s.imageSide := by
  unfold State.lanSend
  split
  · rfl
  · exact State.ite_kept State.imageSide (s.lanWrite_imageSide _ _) rfl

theorem State.emit_imageSide (n : Nat) (o : Outgoing) : (s.emit n o).imageSide = s.imageSide := by
  unfold State.emit
  dsimp only
  refine (State.lanSend_imageSide ..).trans ((State.countSent_imageSide ..).trans ?_)
  split
  · rw [State.bump_eq, State.setReg_imageSide]
    exact (State.fillFlits_imageSide ..).trans rfl
  · exact (State.fillFlits_imageSide ..).trans rfl

theorem State.respond_imageSide (k : Pkt) : (s.respond k).imageSide = s.imageSide := by
  unfold State.respond State.throughEpt State.respondNow
  split
  · rfl
  · dsimp only
    split
    · split
      · exact State.ite_kept State.imageSide (State.emit_imageSide ..) rfl
      · rfl
    · rfl

theorem State.sendLate_imageSide : s.sendLate.imageSide = s.imageSide :=
  State.foldl_kept State.imageSide (fun t (e : Nat × Pkt) => t.respond_imageSide e.2) _ _

end

/-! ### The drain of a page (R250, R251) -/

/-- Where the first element of a kind is changed and stays of that kind, it is still the first. -/
theorem find?_updFirst_of_imp {α : Type} {p : α → Bool} {f : α → α} (hf : ∀ x, p x = true → p (f x) = true) (l : List α) :
    (updFirst p f l).find? p = (l.find? p).map f := by
  induction l with
  | nil => rfl
  | cons a l ih => cases ha : p a <;> simp [updFirst, ha, hf, ih]

theorem State.image_id {s : State} {id : Nat} {m : ImageS} (h : s.image id = some m) : m.id = id := by
  simpa using List.find?_some h

/-- An image that is changed is found, changed, under its number. -/
theorem State.image_updImage {s : State} {id : Nat} {m : ImageS} (h : s.image id = some m) {g : ImageS → ImageS}
    (hg : ∀ m, m.id = id → (g m).id = id) : (s.updImage id g).image id = some (g m) :=
  (find?_updFirst_of_imp (fun m hm => by simpa using hg m (by simpa using hm)) s.images).trans (congrArg (Option.map g) h)

/-- An image drains, and `ps` are its pages. -/
def State.DrainsWith (s : State) (id : Nat) (ps : List ImgPage) : Prop :=
  ∃ m, s.image id = some m ∧ m.st = .draining ∧ m.pages = ps

section
variable {s : State} {m : ImageS} {ps : List ImgPage}

theorem State.DrainsWith.of_images {t : State} {id : Nat} (h : s.DrainsWith id ps) (e : t.images = s.images) :
    t.DrainsWith id ps := by
  unfold State.DrainsWith State.image at *
  rwa [e]

theorem State.sealSeg_nextFpage (s : State) (m : ImageS) (n dst : Nat) (plain : List Byte) (bad : List Nat) :
    (s.sealSeg m n dst plain bad).nextFpage = s.nextFpage := rfl

/-- Sealing a segment adds marks to its image and nothing else. -/
theorem State.sealSeg_drainsWith (h : s.DrainsWith m.id ps) (n dst : Nat) (plain : List Byte) (bad : List Nat) :
    (s.sealSeg m n dst plain bad).DrainsWith m.id ps := by
  obtain ⟨x, hx, hst, hps⟩ := h
  exact ⟨_, State.image_updImage (s := (s.wr ..).markLines _) hx fun _ hm => hm, hst, hps⟩

variable (i : Nat) (p : ImgPage) (fpage chan : Nat)

/-- The page as it is once it has drained to a flash page. -/
def ImgPage.drainedTo (p : ImgPage) (fpage chan : Nat) : ImgPage := { p with drained := true, fpage := fpage, chan := chan }

/-- The 32 segments of a data page are written to its flash page. -/
def State.sealPage (s : State) (m : ImageS) (i : Nat) (p : ImgPage) (fpage : Nat) : State :=
  let src := physFrame p.frame 0
  (List.range 32).foldl (fun (s : State) k =>
    s.sealSeg m (m.dataSeg i + k) (physFlash fpage (segBytes * k)) (s.rdRange (src + segBytes * k) segBytes)
      ((s.poisonIn (src + segBytes * k) segBytes).map fun l => l - (src + segBytes * k) / 64)) s

theorem State.sealPage_drainsWith (h : s.DrainsWith m.id ps) : (s.sealPage m i p fpage).DrainsWith m.id ps := by
  unfold State.sealPage
  exact List.foldlRecOn (motive := fun t : State => t.DrainsWith m.id ps) _ _ h
    fun _ ht _ _ => State.sealSeg_drainsWith ht _ _ _ _

theorem State.sealPage_nextFpage : (s.sealPage m i p fpage).nextFpage = s.nextFpage := by
  unfold State.sealPage
  refine State.foldl_kept (fun t : State => t.nextFpage) (fun t k => ?_) _ s
  exact t.sealSeg_nextFpage ..

/-- The image's record of a page that has drained. -/
def ImageS.withDrained (p : ImgPage) (fpage chan : Nat) (m : ImageS) : ImageS :=
  { m with pages := updFirst (fun (x : ImgPage) => x.page == p.page) (fun _ => p.drainedTo fpage chan) m.pages }

theorem State.drainPage_eq : s.drainPage m i p fpage chan
    = (((s.sealPage m i p fpage).updImage m.id (ImageS.withDrained p fpage chan)).imageLets m.ctx p.frame).nandWrite
      pageBytes pageBytes := rfl

theorem State.drainPage_imageSide : (s.drainPage m i p fpage chan).imageSide
    = ((s.sealPage m i p fpage).updImage m.id (ImageS.withDrained p fpage chan)).imageSide := by
  rw [State.drainPage_eq, State.nandWrite_imageSide, State.imageLets_imageSide]

/-- The data page has its place in flash, and the image goes on draining. -/
theorem State.drainPage_drainsWith (h : s.DrainsWith m.id ps) : (s.drainPage m i p fpage chan).DrainsWith m.id
    (updFirst (fun x => x.page == p.page) (fun _ => p.drainedTo fpage chan) ps) := by
  obtain ⟨x, hx, hst, rfl⟩ := State.sealPage_drainsWith i p fpage h
  refine State.DrainsWith.of_images ?_ (State.images_of_imageSide (State.drainPage_imageSide i p fpage chan))
  exact ⟨ImageS.withDrained p fpage chan x, State.image_updImage hx fun _ hm => hm, hst, rfl⟩

theorem State.drainPage_nextFpage : (s.drainPage m i p fpage chan).nextFpage = s.nextFpage := by
  rw [State.nextFpage_of_imageSide (State.drainPage_imageSide i p fpage chan), State.updImage_nextFpage,
    State.sealPage_nextFpage]

end

end Sys2Proof.Machine

namespace Sys2Proof.Machine
open Sys2Proof

/-- The next flash page is taken, on channel `k` (R221). -/
def State.fpageTaken (s : State) (k : Nat) : State :=
  { s with nextFpage := s.nextFpage + 1, ftl := { s.ftl with nextChan := (k + 1) % 32 } }

/-- A page of an image is written, and what waited for its frame goes on (R247, R250); after a part fault no response goes out
(R370). -/
def State.pageDrained (s : State) (m : ImageS) (i : Nat) (q : ImgPage) (fpage chan : Nat) : State :=
  let t := ((s.drainPage m i q fpage chan).endDrain m.id).retryCredits m.ctx
  if t.boot.partFault then t else t.sendLate

theorem State.pageDrained_imageSide (s : State) (m : ImageS) (i : Nat) (q : ImgPage) (fpage chan : Nat) :
    (s.pageDrained m i q fpage chan).imageSide = (s.drainPage m i q fpage chan).imageSide := by
  have goesOn : (((s.drainPage m i q fpage chan).endDrain m.id).retryCredits m.ctx).imageSide
      = (s.drainPage m i q fpage chan).imageSide := by
    rw [State.retryCredits_imageSide, State.endDrain_imageSide]
  unfold State.pageDrained
  dsimp only
  split
  · exact goesOn
  · exact (State.sendLate_imageSide _).trans goesOn

/-- Page `q` of image `m` is due to drain, as the row CKPT_PAGE_DRAINED checks it (R250). -/
structure State.DrainDue (s : State) (n : W32) (p : BitVec 24) (m : ImageS) (q : ImgPage) : Prop where
  image : s.image n.toNat = some m
  draining : m.st = .draining
  page : m.pages.find? (fun x => x.page == p.toNat) = some q
  left : q.drained = false
  next : (s.drainNext m).contains q.page = true
  channel : ∃ k, k < 32 ∧ s.chanWorks k = true

section
variable {s : State} {n : W32} {p : BitVec 24} {m : ImageS} {q : ImgPage} (due : s.DrainDue n p m q)
include due

theorem State.DrainDue.number : q.page = p.toNat := by
  simpa using List.find?_some due.page

/-- What the row CKPT_PAGE_DRAINED does with a page that is due. -/
theorem exec_ckptPageDrained : ∃ i k, s.chanWorks k = true
    ∧ (s.ftl.readOnly = true → exec (.ckptPageDrained n p) s = .next (s.failImage m.id))
    ∧ (s.ftl.readOnly = false →
      exec (.ckptPageDrained n p) s = .next ((s.fpageTaken k).pageDrained m i q s.nextFpage k)) := by
  have number : (q.page == p.toNat) = true := beq_iff_eq.2 due.number
  obtain ⟨image, draining, page, left, next, channel⟩ := due
  obtain ⟨k, works, taken⟩ : ∃ k, s.chanWorks k = true ∧ s.takeFpage = some (s.nextFpage, k, s.fpageTaken k) :=
    State.takeFpage_works channel
  obtain ⟨i, index⟩ : ∃ i, (m.pages.findIdx? fun x => x.page == p.toNat) = some i := by
    refine Option.isSome_iff_exists.1 ?_
    rw [List.findIdx?_isSome]
    exact List.any_eq_true.2 ⟨q, List.mem_of_find?_eq_some page, number⟩
  have row : exec (.ckptPageDrained n p) s = execCkptPageDrained n p s := rfl
  refine ⟨i, k, works, fun readOnly => ?_, fun writable => ?_⟩
  · rw [row, execCkptPageDrained]
    simp only [image, page, index, taken, draining, left, next, readOnly, bne_self_eq_false, Bool.not_true, Bool.or_false,
      Bool.false_eq_true, if_false, if_true]
  · rw [row, execCkptPageDrained]
    simp only [image, page, index, taken, draining, left, next, writable, bne_self_eq_false, Bool.not_true, Bool.or_false,
      Bool.false_eq_true, if_false, State.pageDrained]

/-- A page that drains while flash can be written: the image has it in flash and goes on draining. -/
theorem exec_ckptPageDrained_writes (writable : s.ftl.readOnly = false) :
    ∃ t k, exec (.ckptPageDrained n p) s = .next t ∧ t.nextFpage = s.nextFpage + 1 ∧ s.chanWorks k = true
      ∧ t.DrainsWith n.toNat (updFirst (fun x => x.page == q.page) (fun _ => q.drainedTo s.nextFpage k) m.pages) := by
  obtain ⟨i, k, works, -, row⟩ := exec_ckptPageDrained due
  have id : m.id = n.toNat := State.image_id due.image
  have side := (s.fpageTaken k).pageDrained_imageSide m i q s.nextFpage k
  have start : (s.fpageTaken k).DrainsWith m.id m.pages := ⟨m, id ▸ due.image, due.draining, rfl⟩
  have drains := (State.drainPage_drainsWith i q s.nextFpage k start).of_images (State.images_of_imageSide side)
  refine ⟨_, k, row writable, ?_, works, id ▸ drains⟩
  rw [State.nextFpage_of_imageSide side, State.drainPage_nextFpage]
  rfl

/-- The page that has drained is the one that is found under its number. -/
theorem State.DrainDue.find?_drained (k : Nat) :
    (updFirst (fun x => x.page == q.page) (fun _ => q.drainedTo s.nextFpage k) m.pages).find? (fun x => x.page == p.toNat)
      = some (q.drainedTo s.nextFpage k) := by
  have stays : ∀ x : ImgPage, (x.page == p.toNat) = true → ((q.drainedTo s.nextFpage k).page == p.toNat) = true :=
    fun _ _ => beq_iff_eq.2 due.number
  rw [due.number, find?_updFirst_of_imp stays, due.page]
  rfl

end

/-! ### The seal (R252, R255) -/

/-- A CRC of 64 bits is one. -/
theorem crc64_lt (m : List Byte) : crc64 m < 2 ^ 64 := by
  have bit : ∀ {c : Nat}, c < 2 ^ 64 → crcBit 0xC96C5795D7870F42 c < 2 ^ 64 := by
    intro c hc
    unfold crcBit
    split
    · exact Nat.xor_lt_two_pow (by omega) (by decide)
    · omega
  have step : ∀ c, c < 2 ^ 64 → ∀ b ∈ m, crcByte 0xC96C5795D7870F42 c b < 2 ^ 64 := by
    intro c hc b _
    have start : c ^^^ b.toNat < 2 ^ 64 := Nat.xor_lt_two_pow hc (Nat.lt_trans b.isLt (by decide))
    exact bit (bit (bit (bit (bit (bit (bit (bit start)))))))
  exact Nat.xor_lt_two_pow (List.foldlRecOn (motive := fun c => c < 2 ^ 64) m _ (by decide) step) (by decide)

/-- The words of a header before its CRC take 184 bytes (R255). -/
theorem ImageS.head_length (m : ImageS) (kek : BitVec 256) : (m.head kek).length = 184 := by
  simp [ImageS.head]

/-- A header holds its CRC once it is written behind it. -/
theorem headerOk_append {h : List Byte} (len : h.length = 184) : headerOk (h ++ leBytes 8 (crc64 h)) = true := by
  have crc : crc64 h % 256 ^ 8 = crc64 h := Nat.mod_eq_of_lt (crc64_lt h)
  rw [headerOk, List.drop_left' len, List.take_left' len, leBytes_take, ofLeBytes_leBytes, Nat.min_self, crc]
  exact beq_self_eq_true _

/-- The image as it is once sealed under a KEK (R252, R255). -/
def ImageS.sealedUnder (m : ImageS) (kek : BitVec 256) : ImageS :=
  let m := { m with root := m.rootOf }
  { m with st := .sealed, wrappedUnder := some kek, header := m.head kek ++ leBytes 8 (crc64 (m.head kek)) }

/-- The header of a sealed image `m'` is written, and its record replaces that of `m`. -/
def State.headWritten (s : State) (m m' : ImageS) : State := (s.wr (m'.clearAt 0) m'.header false).updImage m.id fun _ => m'

theorem State.headWritten_pages (s : State) (m m' : ImageS) : (s.headWritten m m').pages = s.pages := rfl

theorem State.headWritten_image {s : State} {m m' : ImageS} (h : s.image m.id = some m) (id : m'.id = m.id) :
    (s.headWritten m m').image m.id = some m' := by
  unfold State.headWritten
  have kept : (s.wr (m'.clearAt 0) m'.header false).image m.id = some m := h
  exact State.image_updImage kept fun _ _ => id

/-- A seal counts the bytes of the header, sets its flag and raises its event (R249). -/
def State.sealNoted (s : State) (c : Nat) : State :=
  ((s.nandWrite 4096 4096).orReg .eqxFlags c 4).raise 0x0406 0 (some c) anchorDie []

theorem State.sealNoted_images (s : State) (c : Nat) : (s.sealNoted c).images = s.images := by
  rw [State.sealNoted, State.raise_images, State.orReg_eq, State.setReg_images,
    State.images_of_imageSide (s.nandWrite_imageSide _ _)]

theorem State.sealNoted_pages (s : State) (c : Nat) : (s.sealNoted c).pages = s.pages := by
  rw [State.sealNoted, State.raise_pages, State.orReg_eq, State.setReg_pages, State.nandWrite_pages]

section
variable {s : State} {n : W32} {m : ImageS} {kek : BitVec 256} (image : s.image n.toNat = some m) (draining : m.st = .draining)
  (loaded : s.sec.kek = some kek) (key : m.key = true) (drained : ∀ p ∈ m.pages, p.drained = true)
include image draining loaded key drained

/-- The row of a drained image with its key and a KEK passes its check (R250, R378). -/
theorem exec_ckptSeal : exec (.ckptSeal n) s = .next (if s.ftl.readOnly then s.failImage m.id
    else (s.headWritten m (m.sealedUnder kek)).sealNoted m.ctx) := by
  have row : exec (.ckptSeal n) s = execCkptSeal n s := rfl
  have due : ¬ (m.st != .draining || !m.key || m.pages.any fun p => !p.drained) = true := by
    simpa [draining, key] using drained
  rw [row, execCkptSeal, image, loaded]
  dsimp only
  rw [if_neg due]
  cases s.ftl.readOnly
  · rfl
  · rfl

theorem exec_ckptSeal_seals (writable : s.ftl.readOnly = false) : ∃ t, exec (.ckptSeal n) s = .next t
    ∧ t.image n.toNat = some (m.sealedUnder kek) ∧ t.pages = s.pages := by
  have id : m.id = n.toNat := State.image_id image
  have row := exec_ckptSeal image draining loaded key drained
  rw [writable, if_neg (by decide)] at row
  refine ⟨_, row, ?_, (State.sealNoted_pages ..).trans (State.headWritten_pages ..)⟩
  rw [State.image, State.sealNoted_images, ← id]
  exact State.headWritten_image (m := m) (by rw [id]; exact image) rfl

end

/-! ### HARVEST (R258 to R260) -/

/-- The context is in HELD with the state that an image restores (R259). -/
structure State.HeldWith (s : State) (c : Nat) (m : ImageS) : Prop where
  phase : (s.ctx c).phase = .held
  streams : (s.ctx c).streams = m.streamTab
  epoch : s.reg .eqxEpoch c = m.epoch
  seed : s.reg .cfgRngSeed c = m.seed
  step : s.reg .cfgRngStep c = m.step

/-- The last part of a restore: stream table, HELD, and the three registers (R259). -/
def State.restored (s : State) (c : Nat) (m : ImageS) : State :=
  let s := s.updCtx c fun x => { x with streams := m.streamTab, attempt := 0, phase := .held }
  ((s.setReg .cfgRngSeed c m.seed).setRngStep c m.step).setReg .eqxEpoch c m.epoch

theorem State.harvestRun_restored (s : State) (c : Nat) (m : ImageS) (bad : List Nat) :
    ∃ t : State, (s.harvestRun c m bad).2 = t.restored c m := ⟨_, rfl⟩

section
variable {s : State} {c : Nat} {m : ImageS}

theorem State.restored_heldWith : (s.restored c m).HeldWith c m where
  phase := by simp [State.restored, State.setRngStep]
  streams := by simp [State.restored, State.setRngStep]
  epoch := State.setReg_reg ..
  seed := by
    rw [State.restored, State.setRngStep, State.setReg_reg_ne _ _ _ _ (by decide), State.setReg_reg_ne _ _ _ _ (by decide),
      State.setReg_reg]
  step := by rw [State.restored, State.setRngStep, State.setReg_reg_ne _ _ _ _ (by decide), State.setReg_reg]

/-- A flag of EQX_FLAGS, a status and an event leave what was restored. -/
theorem State.HeldWith.orFlags (h : s.HeldWith c m) (i n : Nat) : (s.orReg .eqxFlags i n).HeldWith c m where
  phase := h.phase
  streams := h.streams
  epoch := (s.setReg_reg_ne _ _ _ (by decide)).trans h.epoch
  seed := (s.setReg_reg_ne _ _ _ (by decide)).trans h.seed
  step := (s.setReg_reg_ne _ _ _ (by decide)).trans h.step

theorem State.HeldWith.outcome (h : s.HeldWith c m) (id st : Nat) (d : W32) (v : W64) : (s.outcome id st d v).HeldWith c m :=
  ⟨h.phase, h.streams, h.epoch, h.seed, h.step⟩

theorem State.HeldWith.raise (h : s.HeldWith c m) (code sev : Nat) (ctx : Option Nat) (o : Nat) (d : List W32) :
    (s.raise code sev ctx o d).HeldWith c m := by
  have ctxs : (s.raise code sev ctx o d).ctx c = s.ctx c := by rw [State.ctx, State.raise_ctxs, State.ctx]
  have regs := (s.raise_logged code sev ctx o d).reg
  exact ⟨ctxs ▸ h.phase, ctxs ▸ h.streams, (regs _ (by decide) c).trans h.epoch, (regs _ (by decide) c).trans h.seed,
    (regs _ (by decide) c).trans h.step⟩

theorem State.HeldWith.ite (p : Prop) [Decidable p] {t : State} (h : s.HeldWith c m) (h' : t.HeldWith c m) :
    (if p then s else t).HeldWith c m := by
  split
  · exact h
  · exact h'

end

/-- A HARVEST that is being run. -/
def Flight.harvests (f : Flight) : Bool :=
  match f.work with
  | .harvest _ => !f.finished
  | _ => false

section
variable {s : State} {c : BitVec 6} {f : Flight} {n : Nat} {m : ImageS}
  (runs : (s.ctxFlights c.toNat).find? Flight.harvests = some f) (work : f.work = .harvest n) (image : s.image n = some m)
  (bad : List Nat)
include runs work image

/-- A HARVEST that finds a page of its regions gone or sealed stops (R203, R212). -/
theorem exec_harvestComplete_stops {st : Nat} (fault : s.regionFault c.toNat m = some st) : exec (.harvestComplete c bad) s
    = .next ((s.harvestStops c.toNat f.id m bad st).sendLate.finishLater f.id) := by
  have row : exec (.harvestComplete c bad) s = execHarvestComplete c bad s := rfl
  rw [row, execHarvestComplete]
  dsimp only
  split
  · rename_i h
    cases h.symm.trans runs
  · rename_i g h
    cases h.symm.trans runs
    simp only [work, image, fault]

theorem exec_harvestComplete_ends (calm : s.regionFault c.toNat m = none) :
    ∃ u : State, exec (.harvestComplete c bad) s = .next (u.sendLate.finishLater f.id) ∧ u.HeldWith c.toNat m := by
  have row : exec (.harvestComplete c bad) s = execHarvestComplete c bad s := rfl
  obtain ⟨t, restored⟩ := s.harvestRun_restored c.toNat m bad
  have held : (s.harvestRun c.toNat m bad).2.HeldWith c.toNat m := restored ▸ State.restored_heldWith
  rw [row, execHarvestComplete]
  dsimp only
  split
  · rename_i h
    cases h.symm.trans runs
  · rename_i g h
    cases h.symm.trans runs
    simp only [work, image, calm]
    have digest := fun p [Decidable p] => State.HeldWith.ite p held (held.orFlags c.toNat 64)
    exact ⟨_, rfl, .ite _ (digest _) ((((digest _).outcome ..).orFlags ..).raise ..)⟩

end

/-- Settles O32: the packets by their checks, the rows by what they find. -/
theorem imagesRun : Obligations.ImagesRun := by
  unfold Obligations.ImagesRun
  refine ⟨fun h s => ⟨fun dst r ok => ?list, fun n m r found => ?release, fun n r ok => ?harvest,
      fun c bad f n m runs work image =>
        ⟨fun st fault => exec_harvestComplete_stops runs work image bad fault, fun calm => ?ends⟩⟩,
    fun s n m image draining => ⟨fun p q page left next channel => ⟨fun writable => ?drains, fun readOnly => ?drainFails⟩,
      fun k loaded key drained readOnly => ?sealFails, fun k loaded key drained writable => ?seals⟩⟩
  case list => exact State.packet_guarded r (check := fun t c => t.imageListErr c dst) ok _
  case release =>
    refine State.packet_answers r ?_
    have found' : ((s.dispatched h 0x514).imagesOf (s.ctxOf h)).find? (fun m => m.id == n.toNat) = some m := found
    simp only [found']
  case harvest => exact State.packet_answers r (State.guarded_none ok _)
  case ends =>
    obtain ⟨u, run, held⟩ := exec_harvestComplete_ends runs work image bad calm
    exact ⟨u, run, held.phase, held.streams, held.epoch, held.seed, held.step⟩
  case drains =>
    have due : s.DrainDue n p m q := ⟨image, draining, page, left, next, channel⟩
    obtain ⟨t, k, run, fpage, works, m', image', draining', pages'⟩ := exec_ckptPageDrained_writes due writable
    exact ⟨t, m', _, run, fpage, image', draining', pages' ▸ due.find?_drained k, rfl, rfl, works⟩
  case drainFails =>
    obtain ⟨i, k, -, fails, -⟩ := exec_ckptPageDrained ⟨image, draining, page, left, next, channel⟩
    exact fails readOnly
  case sealFails => rw [exec_ckptSeal image draining loaded key drained, readOnly, if_pos rfl]
  case seals =>
    obtain ⟨t, run, image', pages⟩ := exec_ckptSeal_seals image draining loaded key drained writable
    exact ⟨t, _, run, image', rfl, rfl, rfl, rfl, headerOk_append (ImageS.head_length _ k), pages⟩

end Sys2Proof.Machine

namespace Sys2Proof.Machine
open Sys2Proof

/-! ### What the shared operations leave of a port (R264 to R271) -/

section
variable (s : State)

@[simp] theorem State.raise_port (code sev : Nat) (ctx : Option Nat) (o : Nat) (d : List W32) (n : Nat) :
    (s.raise code sev ctx o d).port n = s.port n := by
  rw [(s.raise_logged ..).frame]
  rfl

@[simp] theorem State.setReg_port (r : Reg) (i : Nat) (v : W64) (n : Nat) : (s.setReg r i v).port n = s.port n := rfl
@[simp] theorem State.setPort_reg (n : Nat) (x : PortS) (r : Reg) (i : Nat) : (s.setPort n x).reg r i = s.reg r i := rfl

/-- A port whose attempt begins: it is counted, and what the link held is dropped (R267, R270). -/
def PortS.trains (p : PortS) (now : Nat) : PortS :=
  { p with
    st := .train, attempts := p.attempts + 1, enteredAt := now, trained := 0, lanes := 0, version := 0
    aligned := false, key := false, encrypt := false, replay := [], replayFrom := 0, replayCount := 0, filling := .none }

theorem State.toTrain_port (n : Nat) : (s.toTrain n).port n = (s.port n).trains s.now := by
  unfold State.toTrain
  dsimp only
  split
  · rw [State.bump_eq, State.setReg_port, State.setPort_port]
    rfl
  · exact s.setPort_port n _

/-- The only register that an attempt writes is the count of the port's falls. -/
theorem State.toTrain_reg {r : Reg} (hr : r ≠ .ngfPortDowns) (n i : Nat) : (s.toTrain n).reg r i = s.reg r i :=
  State.ite_kept (·.reg r i) (State.setReg_reg_ne _ _ _ _ hr) rfl

theorem State.portFail_st (n : Nat) : ((s.portFail n).port n).st = .failed := by
  simp [State.portFail, State.enterPort]

/-- The first attempt of a bring-up that software starts (R270). -/
theorem State.freshTrain_port (n : Nat) :
    (s.freshTrain n).port n = PortS.trains { s.port n with attempts := 0 } s.now := by
  rw [State.freshTrain, State.toTrain_port, State.updPort_eq, State.setPort_port]
  rfl

theorem State.freshTrain_reg {r : Reg} (hr : r ≠ .ngfPortDowns) (n i : Nat) : (s.freshTrain n).reg r i = s.reg r i :=
  State.toTrain_reg _ hr n i

/-- A third attempt that fails ends the bring-up; an earlier one is followed by the next (R270). -/
theorem State.failAttempt_last {n : Nat} (h : 3 ≤ (s.port n).attempts) : s.failAttempt n = s.portFail n := if_pos h
theorem State.failAttempt_again {n : Nat} (h : (s.port n).attempts < 3) : s.failAttempt n = s.toTrain n :=
  if_neg (Nat.not_le.2 h)

end

/-! ### Sending leaves the standing of a port (R266, R268, R270) -/

/-- The state of a port, and the attempts of its bring-up. -/
def State.standing (s : State) (n : Nat) : PortSt × Nat := ((s.port n).st, (s.port n).attempts)

section
variable (s : State) (n : Nat)

/-- A port whose record changes elsewhere keeps its standing. -/
theorem State.setPort_standing {x : PortS} (hst : x.st = (s.port n).st) (ha : x.attempts = (s.port n).attempts) :
    (s.setPort n x).standing n = s.standing n := by
  simp [State.standing, hst, ha]

theorem State.setReg_standing (r : Reg) (i : Nat) (v : W64) : (s.setReg r i v).standing n = s.standing n := rfl

theorem State.withOut_standing (o : OutS) : ({ s with out := o } : State).standing n = s.standing n := rfl

theorem State.closeFlit_standing : (s.closeFlit n).standing n = s.standing n := by
  unfold State.closeFlit
  split
  · exact s.setPort_standing n rfl rfl
  · rfl

theorem State.fillFlits_standing (k : Pkt) : (s.fillFlits n k).standing n = s.standing n := by
  unfold State.fillFlits
  dsimp only
  refine (State.foldl_kept (·.standing n) (fun t e => ?_) _ _).trans
    (State.ite_kept (·.standing n) (s.closeFlit_standing n) rfl)
  exact State.ite_kept (·.standing n) (t.setPort_standing n rfl rfl) (t.setPort_standing n rfl rfl)

theorem State.countSent_standing (m : Nat) (k : Pkt) : (s.countSent m k).2.standing n = s.standing n := by
  unfold State.countSent
  dsimp only
  split <;> rfl

theorem State.lanWrite_standing (x : LanRec) (time : Nat) : (s.lanWrite x time).standing n = s.standing n := by
  unfold State.lanWrite
  dsimp only
  refine State.ite_kept (·.standing n) (State.ite_kept (·.standing n) rfl ?_) rfl
  simp only [State.standing, State.raise_port]
  rfl

theorem State.lanSend_standing (m e : Nat) (o : Outgoing) : (s.lanSend m e o).standing n = s.standing n := by
  unfold State.lanSend
  split
  · rfl
  · exact State.ite_kept (·.standing n) (s.lanWrite_standing n _ _) rfl

theorem State.emit_standing (o : Outgoing) : (s.emit n o).standing n = s.standing n := by
  have filled : ∀ x : PortS, x.st = (s.port n).st → x.attempts = (s.port n).attempts →
      ((s.setPort n x).fillFlits n o.pkt).standing n = s.standing n := fun x hst ha =>
    (State.fillFlits_standing _ n _).trans (s.setPort_standing n hst ha)
  unfold State.emit
  dsimp only
  rw [State.lanSend_standing, State.withOut_standing, State.countSent_standing]
  exact State.ite_kept (·.standing n) ((State.setReg_standing _ n ..).trans (filled _ rfl rfl)) (filled _ rfl rfl)

/-- However many packets go, the port's standing is as it was. -/
theorem State.drainPort_standing (fuel : Nat) : (s.drainPort n fuel).standing n = s.standing n := by
  induction fuel generalizing s with
  | zero => rfl
  | succ fuel ih =>
    unfold State.drainPort
    dsimp only
    split
    · exact (ih _).trans ((State.emit_standing _ n _).trans (s.setPort_standing n rfl rfl))
    · rfl

theorem State.gainCredits_standing (vc k : Nat) : (s.gainCredits n vc k).standing n = s.standing n :=
  (State.drainPort_standing _ n 4096).trans (s.setPort_standing n rfl rfl)

/-- So it is after the acknowledgement that a flit carries. -/
theorem State.ackFlit_standing (f : Flit) : (s.ackFlit n f).standing n = s.standing n :=
  (State.gainCredits_standing _ n ..).trans (s.setPort_standing n rfl rfl)

/-- CHECK ends the bring-up: UP where the peer's digest and encrypt setting match the port's own, else QUARANTINE
(R270). -/
theorem State.checkPort_standing : (s.checkPort n).standing n =
    (if (s.port n).peerDigest = s.reg .ngfFabDigest 0 ∧ (s.port n).peerEncrypt = (s.port n).encrypt then .up
      else .quarantine, 0) := by
  unfold State.checkPort
  simp only [Bool.and_eq_true, beq_iff_eq]
  split
  · rw [State.drainPort_standing]
    split
    · rename_i up
      simp [State.standing, up]
    · simp [State.standing, State.enterPort]
  · split
    · rename_i quarantined
      simp [State.standing, quarantined]
    · simp [State.standing, State.enterPort]

end

/-- A sound control flit brings a digest and an encrypt setting, which are checked, and its own acknowledgement (R271). -/
def State.recheck (s : State) (n : Nat) (digest : W64) (encrypt : Bool) (f : Flit) : State :=
  ((s.updPort n fun q => { q with peerDigest := digest, peerEncrypt := encrypt }).checkPort n).ackFlit n f

theorem State.recheck_standing (s : State) (n : Nat) (digest : W64) (encrypt : Bool) (f : Flit) :
    (s.recheck n digest encrypt f).standing n =
      (if digest = s.reg .ngfFabDigest 0 ∧ encrypt = (s.port n).encrypt then .up else .quarantine, 0) := by
  rw [State.recheck, State.ackFlit_standing, State.checkPort_standing, State.updPort_eq, State.setPort_port,
    State.setPort_reg]

/-- A standing that CHECK has left, taken apart. -/
theorem State.decided_of_standing {t : State} {n : Nat} {c : Prop} [Decidable c]
    (h : t.standing n = (if c then .up else .quarantine, 0)) :
    (t.port n).attempts = 0 ∧ (c → (t.port n).st = .up) ∧ (¬ c → (t.port n).st = .quarantine) := by
  obtain ⟨st, attempts⟩ := Prod.mk.inj h
  exact ⟨attempts, fun same => st.trans (if_pos same), fun differ => st.trans (if_neg differ)⟩

end Sys2Proof.Machine

namespace Sys2Proof.Machine
open Sys2Proof

/-! ### The peer's capability flits and control flits (R267, R269 to R271) -/

/-- What a port in NEGOTIATE takes from its peer's capability flit. -/
def PortS.meets (p : PortS) (k : CapFlit) : PortS :=
  { p with peerSwitch := k.switchPort, peerId := k.partId, peerDigest := k.digest, peerEncrypt := k.encrypt }

/-- A port that has a version and, under encryption, a key begins its session and goes to CHECK. -/
def PortS.agrees (p : PortS) (own : Bool) (k : CapFlit) : PortS :=
  { p with
    st := .check, version := 1, encrypt := own, key := own && k.encrypt, session := p.session + 1
    txSeq := 0, rxNext := 0, ackSent := 0, replay := [], replayFrom := 0, replayCount := 0
    credits := initialCredits, rxVc := 0, txPos := [], rxPos := [], filling := .none }

/-- The test by which a flit's row leaves a port alone fails for a port that carries flits. -/
theorem PortS.not_idle {p : PortS} (h : p.st = .up ∨ p.st = .quarantine) :
    (p.st != .up && p.st != .quarantine) = false := by
  rcases h with h | h <;> rw [h] <;> rfl

section
variable {s : State} {n : BitVec 5} (hn : inRange n.toNat s.nPorts = true)
include hn

/-- The row of a capability flit at a port in NEGOTIATE. -/
theorem exec_capabilityFlitReceive (k : CapFlit) (hst : (s.port n.toNat).st = .negotiate) :
    let own := s.fld .ngfPortCtrl n.toNat 2 2 == 1
    let t := s.setPort n.toNat ((s.port n.toNat).meets k)
    exec (.capabilityFlitReceive n k) s = .next (if 1 < k.vmin.toNat ∨ k.vmax.toNat < 1 then t.portFail n.toNat
      else if (own && k.encrypt && !k.keyOk) = true then t
      else (t.setPort n.toNat (((s.port n.toNat).meets k).agrees own k)).checkPort n.toNat) := by
  have row : exec (.capabilityFlitReceive n k) s = execCapabilityFlitReceive n k s := rfl
  have negotiates : ((s.port n.toNat).st != .negotiate) = false := bne_eq_false_iff_eq.2 hst
  simp only [row, execCapabilityFlitReceive, hn, negotiates, Bool.not_true, Bool.false_eq_true, if_false, Bool.or_eq_true,
    decide_eq_true_eq, State.updPort_eq, State.setPort_port, PortS.meets, PortS.agrees]
  split
  · rfl
  · split <;> rfl

/-- A flit of a type other than data, at a port that carries flits (R267). -/
theorem State.takeFlit_carries {ftype : Nat} (f : Flit) (body : State → State)
    (hst : (s.port n.toNat).st = .up ∨ (s.port n.toNat).st = .quarantine) :
    let t := s.setPort n.toNat { s.port n.toNat with rxPos := PortS.pass (s.port n.toNat).rxPos ftype 1 }
    s.takeFlit n.toNat ftype f body = .next (if (s.port n.toNat).sound n.toNat ftype f = true then body t
      else t.sendNak n.toNat) := by
  simp only [State.takeFlit, hn, PortS.not_idle hst, Bool.not_true, Bool.false_eq_true, if_false]

end

/-- Settles O39: a check decides by the digest and the encrypt setting, and what the port sends after it leaves its
standing. -/
theorem checkDecidesUpOrQuarantine : Obligations.CheckDecidesUpOrQuarantine := by
  unfold Obligations.CheckDecidesUpOrQuarantine
  intro s n hn p own
  refine ⟨fun k hst => ?capability, fun pay e hst => ?control⟩
  case capability =>
    have row := exec_capabilityFlitReceive hn k hst
    refine ⟨fun none => ⟨_, row, ?failed⟩, fun low high key => ⟨_, row, ?checked⟩,
      fun low high ownSet peerSet bad => ⟨_, row, ?waits⟩⟩
    case failed =>
      rw [if_pos none]
      exact State.portFail_st _ _
    case checked =>
      have valid : ¬ (own && k.encrypt && !k.keyOk) = true := fun h => by
        obtain ⟨both, bad⟩ := Bool.and_eq_true_iff.1 h
        simp [key both] at bad
      rw [if_neg (by omega), if_neg valid]
      have decides := State.checkPort_standing
        ((s.setPort n.toNat (p.meets k)).setPort n.toNat ((p.meets k).agrees own k)) n.toNat
      rw [State.setPort_port] at decides
      exact State.decided_of_standing decides
    case waits =>
      have invalid : (own && k.encrypt && !k.keyOk) = true := by rw [ownSet, peerSet, bad]; rfl
      rw [if_neg (by omega), if_pos invalid, State.setPort_port]
      exact hst
  case control =>
    intro f bs d b
    have row : exec (.controlFlitReceive n pay e) s
      = s.takeFlit n.toNat flitControl f fun t => t.recheck n.toNat d b f := rfl
    rw [row, State.takeFlit_carries hn f _ hst]
    refine ⟨fun sound => ⟨_, congrArg _ (if_pos sound), ?_⟩,
      fun bad => congrArg _ (if_neg (by rw [bad]; exact Bool.false_ne_true))⟩
    have decides := State.recheck_standing (s.setPort n.toNat { p with rxPos := PortS.pass p.rxPos flitControl 1 }) n.toNat
      d b f
    rw [State.setPort_port] at decides
    exact (State.decided_of_standing decides).2

end Sys2Proof.Machine

namespace Sys2Proof.Machine
open Sys2Proof

/-! ### Ports that come up (R264, R265, R269 to R271) -/

/-- A field of one bit reads back after its write. -/
theorem State.setFld_fld_one (s : State) (r : Reg) (i : Nat) {k v : Nat} (hk : k < 64) (hv : v < 2) :
    (s.setFld r i k k v).fld r i k k = v := by
  rw [State.fld, State.setFld_eq, State.setReg_reg, bits_setBits_one _ hk hv]

theorem State.fld_of_reg {s t : State} {r : Reg} {i : Nat} (h : t.reg r i = s.reg r i) (hi lo : Nat) :
    t.fld r i hi lo = s.fld r i hi lo := congrArg (fun w => bits w hi lo) h

section
variable (s : State) (n : Nat)

/-- The enable bit as it is written, whatever the port does then (R270). -/
theorem State.setEnable_fld (on : Bool) : (s.setEnable n on).fld .ngfPortCtrl n 0 0 = if on then 1 else 0 := by
  have written : ((s.setEnable n on).reg .ngfPortCtrl n)
      = (s.setFld .ngfPortCtrl n 0 0 (if on then 1 else 0)).reg .ngfPortCtrl n :=
    State.ite_kept (·.reg .ngfPortCtrl n)
      (State.ite_kept (·.reg .ngfPortCtrl n) (State.freshTrain_reg _ (by decide) n n) rfl) rfl
  rw [State.fld_of_reg written]
  exact s.setFld_fld_one _ _ (by decide) (by cases on <;> decide)

theorem State.setEnable_on_disabled (h : (s.port n).st = .disabled) :
    ((s.setEnable n true).port n).st = .train ∧ ((s.setEnable n true).port n).attempts = 1 := by
  have run : s.setEnable n true = (s.setFld .ngfPortCtrl n 0 0 1).freshTrain n := if_pos (beq_iff_eq.2 h)
  rw [run, State.freshTrain_port]
  exact ⟨rfl, rfl⟩

theorem State.setEnable_on_enabled (h : (s.port n).st ≠ .disabled) : (s.setEnable n true).port n = s.port n := by
  have run : s.setEnable n true = s.setFld .ngfPortCtrl n 0 0 1 := if_neg fun e => h (beq_iff_eq.1 e)
  rw [run]
  rfl

theorem State.setEnable_off : ((s.setEnable n false).port n).st = .disabled := by
  simp [State.setEnable, PortS.none]

/-- Alignment is complete with the lanes that trained; a port of four is reported (R265). -/
def State.takeLanes : State :=
  let k := lanesOf (s.port n).trained
  let t := s.setPort n { s.port n with lanes := k, aligned := true }
  if k = 4 then t.raise 0x0504 1 none (dieOfPort n) [] else t

theorem State.takeLanes_port : (s.takeLanes n).port n
    = { s.port n with lanes := lanesOf (s.port n).trained, aligned := true } :=
  State.ite_kept (·.port n) ((State.raise_port ..).trans (s.setPort_port n _)) (s.setPort_port n _)

theorem State.takeLanes_reg {r : Reg} (hr : r ∉ Reg.ofEvents) (i : Nat) : (s.takeLanes n).reg r i = s.reg r i :=
  State.ite_kept (·.reg r i) ((State.raise_logged _ ..).reg r hr i) rfl

end

section
variable {s : State} {n : BitVec 5} (hn : inRange n.toNat s.nPorts = true)
include hn

/-! The rows that software starts, once the part is ready. -/

section
variable (ready : s.boot.phase = .ready)
include ready

theorem exec_ngfPortEnable (on : Bool) : exec (.ngfPortEnable n on) s = .next (s.setEnable n.toNat on) := by
  have row : exec (.ngfPortEnable n on) s = execNgfPortEnable n on s := rfl
  simp [row, execNgfPortEnable, hn, ready]

theorem exec_ngfPortRetrain (enabled : (s.port n.toNat).st ≠ .disabled) :
    exec (.ngfPortRetrain n) s = .next (s.freshTrain n.toNat) := by
  have row : exec (.ngfPortRetrain n) s = execNgfPortRetrain n s := rfl
  simp [row, execNgfPortRetrain, State.retrain, hn, ready, enabled]

theorem exec_ngfPortEncrypt (on : Bool) :
    exec (.ngfPortEncrypt n on) s = .next (s.setFld .ngfPortCtrl n.toNat 2 2 (if on then 1 else 0)) := by
  have row : exec (.ngfPortEncrypt n on) s = execNgfPortEncrypt n on s := rfl
  simp [row, execNgfPortEncrypt, hn, ready]

end

/-! Training. -/

theorem exec_linkTrainDone (l : BitVec 8) (hst : (s.port n.toNat).st = .train) :
    let g := s.goodLanes n.toNat l.toNat
    exec (.linkTrainDone n l) s = .next (if lanesOf g = 0 then s.failAttempt n.toNat
      else (s.enterPort n.toNat .align).updPort n.toNat fun p => { p with trained := g }) := by
  have row : exec (.linkTrainDone n l) s = execLinkTrainDone n l s := rfl
  simp only [row, execLinkTrainDone, hn, hst, Bool.not_true, Bool.false_eq_true, if_false, bne_self_eq_false, beq_iff_eq]
  split <;> rfl

theorem exec_linkTrainTimeout (hst : (s.port n.toNat).st = .train) (due : (s.port n.toNat).enteredAt + 500000000 ≤ s.now) :
    exec (.linkTrainTimeout n) s = .next (s.failAttempt n.toNat) := by
  have row : exec (.linkTrainTimeout n) s = execLinkTrainTimeout n s := rfl
  simp [row, execLinkTrainTimeout, hn, hst, Nat.not_lt.2 due]

/-! Alignment. -/

/-- The lanes are chosen, and the port goes on once the part has its identity (R265, R270). -/
theorem exec_alignDone (hst : (s.port n.toNat).st = .align) (ha : (s.port n.toNat).aligned = false) :
    exec (.alignDone n) s = .next (if s.fld .ngfPartId 0 31 31 = 1 then (s.takeLanes n.toNat).negotiate n.toNat
      else s.takeLanes n.toNat) := by
  have row : exec (.alignDone n) s = execAlignDone n s := rfl
  have aligns : ((s.port n.toNat).st != .align || (s.port n.toNat).aligned) = false := by simp [hst, ha]
  rw [← State.fld_of_reg (s.takeLanes_reg n.toNat (r := .ngfPartId) (by decide) 0)]
  simp only [row, execAlignDone, hn, aligns, Bool.not_true, Bool.false_eq_true, if_false, beq_iff_eq]
  rfl

theorem exec_alignTimeout (hst : (s.port n.toNat).st = .align) (ha : (s.port n.toNat).aligned = false)
    (due : (s.port n.toNat).enteredAt + 10000000 ≤ s.now) :
    exec (.alignTimeout n) s = .next (s.failAttempt n.toNat) := by
  have row : exec (.alignTimeout n) s = execAlignTimeout n s := rfl
  simp [row, execAlignTimeout, hn, hst, ha, Nat.not_lt.2 due]

/-! Negotiation. -/

theorem exec_capabilityFlitSend (hst : (s.port n.toNat).st = .negotiate) :
    exec (.capabilityFlitSend n) s = .next (if s.now < (s.port n.toNat).capNext then s else
      { s.setPort n.toNat { s.port n.toNat with capNext := s.now + 1000 } with
        out := { s.out with capFlits := s.out.capFlits ++ [(n.toNat, s.capFlit n.toNat)] } }) := by
  have row : exec (.capabilityFlitSend n) s = execCapabilityFlitSend n s := rfl
  have negotiates : ((s.port n.toNat).st != .negotiate) = false := bne_eq_false_iff_eq.2 hst
  simp only [row, execCapabilityFlitSend, hn, negotiates, Bool.not_true, Bool.false_eq_true, if_false, Bool.false_or,
    decide_eq_true_eq]
  split <;> rfl

theorem exec_negotiateTimeout (hst : (s.port n.toNat).st = .negotiate)
    (due : (s.port n.toNat).enteredAt + 10000000 ≤ s.now) :
    exec (.negotiateTimeout n) s = .next (s.failAttempt n.toNat) := by
  have row : exec (.negotiateTimeout n) s = execNegotiateTimeout n s := rfl
  simp [row, execNegotiateTimeout, hn, hst, Nat.not_lt.2 due]

end

/-- Settles O38: each row by the state that its port is in, and an attempt that fails by the number of it. -/
theorem portsComeUp : Obligations.PortsComeUp := by
  unfold Obligations.PortsComeUp
  refine ⟨fun s n hn ready => ⟨?enable, ?disable, fun enabled => ?retrain, fun b => ?encrypt⟩,
    fun s n hn => ⟨fun l hst usable => ?trained, fun l hst useless => ?untrained,
      fun hst due => exec_linkTrainTimeout hn hst due, fun hst ha => ?aligned,
      fun hst ha due => exec_alignTimeout hn hst ha due, fun hst due => ?sends, fun hst early => ?rests,
      fun hst due => exec_negotiateTimeout hn hst due, fun third => ?fails, fun more => ?again⟩⟩
  case enable =>
    exact ⟨_, exec_ngfPortEnable hn ready true, s.setEnable_fld n.toNat true, s.setEnable_on_disabled n.toNat,
      s.setEnable_on_enabled n.toNat⟩
  case disable =>
    exact ⟨_, exec_ngfPortEnable hn ready false, s.setEnable_fld n.toNat false, s.setEnable_off n.toNat⟩
  case retrain =>
    refine ⟨_, exec_ngfPortRetrain hn ready enabled, ?_⟩
    rw [State.freshTrain_port]
    exact ⟨rfl, rfl, rfl⟩
  case encrypt =>
    exact ⟨_, exec_ngfPortEncrypt hn ready b, s.setFld_fld_one _ _ (by decide) (by cases b <;> decide), rfl, rfl⟩
  case trained =>
    refine ⟨_, (exec_linkTrainDone hn l hst).trans (congrArg _ (if_neg usable)), ?_⟩
    simp only [State.enterPort, State.updPort_eq, State.setPort_port]
    exact ⟨trivial, trivial, trivial, fun k other =>
      (State.setPort_port_ne _ _ _ k other).trans (s.setPort_port_ne _ _ k other)⟩
  case untrained => exact (exec_linkTrainDone hn l hst).trans (congrArg _ (if_pos useless))
  case aligned =>
    refine ⟨_, exec_alignDone hn hst ha, ?_⟩
    have port := s.takeLanes_port n.toNat
    split
    · rename_i valid
      simp [State.negotiate, State.enterPort, port, valid]
    · rename_i invalid
      simp [port, hst, invalid]
  case sends => exact (exec_capabilityFlitSend hn hst).trans (congrArg _ (if_neg (Nat.not_lt.2 due)))
  case rests => exact (exec_capabilityFlitSend hn hst).trans (congrArg _ (if_pos early))
  case fails =>
    rw [s.failAttempt_last third]
    exact s.portFail_st _
  case again =>
    rw [s.failAttempt_again more, State.toTrain_port]
    exact ⟨rfl, rfl⟩

end Sys2Proof.Machine

namespace Sys2Proof.Machine
open Sys2Proof

/-! ### Flits of a port that carries (R266 to R270) -/

/-- Sealing a flit leaves what it acknowledges and returns (R266, R269). -/
theorem PortS.seal_returns (p : PortS) (n ftype k : Nat) (f : Flit) :
    (p.seal n ftype k f).ackseq = f.ackseq ∧ (p.seal n ftype k f).credits = f.credits := by
  unfold PortS.seal
  dsimp only
  split <;> exact ⟨rfl, rfl⟩

section
variable (s : State) (n : Nat)

@[simp] theorem State.sendFlit_mem (ftype a c vc : Nat) (pay : List Byte) : (s.sendFlit n ftype a c vc pay).mem = s.mem :=
  State.ite_kept (·.mem) rfl rfl

/-- Of a port that sends an ack, nak or control flit only its place in the stream moves on. -/
theorem State.sendFlit_port (ftype a c vc : Nat) (pay : List Byte) : (s.sendFlit n ftype a c vc pay).port n
    = { s.port n with txPos := PortS.pass (s.port n).txPos ftype 1 } :=
  State.ite_kept (·.port n) (s.setPort_port n _) (s.setPort_port n _)

/-- An ack or a nak that leaves names a flit, and returns its credits. -/
theorem State.sendFlit_acks {ftype : Nat} (h : ftype ≠ flitControl) (a c vc : Nat) (pay : List Byte) :
    ∃ f : Flit, (s.sendFlit n ftype a c vc pay).out.acks = s.out.acks ++ [(n, ftype, f)]
      ∧ f.ackseq = BitVec.ofNat 12 a ∧ f.credits = BitVec.ofNat 16 c := by
  unfold State.sendFlit
  dsimp only
  rw [if_neg (by simpa using h)]
  exact ⟨_, rfl, PortS.seal_returns ..⟩

/-- A port without packets that wait for credits has nothing to send (R268). -/
theorem State.drainPort_idle (h : (s.port n).queued = []) (fuel : Nat) : s.drainPort n fuel = s := by
  cases fuel with
  | zero => rfl
  | succ fuel =>
    simp only [State.drainPort, h, List.find?_nil]
    rfl

theorem State.ackFlit_replay (f : Flit) (h : (s.port n).queued = []) :
    ((s.ackFlit n f).port n).replay = freeReplay f.ackseq.toNat (s.port n).replay := by
  unfold State.ackFlit State.gainCredits
  dsimp only
  rw [State.drainPort_idle _ _ (by simp [h])]
  simp

/-- A nak with flits to replay: the sixteenth replay of one flit in succession trains the port anew, and any other sends the
flits again (R267). -/
theorem State.replay_from {a : Nat} {f : Flit} {fs : List Flit} (h : freeReplay a (s.port n).replay = f :: fs) :
    let p := s.port n
    let k := if (f :: fs).length = p.replay.length ∧ f.fseq.toNat = p.replayFrom then p.replayCount + 1 else 1
    let t := ((s.setPort n { p with replay := f :: fs, replayFrom := f.fseq.toNat, replayCount := k }).bump
      .ngfPortReplay n (f :: fs).length).bump .vwmLcLinkRetry (dieOfPort n) (f :: fs).length
    s.replay n a = if 16 ≤ k then (t.raise 0x0501 1 none (dieOfPort n) []).toTrain n
      else { t with out := { t.out with flits := t.out.flits ++ (f :: fs).map fun x => (n, x) } } := by
  unfold State.replay
  simp only [h, Bool.and_eq_true, beq_iff_eq]

end

section
variable {s : State} {n : BitVec 5} (hn : inRange n.toNat s.nPorts = true)
  (hst : (s.port n.toNat).st = .up ∨ (s.port n.toNat).st = .quarantine)
include hn hst

/-- A data flit in sequence is acknowledged; any other draws a nak (R267). -/
theorem exec_flitDataReceive (f : Flit) :
    let p := s.port n.toNat
    let vc := if f.firstPkt = 63 then p.rxVc else f.vc.toNat
    exec (.flitDataReceive n f) s = .next (if p.sound n.toNat flitData f = true ∧ f.fseq.toNat = p.rxNext then
        ((s.setPort n.toNat { p with rxNext := (p.rxNext + 1) % 4096, ackSent := p.rxNext, rxVc := vc,
                                     rxPos := PortS.pass p.rxPos flitData 1 }).sendFlit
          n.toNat flitAck p.rxNext 1 vc []).ackFlit n.toNat f
      else s.sendNak n.toNat) := by
  have row : exec (.flitDataReceive n f) s = execFlitDataReceive n f s := rfl
  simp only [row, execFlitDataReceive, hn, PortS.not_idle hst, Bool.not_true, Bool.false_eq_true, if_false, beq_iff_eq]
  by_cases good : (s.port n.toNat).sound n.toNat flitData f = true ∧ f.fseq.toNat = (s.port n.toNat).rxNext
  · rw [if_pos good, if_neg (by simp [good])]
  · rw [if_neg good, if_pos (by
      simpa only [Bool.or_eq_true, Bool.not_eq_true', bne_iff_ne, ne_eq, Bool.not_eq_true] using
        Decidable.not_and_iff_or_not.1 good)]

theorem exec_fecLockLoss_carries : exec (.fecLockLoss n) s = .next (s.toTrain n.toNat) := by
  have row : exec (.fecLockLoss n) s = execFecLockLoss n s := rfl
  rcases hst with h | h <;> simp [row, execFecLockLoss, hn, h]

end

/-- Settles O40: each flit by its checks, and a nak by the replays that came before it. -/
theorem flitRowsRun : Obligations.FlitRowsRun := by
  unfold Obligations.FlitRowsRun
  intro s n hn p passed hst
  refine ⟨fun f sound inSeq => ?data, fun f bad => ?discarded, fun h pay k => ?ack,
    fun f idle => s.ackFlit_replay _ f idle, fun f => ?nak, fun a f fs left => ?replays,
    ⟨_, exec_fecLockLoss_carries hn hst, congrArg PortS.st (s.toTrain_port _)⟩⟩
  case data =>
    refine ⟨_, (exec_flitDataReceive hn hst f).trans (congrArg _ (if_pos ⟨sound, inSeq⟩)), ?_, ?_, ?_⟩
    · rw [State.sendFlit_port, State.setPort_port]
    · rw [State.sendFlit_mem, State.setPort_mem]
    · exact State.sendFlit_acks _ _ (by decide) ..
  case discarded =>
    refine ⟨(exec_flitDataReceive hn hst f).trans (congrArg _ (if_neg fun good => ?_)), ?_⟩
    · rcases bad with bad | bad
      · exact absurd good.1 (by rw [bad]; decide)
      · exact bad good.2
    · obtain ⟨a, sent, names, -⟩ :=
        s.sendFlit_acks n.toNat (ftype := flitNak) (by decide) ((p.rxNext + 4095) % 4096) 0 0 []
      exact ⟨a, sent, names⟩
  case ack =>
    exact State.takeFlit_carries hn (Flit.of h pay k) (fun t => t.ackFlit n.toNat (Flit.of h pay k)) hst
  case nak =>
    exact State.takeFlit_carries hn f (fun t =>
      (t.gainCredits n.toNat f.creditVc.toNat f.credits.toNat).replay n.toNat f.ackseq.toNat) hst
  case replays =>
    intro again t
    have run : t = _ := s.replay_from n.toNat left
    refine ⟨fun ⟨same, many⟩ => ?_, fun fewer => ?_⟩
    · rw [run, if_pos same, if_pos (Nat.succ_le_succ many)]
      rw [State.toTrain_port]
      rfl
    · have few : ¬ 16 ≤ if again then p.replayCount + 1 else 1 := by
        split
        · rename_i same
          exact fun many => fewer ⟨same, Nat.le_of_succ_le_succ many⟩
        · decide
      have port : t.port n.toNat = { p with replay := f :: fs, replayFrom := f.fseq.toNat,
                                            replayCount := if again then p.replayCount + 1 else 1 } := by
        rw [run, if_neg few]
        exact s.setPort_port _ _
      rw [port]
      exact ⟨rfl, rfl, fun same => if_pos same, fun other => if_neg other, by rw [run, if_neg few]; rfl⟩

end Sys2Proof.Machine

namespace Sys2Proof.Machine
open Sys2Proof

/-! ### Packet rows and the timers of one cycle (R274, R278, R340) -/

section
variable {s : State} {n : Nat} (hn : inRange n s.nPorts = true) {k : Pkt} {cls fop : Nat} (body : State → State)
include hn

theorem State.packetRow_untaken (h : s.takes n k cls fop = false) : s.packetRow n k cls fop body = .next s := by
  simp [State.packetRow, hn, h]

theorem State.packetRow_missed (taken : s.takes n k cls fop = true) (absent : s.fab.cache.contains k.srcPart.toNat = false) :
    s.packetRow n k cls fop body = .next (s.missArrival n k) := by
  simp only [State.packetRow, hn, taken, absent, Bool.not_true, Bool.not_false, Bool.false_eq_true, if_false, if_true]

theorem State.packetRow_taken (taken : s.takes n k cls fop = true) (cached : s.fab.cache.contains k.srcPart.toNat = true) :
    s.packetRow n k cls fop body = .next (body (s.touchEpt k.srcPart.toNat)) := by
  simp only [State.packetRow, hn, taken, cached, Bool.not_true, Bool.false_eq_true, if_false]

end

section
variable (s : State) {row : Instr} {e : Nat} {f : Instr → Bool} (body : State → State)

/-- A timer that has not stood back is not run by an arrival. -/
theorem State.untie_free (free : s.tied.contains row = false) : s.untie row f body = s :=
  if_neg (by rw [free]; exact Bool.false_ne_true)

/-- One that has stood back still waits while an arrival of its cycle is to come. -/
theorem State.untie_comes (more : s.comes f = true) : s.untie row f body = s := if_neg (by simp [more])

theorem State.untie_runs (tied : s.tied.contains row = true) (calm : s.comes f = false) :
    s.untie row f body = body { s with tied := s.tied.filter fun r => r != row } := if_pos (by rw [tied, calm]; rfl)

theorem State.expire_ties (now : s.now = e) (more : s.comes f = true) :
    s.expire row e f body = { s with tied := s.tied ++ [row] } := if_pos (by simp [now, more])

theorem State.expire_runs (calm : s.now = e → s.comes f = false) : s.expire row e f body = body s :=
  if_neg fun h => by
    obtain ⟨now, more⟩ := Bool.and_eq_true_iff.1 h
    rw [calm (beq_iff_eq.1 now)] at more
    exact Bool.false_ne_true more

end

/-! ### Requests, acknowledgements and endpoint contexts (R274 to R278, R282, R340) -/

/-- The rows of the packets of transactions, each with its class and its operation (R278). -/
def fabRows (n : BitVec 5) (k : Pkt) : List (Instr × Nat × Nat) :=
  [(.fabReadRequest n k, 0, 0x01), (.fabWriteRequest n k, 0, 0x02), (.fabAtomicRequest n k, 0, 0x03),
    (.fabResponse n k, 1, 0x04)]

section
variable (s : State) (n : BitVec 5) (k : Pkt)

theorem exec_fabReadRequest : exec (.fabReadRequest n k) s
    = s.packetRow n.toNat k 0 0x01 fun t => t.serveRead n.toNat k s.now := rfl
theorem exec_fabWriteRequest : exec (.fabWriteRequest n k) s
    = s.packetRow n.toNat k 0 0x02 fun t => t.serveWrite n.toNat k s.now := rfl
theorem exec_fabAtomicRequest : exec (.fabAtomicRequest n k) s
    = s.packetRow n.toNat k 0 0x03 fun t => t.serveAtomic n.toNat k s.now := rfl
theorem exec_fabResponse : exec (.fabResponse n k) s
    = s.packetRow n.toNat k 1 0x04 fun t => t.takeAnswer n.toNat k s.now := rfl

end

theorem exec_of_mem_fabRows {n : BitVec 5} {k : Pkt} {r : Instr × Nat × Nat} (h : r ∈ fabRows n k) (s : State) :
    ∃ body, exec r.1 s = s.packetRow n.toNat k r.2.1 r.2.2 body := by
  simp only [fabRows, List.mem_cons, List.not_mem_nil, or_false] at h
  rcases h with rfl | rfl | rfl | rfl
  · exact ⟨_, exec_fabReadRequest s n k⟩
  · exact ⟨_, exec_fabWriteRequest s n k⟩
  · exact ⟨_, exec_fabAtomicRequest s n k⟩
  · exact ⟨_, exec_fabResponse s n k⟩

theorem State.missArrival_missCount (s : State) (n : Nat) (k : Pkt) :
    (s.missArrival n k).reg .ngfEptMiss 0 = Reg.cut .ngfEptMiss (s.reg .ngfEptMiss 0 + 1) := by
  simp only [State.missArrival, State.bump_eq, State.setReg_reg]
  rfl

section
variable {s : State} {n : BitVec 16} {q : W32}

theorem exec_e2eRetxTimeout_none (none : s.unacked n.toNat q.toNat = none) : exec (.e2eRetxTimeout n q) s = .next s := by
  have row : exec (.e2eRetxTimeout n q) s = execE2eRetxTimeout n q s := rfl
  simp only [row, execE2eRetxTimeout, none]

theorem State.takeAck_none {n q : Nat} (none : s.unacked n q = none) :
    s.takeAck n q = if (s.ept n).gone.contains q then s.lateDrop else s := by
  simp only [State.takeAck, none]

section
variable {u : Unacked} (hu : s.unacked n.toNat q.toNat = some u)
include hu

theorem exec_e2eRetxTimeout_early (early : s.now < u.sentAt + retxNs) : exec (.e2eRetxTimeout n q) s = .next s := by
  have row : exec (.e2eRetxTimeout n q) s = execE2eRetxTimeout n q s := rfl
  simp only [row, execE2eRetxTimeout, hu, early, decide_true, if_true]

theorem exec_e2eRetxTimeout_due (due : u.sentAt + retxNs ≤ s.now) : exec (.e2eRetxTimeout n q) s
    = .next (s.expire (.e2eRetxTimeout n q) (u.sentAt + retxNs) (isAckOf n q) fun t => t.retxExpired n.toNat q.toNat) := by
  have row : exec (.e2eRetxTimeout n q) s = execE2eRetxTimeout n q s := rfl
  simp only [row, execE2eRetxTimeout, hu, Nat.not_lt.2 due, decide_false, Bool.false_eq_true, if_false]

/-- An acknowledgement before the last expiry ends the retransmissions; at an expiry it suppresses the timer (R340). -/
theorem State.takeAck_inTime (inTime : s.now ≤ u.sentAt + retxNs) : s.takeAck n.toNat q.toNat
    = ((if s.now = u.sentAt + retxNs then s.lateClose else s).endUnacked n.toNat u).collFollow u.flight := by
  simp only [State.takeAck, hu, Nat.not_lt.2 inTime, decide_false, Bool.false_and, Bool.false_eq_true, if_false, beq_iff_eq]

theorem State.takeAck_late (late : u.sentAt + retxNs < s.now) (last : 8 ≤ u.retx) :
    s.takeAck n.toNat q.toNat = s.lateDrop := by
  simp only [State.takeAck, hu, late, last, decide_true, Bool.and_self, if_true]

theorem State.retxExpired_eq : s.retxExpired n.toNat q.toNat
    = if 8 ≤ u.retx then s.unreachable n.toNat u else s.resend n.toNat q.toNat true := by
  simp only [State.retxExpired, hu]

end

theorem exec_eptFill_idle (h : s.fab.cache.contains n.toNat = true ∨ s.fab.awaits n.toNat = false) :
    exec (.eptFill n) s = .next s := by
  have row : exec (.eptFill n) s = execEptFill n s := rfl
  exact row.trans (if_pos (by rcases h with h | h <;> simp only [h, Bool.not_false, Bool.true_or, Bool.or_true]))

theorem exec_eptFill (absent : s.fab.cache.contains n.toNat = false) (awaited : s.fab.awaits n.toNat = true) :
    exec (.eptFill n) s = .next ((s.updFab fun f => f.filled n.toNat).proceed s.fab n.toNat) := by
  have row : exec (.eptFill n) s = execEptFill n s := rfl
  exact row.trans (if_neg (by rw [absent, awaited]; decide))

/-- After a part fault only what the part itself sends goes on (R370). -/
theorem State.proceed_partFault {f : FabS} {n : Nat} (fault : s.boot.partFault = true) (out : f.missOut = [])
    (retx : f.missRetx = []) : s.proceed f n = s := by
  simp only [State.proceed, out, retx, List.filter_nil, List.foldl_nil, fault, if_true]

theorem exec_txnSlotFree_idle (none : s.fab.waiting.find? (fun w => !s.fenced w.flight) = none) :
    exec .txnSlotFree s = .next s := by
  have row : exec .txnSlotFree s = execTxnSlotFree s := rfl
  simp only [row, execTxnSlotFree, none]

/-- The first packet that waits for no fence takes the transaction that is free (R276). -/
theorem exec_txnSlotFree {w : FabWait} (first : s.fab.waiting.find? (fun w => !s.fenced w.flight) = some w)
    (free : s.txnFree = true) :
    let t := s.updFab fun f => { f with waiting := dropFirst (fun x => x == w) f.waiting }
    exec .txnSlotFree s = .next (if (w.partner == s.ownPart && w.kind != .coll) = true
      then (t.serveOwn w).fabFollow w.flight else t.launch w) := by
  have row : exec .txnSlotFree s = execTxnSlotFree s := rfl
  have own : (s.updFab fun f => { f with waiting := dropFirst (fun x => x == w) f.waiting }).ownPart = s.ownPart := rfl
  simp only [row, execTxnSlotFree, first, free, own, Bool.not_true, Bool.false_eq_true, if_false]
  split <;> rfl

end

/-- Settles O20: packets by what the part takes and has cached, the timer by the time of its packet, and what waits by what
it waits for. -/
theorem fabricRowsRun : Obligations.FabricRowsRun := by
  unfold Obligations.FabricRowsRun
  refine ⟨fun s n k hn => ?packets, fun s n q => ?acks, fun s =>
    ⟨fun n absent awaited => ?fills, fun n h => exec_eptFill_idle h, fun w first free => ?slot,
      fun none => exec_txnSlotFree_idle none⟩⟩
  case packets =>
    refine ⟨fun cached => ⟨fun taken => (exec_fabReadRequest s n k).trans (State.packetRow_taken hn _ taken cached),
      fun taken => (exec_fabWriteRequest s n k).trans (State.packetRow_taken hn _ taken cached),
      fun taken => (exec_fabAtomicRequest s n k).trans (State.packetRow_taken hn _ taken cached),
      fun taken => (exec_fabResponse s n k).trans (State.packetRow_taken hn _ taken cached)⟩,
      fun r hr untaken => ?untaken, fun r hr taken absent => ?missed⟩
    case untaken =>
      obtain ⟨body, row⟩ := exec_of_mem_fabRows hr s
      exact row.trans (State.packetRow_untaken hn body untaken)
    case missed =>
      obtain ⟨body, row⟩ := exec_of_mem_fabRows hr s
      exact ⟨_, row.trans (State.packetRow_missed hn body taken absent), rfl, rfl, rfl, rfl, s.missArrival_missCount _ k⟩
  case acks =>
    refine ⟨rfl, fun none free => ⟨?_, exec_e2eRetxTimeout_none none⟩, fun u hu =>
      ⟨fun early => ⟨?_, exec_e2eRetxTimeout_early hu early⟩, fun now => ⟨?_, fun more => ?_⟩,
        fun late last => State.takeAck_late hu late last, fun due => ?_⟩,
      fun f body => ⟨s.untie_free body, s.untie_comes body, s.untie_runs body⟩⟩
    · have row : exec (.e2eAck n q) s = execE2eAck n q s := rfl
      rw [row, execE2eAck, State.takeAck_none none]
      exact congrArg _ (State.untie_free _ _ (State.ite_kept (·.tied.contains (.e2eRetxTimeout n q)) free free))
    · rw [State.takeAck_inTime hu (Nat.le_of_lt early), if_neg (Nat.ne_of_lt early)]
    · rw [State.takeAck_inTime hu (Nat.le_of_eq now), if_pos now]
    · rw [exec_e2eRetxTimeout_due hu (Nat.le_of_eq now.symm), s.expire_ties _ now more]
    · have runs : exec (.e2eRetxTimeout n q) s = .next (s.retxExpired n.toNat q.toNat) := by
        rcases due with late | ⟨now, calm⟩
        · rw [exec_e2eRetxTimeout_due hu (Nat.le_of_lt late), s.expire_runs _ fun now => absurd now (Nat.ne_of_gt late)]
        · rw [exec_e2eRetxTimeout_due hu (Nat.le_of_eq now), s.expire_runs _ fun _ => calm]
      rw [runs, State.retxExpired_eq hu]
      exact ⟨fun more => by rw [if_neg (Nat.not_le.2 more)], fun last => by rw [if_pos last]⟩
  case fills =>
    have run := exec_eptFill absent awaited
    exact ⟨run, rfl, fun fault out retx => run.trans (congrArg _ (State.proceed_partFault fault out retx))⟩
  case slot =>
    have run := exec_txnSlotFree first free
    exact ⟨fun other => run.trans (congrArg _ (if_neg (by rw [other]; exact Bool.false_ne_true))),
      fun own => run.trans (congrArg _ (if_pos own))⟩

end Sys2Proof.Machine

namespace Sys2Proof.Machine
open Sys2Proof

/-! ### The rows of transactions (R275, R335, R338, R340) -/

section
variable {s : State} {n : BitVec 5} (hn : inRange n.toNat s.nPorts = true) {w : W32} {r : Pkt}
  (cached : s.fab.cache.contains r.srcPart.toNat = true)
include hn cached

theorem exec_txnVote {b : W32} (taken : s.takes n.toNat (Pkt.leading [w, b] r) 3 0x01 = true) :
    exec (.txnVote n w b r) s = .next (((s.touchEpt r.srcPart.toNat).takeMgmt (Pkt.leading [w, b] r)).untie
      (.voteTimeout r.dstCtx w) (isVoteOf r.dstCtx w) fun t => t.voteExpired r.dstCtx.toNat w) :=
  congrArg (fun o => Out.andThen o fun t => t.untie (.voteTimeout r.dstCtx w) (isVoteOf r.dstCtx w) fun t =>
    t.voteExpired r.dstCtx.toNat w) (State.packetRow_taken hn (fun t => t.takeMgmt (Pkt.leading [w, b] r)) taken cached)

theorem exec_txnDecision (taken : s.takes n.toNat (Pkt.leading [w] r) 3 0x02 = true) :
    exec (.txnDecision n w r) s = .next (((s.touchEpt r.srcPart.toNat).takeMgmt (Pkt.leading [w] r)).untie
      (.decisionWaitTimeout r.dstCtx w) (isDecisionOf r.dstCtx w) fun t => t.waitExpired r.dstCtx.toNat w) :=
  congrArg (fun o => Out.andThen o fun t => t.untie (.decisionWaitTimeout r.dstCtx w) (isDecisionOf r.dstCtx w) fun t =>
    t.waitExpired r.dstCtx.toNat w) (State.packetRow_taken hn (fun t => t.takeMgmt (Pkt.leading [w] r)) taken cached)

end

section
variable {s : State} {c : Nat} {w : W32}

/-! A vote at the coordinator. -/

section
variable (answers : s.answers c = true) (coordinates : s.coordinates c = true) (r st : Nat)
include answers coordinates

theorem State.takeVote_overdue {o : W32 × Nat × Bool}
    (due : (s.ctx c).overdue.find? (fun o => o.1 == w && o.2.1 == r) = some o) :
    let t := { s with freeCount := s.freeCount + 1 }.updCtx c fun y =>
      { y with overdue := dropFirst (fun z => z == o) y.overdue }
    s.takeVote c w r st = if Config.isLate s.freeCount then (if o.2.2 then t.lateDrop else t) else t.countVote c w r st := by
  simp only [State.takeVote, answers, coordinates, due, Bool.not_true, Bool.or_self, Bool.false_eq_true, if_false]
  rfl

theorem State.takeVote_counts (none : (s.ctx c).overdue.find? (fun o => o.1 == w && o.2.1 == r) = none) :
    s.takeVote c w r st = s.countVote c w r st := by
  simp only [State.takeVote, answers, coordinates, none, Bool.not_true, Bool.or_self, Bool.false_eq_true, if_false]

end

section
variable {x : Txn} (hx : s.voting c w = some x)
include hx

/-- A vote before the expiry is kept, and the coordinator decides when it can (R338). -/
theorem State.countVote_inTime (r st : Nat) (early : s.now < x.votedAt + x.voteUs * 1000) : s.countVote c w r st =
    ((s.updCtx c fun y => { y with votes := (y.votes.filter fun v => !(v.1 == w && v.2.1 == r)) ++ [(w, r, st)] }).tryDecide
      x x.own).2 := by
  have notLate : ¬ x.voteExpiry < s.now := Nat.not_lt.2 (Nat.le_of_lt early)
  have notTied : (s.now == x.voteExpiry) = false := beq_false_of_ne (Nat.ne_of_lt early)
  simp only [State.countVote, hx, if_neg notLate, notTied, Bool.and_false, Bool.false_eq_true, if_false]

theorem State.countVote_late (r st : Nat) (late : x.votedAt + x.voteUs * 1000 < s.now) : s.countVote c w r st
    = (s.updCtx c fun y => { y with tardyVotes := y.tardyVotes ++ [(w, r)] }).lateDrop := by
  have expired : x.voteExpiry < s.now := late
  simp only [State.countVote, hx, if_pos expired]

/-! A decision at a member. -/

section
variable (answers : s.answers c = true) (b : Bool)
include answers

theorem State.takeDecision_inTime (early : s.now < x.votedAt + (x.voteUs + 1000) * 1000) :
    s.takeDecision c w b = s.decideTxn x b := by
  have notLate : ¬ x.waitExpiry < s.now := Nat.not_lt.2 (Nat.le_of_lt early)
  have notTied : (s.now == x.waitExpiry) = false := beq_false_of_ne (Nat.ne_of_lt early)
  simp only [State.takeDecision, answers, hx, if_neg notLate, notTied, Bool.not_true, Bool.false_eq_true, if_false]

theorem State.takeDecision_late (late : x.votedAt + (x.voteUs + 1000) * 1000 < s.now) :
    s.takeDecision c w b = s.lateDrop := by
  have expired : x.waitExpiry < s.now := late
  simp only [State.takeDecision, answers, hx, if_pos expired, Bool.not_true, Bool.false_eq_true, if_false]

end

theorem State.voteExpired_eq : s.voteExpired c w = ((((s.expectLate x true).sendDecision x false).dropVotes c w).updCtx c
    fun y => { y with closedVotes := y.closedVotes ++ [w] }).decideTxn x false := by
  simp only [State.voteExpired, hx]

theorem State.waitExpired_eq : s.waitExpired c w
    = (s.updCtx c fun y => { y with closedWaits := y.closedWaits ++ [w] }).decideTxn x false := by
  simp only [State.waitExpired, hx]

end
end

/-! The two timers. -/

section
variable {s : State} {c : BitVec 6} {w : W32} {x : Txn} (hx : s.voting c.toNat w = some x)
include hx

theorem exec_voteTimeout (answers : s.answers c.toNat = true) (coordinates : s.coordinates c.toNat = true)
    (due : x.votedAt + x.voteUs * 1000 ≤ s.now) : exec (.voteTimeout c w) s
      = .next (s.expire (.voteTimeout c w) (x.votedAt + x.voteUs * 1000) (isVoteOf c w) fun t =>
        t.voteExpired c.toNat w) := by
  have row : exec (.voteTimeout c w) s = execVoteTimeout c w s := rfl
  have expired : ¬ s.now < x.voteExpiry := Nat.not_lt.2 due
  simp only [row, execVoteTimeout, answers, coordinates, hx, if_neg expired, Bool.not_true, Bool.or_self, Bool.false_eq_true,
    if_false]
  rfl

theorem exec_decisionWaitTimeout (due : x.votedAt + (x.voteUs + 1000) * 1000 ≤ s.now) : exec (.decisionWaitTimeout c w) s
    = .next (s.expire (.decisionWaitTimeout c w) (x.votedAt + (x.voteUs + 1000) * 1000) (isDecisionOf c w) fun t =>
      t.waitExpired c.toNat w) := by
  have row : exec (.decisionWaitTimeout c w) s = execDecisionWaitTimeout c w s := rfl
  have expired : ¬ s.now < x.waitExpiry := Nat.not_lt.2 due
  simp only [row, execDecisionWaitTimeout, hx, if_neg expired]
  rfl

end

/-- Settles O34: a vote and a decision by the time of their transaction, and each timer by the arrivals of its cycle. -/
theorem transactionRowsRun : Obligations.TransactionRowsRun := by
  unfold Obligations.TransactionRowsRun
  refine fun s c w => ⟨fun n ready => ?apply, fun n b r hn cached hc => ?packets,
    fun t => ⟨fun free f body => t.untie_free body free, fun free f body => t.untie_free body free⟩,
    fun r st o answers coordinates due => State.takeVote_overdue answers coordinates r st due,
    fun r st x answers coordinates hx none => ?vote,
    fun b x answers hx => ⟨State.takeDecision_inTime hx answers b, State.takeDecision_late hx answers b⟩,
    fun x answers coordinates hx due => ?voteTimer, fun x hx due calm => ?waitTimer⟩
  case apply =>
    have row : exec (.cfgApplyIdle n) s = execCfgApplyIdle n s := rfl
    constructor <;> intro idle <;> simp [row, execCfgApplyIdle, ready, idle]
  case packets =>
    subst hc
    exact ⟨exec_txnVote hn cached, exec_txnDecision hn cached⟩
  case vote =>
    rw [State.takeVote_counts answers coordinates r st none]
    exact ⟨State.countVote_inTime hx r st, State.countVote_late hx r st⟩
  case voteTimer =>
    rw [exec_voteTimeout hx answers coordinates due]
    exact ⟨fun calm => by rw [s.expire_runs _ calm, State.voteExpired_eq hx],
      fun now more => by rw [s.expire_ties _ now more]⟩
  case waitTimer => rw [exec_decisionWaitTimeout hx due, s.expire_runs _ calm, State.waitExpired_eq hx]

end Sys2Proof.Machine

namespace Sys2Proof.Machine
open Sys2Proof

/-! ### Owners of clusters (R310, R324) -/

theorem State.setOwner_ownerOf_ite (s : State) (k : Nat) (o : Option Nat) (j : Nat) :
    (s.setOwner k o).ownerOf j = if j = k then o else s.ownerOf j := by
  split
  · next h => exact h ▸ s.setOwner_ownerOf k o
  · next h => exact s.setOwner_ownerOf_ne k o j h

/-- Zeroing a cluster leaves every owner. -/
@[simp] theorem State.clearCluster_ownerOf (s : State) (k j : Nat) : (s.clearCluster k).ownerOf j = s.ownerOf j := rfl

/-- A loop whose rounds give the cluster that they are about to `o` gives it all of them. -/
theorem State.foldl_ownerOf {f : State → Nat → State} {o : Option Nat}
    (hf : ∀ s k j, (f s k).ownerOf j = if j = k then o else s.ownerOf j) (ks : List Nat) (s : State) (j : Nat) :
    (ks.foldl f s).ownerOf j = if ks.contains j then o else s.ownerOf j := by
  induction ks generalizing s with
  | nil => rfl
  | cons k ks ih =>
    rw [List.foldl_cons, ih, hf, List.contains_cons]
    by_cases same : j = k
    · simp [same]
    · simp [same]

/-- Settles O37: each round of the two loops gives one cluster its owner. -/
theorem clusterOwnersFollowAssignment : Obligations.ClusterOwnersFollowAssignment := by
  unfold Obligations.ClusterOwnersFollowAssignment
  intro s c ks k
  refine ⟨State.foldl_ownerOf (fun s k => s.setOwner_ownerOf_ite k (some c)) ks s k,
    State.foldl_ownerOf (fun s k j => ?released) ks s k,
    State.foldl_kept (·.mem) (f := fun s k => s.setOwner k (some c)) (fun _ _ => rfl) ks s,
    State.foldl_kept (·.regs) (f := fun s k => s.setOwner k (some c)) (fun _ _ => rfl) ks s⟩
  case released => rw [State.setOwner_ownerOf_ite, State.clearCluster_ownerOf]

/-! ### A field that names an engine (R309, R317) -/

/-- A fault of a field and one of its owner name the packet's word; a retired unit has no detail (R317). -/
theorem Err.word_badField (w : Nat) : Err.word St.badField w = ⟨St.badField, BitVec.ofNat 32 w⟩ := rfl
theorem Err.word_notOwner (w : Nat) : Err.word St.notOwner w = ⟨St.notOwner, BitVec.ofNat 32 w⟩ := rfl
theorem Err.word_engineRetired (w : Nat) : Err.word St.engineRetired w = ⟨St.engineRetired, 0⟩ := rfl

/-- Settles O14: the checks in their order. -/
theorem engineFieldChecks : Obligations.EngineFieldChecks := by
  unfold Obligations.EngineFieldChecks
  intro s c w e
  refine ⟨fun absent => ?range, fun present other => ?owner, fun present own gone => ?retired,
    fun present own works => ?passes⟩
  case range => simp [State.chkEngine, absent, Err.word_badField]
  case owner => simp [State.chkEngine, clusterOfEng, present, other, Err.word_notOwner]
  case retired =>
    have retired : e ∈ s.retEng := by simpa using gone
    simp [State.chkEngine, clusterOfEng, present, own, retired, Err.word_engineRetired]
  case passes =>
    have healthy : e ∉ s.retEng := by simpa using works
    simp [State.chkEngine, clusterOfEng, present, own, healthy]

end Sys2Proof.Machine

namespace Sys2Proof.Machine
open Sys2Proof

/-! ### A visit to the head of a queue (R303, R308, R312, R367) -/

/-- A command that comes as a packet of an assigned opcode visits the head of its queue. -/
theorem exec_of_packetOf {i : Instr} {h : Hdr} {o : Opc} (hi : packetOf i = some (h, o)) :
    ∃ run, ∀ s, exec i s = s.packet s.txnScopes h o run := by
  cases i <;> cases hi <;> exact ⟨_, fun _ => rfl⟩

section
variable {s : State} {q n : Nat} {body : State → State}

/-- Nothing happens while the queue is not served or its turn has not come (R308). -/
theorem State.visit_unserved (h : inRange q s.nQueues = false ∨ s.queueLive q = false ∨ s.turn q = false) :
    s.visit q n body = .next s := by
  rcases h with h | h | h <;> simp [State.visit, h]

section
variable (range : inRange q s.nQueues = true) (live : s.queueLive q = true) (turn : s.turn q = true)
include range live turn

/-- A packet that is not published whole uses up its queue's visit. -/
theorem State.visit_unpublished (h : (s.queue q).published < n) : s.visit q n body = .next (s.visited q) := by
  have unpublished : ((s.visited q).queue q).published < n := h
  simp [State.visit, range, live, turn, unpublished]

/-- What the fetch finds wrong with the ring decides the visit (R303, R367). -/
theorem State.visit_fetchFault (h : n ≤ (s.queue q).published) {t : State}
    (fault : (s.visited q).fetchFault q n = some t) :
    s.visit q n body = .next t := by
  have published : ¬ ((s.visited q).queue q).published < n := Nat.not_lt.2 h
  simp [State.visit, range, live, turn, published, fault]

end

/-- A ring page that is not mapped, in HBM and unsealed stops the queue (R303). -/
theorem State.fetchFault_badPage (h : (((s.queue q).slotAddrs n).any fun a => !s.ringOk (s.queue q).ctx a) = true) :
    s.fetchFault q n = some (s.queueStop q) := if_pos h

/-- On good pages a poisoned slot ends the queue's context, and is a part fault on the admin queue (R303, R367). -/
theorem State.fetchFault_poisoned (good : (((s.queue q).slotAddrs n).all fun a => s.ringOk (s.queue q).ctx a) = true)
    (h : (((s.queue q).slotAddrs n).any fun a => s.vaPoisoned (s.queue q).ctx a) = true) :
    s.fetchFault q n
      = some (if (s.queue q).ctx == adminCtx then s.partFaulted else s.terminate (s.queue q).ctx 2) := by
  have pages : (((s.queue q).slotAddrs n).any fun a => !s.ringOk (s.queue q).ctx a) = false := by
    rw [List.any_eq_not_all_not]
    simpa using good
  simp only [State.fetchFault, pages, h]
  rfl

end

section
variable {s : State} {q : Nat} {h : Hdr} {o : Opc}

/-- A packet that can be read is looked at where it lies. -/
theorem exec_served {i : Instr} (hi : packetOf i = some (h, o)) (r : s.Served h) :
    ∃ run, exec i s = .next ((s.visited h.ring.toNat).head s.txnScopes h o run) := by
  obtain ⟨run, row⟩ := exec_of_packetOf hi
  exact ⟨run, (row s).trans (State.visit_served r _)⟩

/-- A packet without a header fault that must wait has its wait noted (R315, R399). -/
theorem State.head_waits {sc : Scopes} {run : Nat → Nat → State → State} {w : Nat × Nat}
    (fine : s.headerFault h.ring.toNat h (some o) = none)
    (waits : s.headWait h.ring.toNat h o (s.applyStops sc (s.queue h.ring.toNat).ctx) = some w) :
    s.head sc h o run = s.noteWait h.ring.toNat w := by
  simp only [State.head, fine, waits]

/-- One with a header fault completes or waits, whatever its row would do (R312). -/
theorem State.head_faults {sc : Scopes} {run : Nat → Nat → State → State} {e : Err}
    (fault : s.headerFault h.ring.toNat h (some o) = some e) :
    s.head sc h o run = s.faultHead h.ring.toNat h o.code e := by
  simp only [State.head, fault]

end

/-- Settles O6: the visit ends before the packet, at its fetch or with its wait noted. -/
theorem waitingPacketStays : Obligations.WaitingPacketStays := by
  unfold Obligations.WaitingPacketStays
  intro i h o s hi q seen c
  obtain ⟨run, row⟩ := exec_of_packetOf hi
  refine ⟨rfl, fun unserved => (row s).trans (State.visit_unserved unserved), fun range live turn =>
    ⟨fun short => (row s).trans (State.visit_unpublished range live turn short),
      fun whole => ⟨fun bad => ?stops, fun good pois => ⟨fun ctx => ?ends, fun admin => ?faults⟩⟩⟩,
    fun w r fine waits => ?waits⟩
  case stops =>
    exact (row s).trans (State.visit_fetchFault range live turn whole (State.fetchFault_badPage (s := seen) bad))
  case ends =>
    have fault := (State.fetchFault_poisoned (s := seen) good pois).trans (congrArg some (if_neg (mt eq_of_beq ctx)))
    exact (row s).trans (State.visit_fetchFault range live turn whole fault)
  case faults =>
    have fault := (State.fetchFault_poisoned (s := seen) good pois).trans (congrArg some (if_pos (beq_iff_eq.2 admin)))
    exact (row s).trans (State.visit_fetchFault range live turn whole fault)
  case waits =>
    exact ((row s).trans (State.visit_served r _)).trans (congrArg _ (State.head_waits (s := seen) fine waits))

/-! ### Header faults at the head of a queue (R307, R312) -/

section
variable {s : State} {q : Nat} {h : Hdr} {code : Nat} {e : Err}

/-- A packet with a header fault completes once nothing holds it. -/
theorem State.faultHead_completes (free : s.faultWait q = none) : s.faultHead q h code e = s.headerReject q h code e := by
  simp only [State.faultHead, free]

theorem State.faultHead_waits {w : Nat × Nat} (held : s.faultWait q = some w) :
    s.faultHead q h code e = s.noteWait q w := by
  simp only [State.faultHead, held]

/-- What holds such a packet: a memory wait, its calendar, the limits of its queue. -/
theorem State.faultWait_eq_none_iff :
    s.faultWait q = none ↔ s.memWaits q = false ∧ s.calAllows q = true ∧ s.limitsAllow q = true := by
  unfold State.faultWait
  cases s.memWaits q <;> cases s.calAllows q <;> cases s.limitsAllow q <;> simp

end

/-- A packet of an unassigned opcode that can be read has a header fault at once (R17, R312). -/
theorem exec_unassignedOpcode {s : State} {h : Hdr} {op : BitVec 12} {e : Err} (r : s.Served h)
    (unassigned : assignedOpcodes.contains op.toNat = false) (fault : s.headerFault h.ring.toNat h none = some e) :
    exec (.unassignedOpcode h op) s = .next ((s.visited h.ring.toNat).faultHead h.ring.toNat h op.toNat e) := by
  have row : exec (.unassignedOpcode h op) s = execUnassignedOpcode h op s := rfl
  have seen : (s.visited h.ring.toNat).headerFault h.ring.toNat h none = some e := fault
  rw [row, execUnassignedOpcode, if_neg (Bool.eq_false_iff.1 unassigned), State.visit_served r]
  simp only [seen]

/-- Settles O8: the packet is taken and rejected where nothing holds it, and else its wait is noted. -/
theorem headerFaultCompletes : Obligations.HeaderFaultCompletes := by
  unfold Obligations.HeaderFaultCompletes
  intro h s e r q seen done stays
  refine ⟨fun i o hi fault => ?assigned, fun op unassigned fault => ?unassigned, State.faultWait_eq_none_iff⟩
  case assigned =>
    obtain ⟨run, row⟩ := exec_served hi r
    rw [row, State.head_faults (s := seen) fault]
    exact ⟨fun free => congrArg _ (State.faultHead_completes (s := seen) free),
      fun w held => congrArg _ (State.faultHead_waits (s := seen) held)⟩
  case unassigned =>
    rw [exec_unassignedOpcode r unassigned fault]
    exact ⟨fun free => congrArg _ (State.faultHead_completes (s := seen) free),
      fun w held => congrArg _ (State.faultHead_waits (s := seen) held)⟩

end Sys2Proof.Machine

namespace Sys2Proof.Machine
open Sys2Proof

/-! ### Doorbells and the memory wait (R305, R321) -/

section
variable {s : State} {q i : Nat} (present : (s.queue q).present = true) (ready : s.boot.phase = .ready)
include present ready

/-- A producer index within the ring publishes the slots up to it (R305). -/
theorem State.publish_within (h : i < 2 ^ (s.queue q).ringLog2) : s.publish q i = s.setQueue q { s.queue q with
    prod := i, published := (s.queue q).published
      + (i + 2 ^ (s.queue q).ringLog2 - (s.queue q).prod) % 2 ^ (s.queue q).ringLog2 } := by
  simp [State.publish, present, ready, Nat.not_le.2 h]

theorem State.publish_beyond (h : 2 ^ (s.queue q).ringLog2 ≤ i) :
    s.publish q i = s.setQueue q { s.queue q with badWrite := true } := by
  simp [State.publish, present, ready, h]

/-- A consumer index within the ring frees the records up to it (R305). -/
theorem State.freeRecords_within (h : i < 2 ^ (s.queue q).cplLog2) : s.freeRecords q i = s.setQueue q { s.queue q with
    cons := i, unread := (s.queue q).unread
      - (i + 2 ^ (s.queue q).cplLog2 - (s.queue q).cons) % 2 ^ (s.queue q).cplLog2 } := by
  simp [State.freeRecords, present, ready, Nat.not_le.2 h]

theorem State.freeRecords_beyond (h : 2 ^ (s.queue q).cplLog2 ≤ i) :
    s.freeRecords q i = s.setQueue q { s.queue q with badWrite := true } := by
  simp [State.freeRecords, present, ready, h]

end

/-- A command that is a waiting CTR_WAIT_MEM (R321). -/
def Flight.memWaiting (f : Flight) : Bool := match f.work with | .waitMem _ _ => true | _ => false

/-- A retest of the queue's CTR_WAIT_MEM: it is made unless the wait's word is still being read (R223, R321). -/
theorem exec_ctrWaitMemRetest {s : State} {q : BitVec 15} {f : Flight} {a v : W64}
    (first : (s.queueFlights q.toNat).find? Flight.memWaiting = some f) (work : f.work = .waitMem a v)
    (fault : s.boot.partFault = false) (running : s.boot.running = true) : exec (.ctrWaitMemRetest q) s
      = .next (if s.reading f.id then s else (s.readAndTest f.id f.ctx f.hdr a v).settle f.ctx) := by
  have row : exec (.ctrWaitMemRetest q) s = execCtrWaitMemRetest q s := rfl
  rw [row, execCtrWaitMemRetest, if_neg (by simp [fault, running])]
  split
  next none => cases first.symm.trans none
  next g found =>
    obtain rfl : f = g := Option.some.inj (first.symm.trans found)
    simp only [work]

/-- Settles O10: each doorbell by its index, and the retest by its read. -/
theorem doorbellsPublishAndFree : Obligations.DoorbellsPublishAndFree := by
  unfold Obligations.DoorbellsPublishAndFree
  intro s q present ready
  refine ⟨fun i within => ⟨_, congrArg Host.Outcome.next (State.publish_within present ready within), ?_⟩,
    fun i beyond => congrArg Host.Outcome.next (State.publish_beyond present ready beyond),
    fun i within => ⟨_, congrArg Host.Outcome.next (State.freeRecords_within present ready within), ?_⟩,
    fun i beyond => congrArg Host.Outcome.next (State.freeRecords_beyond present ready beyond),
    fun f a v first work fault running => ⟨fun done => ?tests, fun reads => ?reads⟩⟩
  · exact ⟨by rw [State.setQueue_queue], by rw [State.setQueue_queue], s.setQueue_queue_ne _ _, rfl⟩
  · exact ⟨by rw [State.setQueue_queue], by rw [State.setQueue_queue], s.setQueue_queue_ne _ _, rfl⟩
  case tests => exact (exec_ctrWaitMemRetest first work fault running).trans (congrArg _ (if_neg (by simp [done])))
  case reads => exact (exec_ctrWaitMemRetest first work fault running).trans (congrArg _ (if_pos reads))

/-! ### Queues, clusters and deep counters (R322 to R324, R395) -/

/-- Settles O35: each command's checks let it pass, and CTX_ASSIGN goes by its release bit. -/
theorem adminCommandsRun : Obligations.AdminCommandsRun := by
  unfold Obligations.AdminCommandsRun
  refine fun h s => ⟨fun p r ok => ?create, fun q r ok => ?destroy,
    fun p r ok => ⟨fun keeps => ?assign, fun lets => ?release⟩, fun p r ok => ?select⟩
  case create => exact State.packet_guarded r (check := fun t _ => t.queueCreateErr p) ok _
  case destroy => exact State.packet_guarded r (check := fun t _ => t.queueDestroyErr q.toNat) ok _
  case assign => exact State.packet_answers r ((State.guarded_none ok _).trans (if_neg (by simp [keeps])))
  case release => exact State.packet_answers r ((State.guarded_none ok _).trans (if_pos lets))
  case select => exact State.packet_guarded r (check := fun t c => t.cntSelectErr h.ring.toNat c p) ok _

end Sys2Proof.Machine

namespace Sys2Proof.Machine
open Sys2Proof

/-! ### What leaves the start-up's own record alone (R410)

`State.boot` holds the phase, its cause and unit, the failed images and the bases of the windows. -/

section
variable (s : State)

@[simp] theorem State.raise_boot (code sev : Nat) (ctx : Option Nat) (o : Nat) (d : List W32) :
    (s.raise code sev ctx o d).boot = s.boot := by rw [(s.raise_logged ..).frame]

@[simp] theorem State.raise_hist (code sev : Nat) (ctx : Option Nat) (o : Nat) (d : List W32) :
    (s.raise code sev ctx o d).hist = s.hist := by rw [(s.raise_logged ..).frame]

@[simp] theorem State.raise_variant (code sev : Nat) (ctx : Option Nat) (o : Nat) (d : List W32) :
    (s.raise code sev ctx o d).variant = s.variant := by rw [(s.raise_logged ..).frame]

/-! A command that completes (R315). -/

theorem State.touchUnit_boot (d : Nat) (u : GovUnit) : (s.touchUnit d u).boot = s.boot := by
  unfold State.touchUnit
  dsimp only
  split <;> rfl

theorem State.copyQuotaFail_boot (c : Nat) : (s.copyQuotaFail c).boot = s.boot := State.raise_boot ..

theorem State.beginCopy_boot (c p : Nat) : (s.beginCopy c p).boot = s.boot := rfl

/-- What both branches of a test keep of the state beside a value is kept. -/
theorem State.ite_snd_kept {α β : Type} (get : State → β) {c : Prop} [Decidable c] {p q : α × State} {x : β}
    (hp : get p.2 = x) (hq : get q.2 = x) : get (if c then p else q).2 = x := by
  split
  · exact hp
  · exact hq

theorem State.storePage_boot (fl : Option Nat) (c a : Nat) (bs : List Byte) (pois : Bool) :
    (s.storePage fl c a bs pois).2.boot = s.boot := by
  unfold State.storePage
  extract_lets p x wait t held
  have waits : t.boot = s.boot := s.setPage_boot ..
  have copies : (t.beginCopy c p).boot = s.boot := (t.beginCopy_boot c p).trans waits
  have stores : (s.wr (physFrame x.frame (a % 2097152)) bs pois).boot = s.boot := s.wr_boot ..
  refine State.ite_snd_kept (·.boot) rfl (State.ite_snd_kept (·.boot) rfl (State.ite_snd_kept (·.boot) waits
    (State.ite_snd_kept (·.boot) (State.ite_snd_kept (·.boot) ?_ (State.ite_snd_kept (·.boot) (s.copyQuotaFail_boot c)
      (State.ite_snd_kept (·.boot) ?_ copies))) stores)))
  · exact (t.setPage_boot ..).trans waits
  · exact (State.beginCopy_boot _ c p).trans waits

theorem State.queueStop_boot (q : Nat) : (s.queueStop q).boot = s.boot := State.raise_boot ..

theorem State.writeRecord_boot (f : Flight) : (s.writeRecord f).boot = s.boot := by
  unfold State.writeRecord
  dsimp only
  refine State.ite_kept (·.boot) rfl (State.ite_kept (·.boot) (s.queueStop_boot _) ?_)
  exact (State.setQueue_boot ..).trans (State.ite_kept (·.boot) (s.wr_boot ..) (s.storePage_boot ..))

theorem State.statusFlags_boot (f : Flight) : (s.statusFlags f).boot = s.boot :=
  State.ite_kept (·.boot) rfl (State.ite_kept (·.boot) rfl (State.ite_kept (·.boot) rfl (State.ite_kept (·.boot) rfl
    (State.ite_kept (·.boot) rfl (State.ite_kept (·.boot) rfl rfl)))))

theorem State.signal_boot (f : Flight) : (s.signal f).boot = s.boot := State.ite_kept (·.boot) rfl rfl

theorem State.retire_boot (f : Flight) (record : Bool) : (s.retire f record).boot = s.boot := by
  unfold State.retire
  extract_lets s1 s2 s3 s4 n _ s5
  have ended : s5.boot = s.boot :=
    (State.signal_boot s3 f).trans ((State.statusFlags_boot s2 f).trans
      (State.foldl_kept (·.boot) (fun t (x : Nat × GovUnit) => t.touchUnit_boot x.1 x.2) _ s))
  have recorded := (State.writeRecord_boot s5 f).trans ended
  exact State.ite_kept (·.boot) ended (State.ite_kept (·.boot) recorded recorded)

theorem State.complete_boot (id : Nat) : (s.complete id).boot = s.boot := by
  unfold State.complete
  split
  · rfl
  · exact s.retire_boot _ _

/-! A drain that fails (R251). -/

theorem State.failWaits_boot (c p st : Nat) : (s.failWaits c p st).boot = s.boot :=
  (State.foldl_kept (·.boot) (fun t w => by cases w.flight <;> rfl) _ _).trans rfl

theorem State.retryCredit_boot (c p : Nat) : (s.retryCredit c p).boot = s.boot := by
  unfold State.retryCredit
  dsimp only
  split
  · rfl
  · split
    · exact (State.copyQuotaFail_boot _ c).trans (s.failWaits_boot c p _)
    · exact (State.beginCopy_boot _ c p).trans (State.ite_kept (·.boot) (s.setCtx_boot ..) rfl)

theorem State.retryCredits_boot (c : Nat) : (s.retryCredits c).boot = s.boot :=
  State.foldl_kept (·.boot) (fun t (e : Nat × PageS) => t.retryCredit_boot c e.1) _ s

theorem State.imageLets_boot (c f : Nat) : (s.imageLets c f).boot = s.boot := by
  rcases s.imageLets_cases c f with h | h <;> rw [h] <;> rfl

theorem State.failImage_boot (id : Nat) : (s.failImage id).boot = s.boot := by
  rcases s.failImage_cases id with h | ⟨m, -, -, h⟩ <;> rw [h]
  rw [State.raise_boot, State.orReg_eq, State.setReg_boot, State.retryCredits_boot,
    State.foldl_kept (·.boot) fun t f => t.imageLets_boot m.ctx f]
  rfl

theorem State.failDrains_boot : s.failDrains.boot = s.boot := State.foldl_kept (·.boot) State.failImage_boot _ s

theorem State.dropChannel_boot (k : Nat) : (s.dropChannel k).boot = s.boot := by
  rw [State.dropChannel_eq, State.raise_boot, State.failDrains_boot,
    State.foldl_kept (·.boot) (f := State.poisonFpage) fun _ _ => rfl]
  rfl

/-! A security alarm (R376, R377). -/

theorem State.toTrain_boot (n : Nat) : (s.toTrain n).boot = s.boot := State.ite_kept (·.boot) rfl rfl

theorem State.eraseLinkKeys_boot : s.eraseLinkKeys.boot = s.boot :=
  State.foldl_kept (·.boot) (fun t n => State.ite_kept (·.boot) (t.toTrain_boot n) rfl) _ s

theorem State.stopHarvests_boot : s.stopHarvests.boot = s.boot :=
  State.foldl_kept (·.boot) (fun t (f : Flight) => (State.complete_boot _ f.id).trans (t.updFlight_boot ..)) _ s

theorem State.eraseSession_boot : s.eraseSession.boot = s.boot :=
  (State.stopHarvests_boot _).trans ((State.failDrains_boot _).trans s.eraseLinkKeys_boot)

theorem State.dropKekLoad_boot : s.dropKekLoad.boot = s.boot := State.ite_kept (·.boot) rfl rfl

theorem State.withSec_boot (x : SecS) : ({ s with sec := x } : State).boot = s.boot := rfl

theorem State.eraseKek_boot : s.eraseKek.boot = s.boot := s.withSec_boot _

theorem State.alarmAction_boot (cl : Nat) : (s.alarmAction cl).boot = s.boot := by
  have dropped : (s.orReg .vwmAlarmStatus 0 (2 ^ (cl - 1))).dropKekLoad.boot = s.boot := State.dropKekLoad_boot _
  have erased := (State.eraseSession_boot _).trans dropped
  unfold State.alarmAction
  dsimp only
  rw [State.raise_boot]
  split <;> split
  · rw [State.eraseKek_boot, State.withSec_boot, erased]
  · rw [State.eraseKek_boot, dropped]
  · rw [State.withSec_boot, erased]
  · exact dropped

theorem State.alarm_boot (ks : List Nat) : (s.alarm ks).boot = s.boot := by
  unfold State.alarm
  extract_lets s1 new cl
  have noted : s1.boot = s.boot := State.ite_kept (·.boot) rfl rfl
  exact State.ite_kept (·.boot) noted ((State.alarmAction_boot _ cl).trans
    ((State.foldl_kept (·.boot) (f := State.logAlarm) (fun _ _ => rfl) new s1).trans noted))

end

/-! ### Failures and the history store (R373 to R375, R410) -/

section
variable (s : State)

/-- A failure is written among the fault records, or finds the store full of permanent ones (R374, R375). -/
theorem State.recordFailure_cases (kind index : Nat) :
    (∃ fs, s.recordFailure kind index = { s with hist := { s.hist with faults := fs } })
    ∨ s.recordFailure kind index = s.raise 0x0806 1 none anchorDie [] := by
  unfold State.recordFailure
  dsimp only
  split
  · exact .inl ⟨_, rfl⟩
  · split
    · exact .inl ⟨_, rfl⟩
    · split
      · exact .inl ⟨_, rfl⟩
      · exact .inr rfl

theorem State.recordFailure_boot (kind index : Nat) : (s.recordFailure kind index).boot = s.boot := by
  rcases s.recordFailure_cases kind index with ⟨fs, h⟩ | h <;> simp [h]

theorem State.recordFailure_partFails (kind index : Nat) :
    (s.recordFailure kind index).hist.partFails = s.hist.partFails := by
  rcases s.recordFailure_cases kind index with ⟨fs, h⟩ | h <;> simp [h]

theorem State.recordFailure_pc (kind index : Nat) : (s.recordFailure kind index).hist.pc = s.hist.pc := by
  rcases s.recordFailure_cases kind index with ⟨fs, h⟩ | h <;> simp [h]

/-- The unit of a start-up failure among the fault records, where it has a kind there (R373, R410). -/
def State.unitFailed (cause unit : Nat) : State :=
  if cause == 2 then s.recordFailure Kind.dieLink unit
  else if cause == 3 then s.recordFailure Kind.hbmStack unit else s

theorem State.unitFailed_boot (cause unit : Nat) : (s.unitFailed cause unit).boot = s.boot :=
  State.ite_kept (·.boot) (s.recordFailure_boot ..) (State.ite_kept (·.boot) (s.recordFailure_boot ..) rfl)

theorem State.unitFailed_partFails (cause unit : Nat) : (s.unitFailed cause unit).hist.partFails = s.hist.partFails :=
  State.ite_kept (·.hist.partFails) (s.recordFailure_partFails ..)
    (State.ite_kept (·.hist.partFails) (s.recordFailure_partFails ..) rfl)

theorem State.unitFailed_pc (cause unit : Nat) : (s.unitFailed cause unit).hist.pc = s.hist.pc :=
  State.ite_kept (·.hist.pc) (s.recordFailure_pc ..) (State.ite_kept (·.hist.pc) (s.recordFailure_pc ..) rfl)

theorem State.enterPhase_reg {r : Reg} (hr : r ≠ .vwmBootStamp) (p : BootPhase) (i : Nat) :
    (s.enterPhase p).reg r i = s.reg r i := s.setReg_reg_ne _ _ _ hr

/-- FAILED shows its cause and unit (R410). -/
theorem State.enterFailed_boot (cause unit : Nat) :
    (s.enterFailed cause unit).boot = { s.boot with phase := .failed, cause := cause, unit := unit } := by
  rw [← s.unitFailed_boot cause unit]
  exact State.raise_boot ..

/-- An entry into FAILED joins the history store (R410). -/
theorem State.enterFailed_partFails (cause unit : Nat) :
    (s.enterFailed cause unit).hist.partFails = s.hist.partFails ++ [(cause, unit, s.hist.pc)] := by
  rw [← s.unitFailed_partFails cause unit, ← s.unitFailed_pc cause unit]
  exact congrArg HistS.partFails (State.raise_hist ..)

end

/-! ### Phases ROM to VERIFY (R364, R409 to R413) -/

section
variable (s : State)

/-- The choice of the bin leaves the start-up's record, and of the history store all but the bin and the guard
bands (R364). -/
theorem State.chooseBin_keeps : s.chooseBin.boot = s.boot ∧ s.chooseBin.variant = s.variant
    ∧ s.chooseBin.hist.faults = s.hist.faults ∧ s.chooseBin.hist.partFails = s.hist.partFails
    ∧ s.chooseBin.hist.pc = s.hist.pc := by
  unfold State.chooseBin
  dsimp only
  split
  · simp
  · split <;> simp

/-- The part once the boot ROM has chosen its bin, which it does once (R364). -/
def State.binned : State := if s.boot.romDone then s else s.chooseBin

theorem State.binned_keeps : s.binned.boot = s.boot ∧ s.binned.variant = s.variant
    ∧ s.binned.hist.faults = s.hist.faults ∧ s.binned.hist.partFails = s.hist.partFails
    ∧ s.binned.hist.pc = s.hist.pc := by
  unfold State.binned
  split
  · simp
  · exact s.chooseBin_keeps

/-- Which die link is bad does not depend on the bin. -/
theorem State.binned_badLink (l : Option Nat) : s.binned.badLink l = s.badLink l := by
  obtain ⟨-, variant, faults, -, -⟩ := s.binned_keeps
  cases l with
  | some l => rfl
  | none =>
    have dies : s.binned.dies = s.dies := by simp only [State.dies, variant]
    simp only [State.badLink, State.hasLink, State.permanent, dies, faults]

end

section
variable {s : State}

/-- The boot ROM's end: a bad die link fails the part, else it awaits its firmware (R410). -/
theorem exec_romComplete (phase : s.boot.phase = .rom) (lock : s.boot.pllLocked = true) (perst : s.boot.perst = true) :
    (s.badLink none = none → exec (.romComplete none) s = .next (s.binned.enterPhase .awaitFw))
    ∧ ∀ l : BitVec 5, s.hasLink l.toNat = true →
      exec (.romComplete (some l)) s = .next (s.binned.enterFailed 2 l.toNat) := by
  have goes : (s.boot.phase != .rom || !s.boot.pllLocked || (s.boot.romDone && !s.boot.perst)) = false := by
    simp [phase, lock, perst]
  refine ⟨fun good => ?_, fun l hl => ?_⟩
  · have row : exec (.romComplete none) s = execRomComplete none s := rfl
    have linked : (if s.boot.romDone then s else s.chooseBin).badLink none = none := (s.binned_badLink none).trans good
    have host : (if s.boot.romDone then s else s.chooseBin).boot.perst = true :=
      (congrArg BootS.perst s.binned_keeps.1).trans perst
    rw [row, execRomComplete]
    simp only [Option.map_none, Option.any_none, Bool.false_eq_true, if_false, goes, linked, host, if_true, State.binned]
  · have row : exec (.romComplete (some l)) s = execRomComplete (some l) s := rfl
    rw [row, execRomComplete]
    simp only [Option.map_some, Option.any_some, hl, Bool.not_true, Bool.false_eq_true, if_false, goes, State.badLink,
      State.binned]

theorem exec_imageBufferWrite {o : BitVec 24} {bs : List Byte} (phase : s.boot.phase = .awaitFw)
    (fits : o.toNat + bs.length ≤ 16777216) :
    exec (.imageBufferWrite o bs) s = .next (s.wr (physImage o.toNat) bs false) := by
  have row : exec (.imageBufferWrite o bs) s = execImageBufferWrite o bs s := rfl
  have small : ¬ bufferBytes < o.toNat + bs.length := Nat.not_lt.2 fits
  rw [row, execImageBufferWrite, if_neg (by simp [phase, small])]

theorem exec_imageBufferWrite_ignored (phase : s.boot.phase ≠ .awaitFw) (o : BitVec 24) (bs : List Byte) :
    exec (.imageBufferWrite o bs) s = .next s := by
  have row : exec (.imageBufferWrite o bs) s = execImageBufferWrite o bs s := rfl
  rw [row, execImageBufferWrite, if_pos (by simp [phase])]

/-- Every bit of VWM_BOOT_LEN is software's. -/
theorem State.merged_vwmBootLen (s : State) (v : W32) :
    (s.merged .vwmBootLen 0 (v.setWidth 64) (BitVec.allOnes 64)).setWidth 32 = v := by
  have mask : ∀ k < 32, Reg.vwmBootLen.info.rw.getLsbD k = true := by decide
  refine BitVec.eq_of_getLsbD_eq fun k hk => ?_
  have wide : k < 64 := by omega
  simp only [State.merged, Reg.stores, BitVec.getLsbD_setWidth, BitVec.getLsbD_or, BitVec.getLsbD_and,
    BitVec.getLsbD_not, BitVec.getLsbD_allOnes, mask k hk, hk, wide, decide_true, Bool.true_and, Bool.and_true,
    Bool.not_true, Bool.and_false, Bool.false_or]

/-- In AWAIT_FW the host's length is stored (R411). -/
theorem exec_vwmBootLenWrite (phase : s.boot.phase = .awaitFw) (v : W32) : exec (.vwmBootLenWrite v) s
    = .next (s.setReg .vwmBootLen 0 (s.merged .vwmBootLen 0 (v.setWidth 64) (BitVec.allOnes 64))) := by
  have row : exec (.vwmBootLenWrite v) s = s.directRow .vwmBootLen 0 (v.setWidth 64) := rfl
  have one : inRange 0 (s.winCount Reg.vwmBootLen.info.win) = true := rfl
  have live : s.regLive .vwmBootLen = true := rfl
  rw [row, State.directRow, one, State.directRw_puts live (by decide) (.inl (by decide))]
  exact congrArg Host.Outcome.next (if_pos (by simp [phase]))

/-- A write of go in AWAIT_FW is judged by the length alone (R413). -/
theorem exec_vwmBootGo (phase : s.boot.phase = .awaitFw) : exec .vwmBootGo s
    = .next (if lenOk (s.reg .vwmBootLen 0).toNat then s.enterPhase .verify else s.orReg .vwmBootStatus 0 4) := by
  have row : exec .vwmBootGo s = .next s.bootGo := rfl
  rw [row, State.bootGo, if_neg (by simp [phase])]
  cases lenOk (s.reg .vwmBootLen 0).toNat <;> rfl

/-- The image that the host has written (R412). -/
def State.hostImage (s : State) : List Byte := s.rd (physImage 0) (s.reg .vwmBootLen 0).toNat

/-- An accepted image starts BRINGUP (R413). -/
theorem exec_verifyDone_accepted (phase : s.boot.phase = .verify) (ok : imageOk s.variant s.hostImage = true) :
    ∃ t digest version, exec .verifyDone s = .next t
      ∧ t.boot = { s.boot with phase := .bringup, fwDigest := digest, fwVersion := version } := by
  have row : exec .verifyDone s = execVerifyDone s := rfl
  rw [row, execVerifyDone, if_neg (by simp [phase])]
  exact ⟨_, _, _, if_pos ok, rfl⟩

theorem exec_verifyDone_rejected (phase : s.boot.phase = .verify) (bad : imageOk s.variant s.hostImage = false) :
    exec .verifyDone s = .next s.imageRejected := by
  have row : exec .verifyDone s = execVerifyDone s := rfl
  rw [row, execVerifyDone, if_neg (by simp [phase])]
  exact if_neg (Bool.eq_false_iff.1 bad)

/-- A rejected image is counted, up to the third (R413). -/
def State.rejectCounted (s : State) : State := { s with boot := { s.boot with fwFails := min 3 (s.boot.fwFails + 1) } }

/-- The first two images of a power cycle that are rejected send the part back (R413). -/
theorem State.imageRejected_again (h : s.boot.fwFails < 2) : s.imageRejected = s.rejectCounted.enterPhase .awaitFw :=
  if_pos (by omega)

/-- The third fails the part with cause 1 (R413). -/
theorem State.imageRejected_last (h : 2 ≤ s.boot.fwFails) : ∃ alarmed, s.imageRejected.boot
    = { s.boot with fwFails := 3, sigAlarm := alarmed, phase := .failed, cause := 1, unit := 0 } := by
  have third : min 3 (s.boot.fwFails + 1) = 3 := by omega
  have alarmed : ∃ t b, s.imageRejected = State.enterFailed t 1 0
      ∧ t.boot = { s.boot with fwFails := 3, sigAlarm := b } := by
    unfold State.imageRejected
    rw [if_neg (by omega)]
    dsimp only
    split
    · exact ⟨_, _, rfl, by rw [third]⟩
    · exact ⟨_, _, rfl, by rw [State.alarm_boot, third]⟩
  obtain ⟨t, b, h, boot⟩ := alarmed
  exact ⟨b, by rw [h, State.enterFailed_boot, boot]⟩

end

end Sys2Proof.Machine

namespace Sys2Proof.Machine
open Sys2Proof

/-! ### BRINGUP and readiness (R363, R414, R415) -/

/-- What an unlisted key reads as is its register's reset value. -/
theorem regDefault_key (r : Reg) (i : Nat) : regDefault (r.key i) = r.info.reset := by
  have index : r.key i % 1024 = r.ctorIdx := by
    have := r.idx_lt
    simp only [Reg.key]
    omega
  obtain ⟨inside, at_index⟩ := List.getElem?_eq_some_iff.1 r.at_idx
  rw [regDefault, index, List.drop_eq_getElem_cons inside, at_index]

theorem counterKey_key {r : Reg} (hr : r ∈ Reg.counters) (i : Nat) : counterKey (r.key i) = true := by
  refine List.any_eq_true.2 ⟨r, hr, ?_⟩
  have := r.idx_lt
  simp only [Reg.key, beq_iff_eq]
  omega

/-- Readiness zeroes every counter (R415). -/
theorem State.clearCounters_reg (s : State) {r : Reg} (hr : r ∈ Reg.counters) (i : Nat) : s.clearCounters.reg r i = 0 := by
  have zero : ∀ r ∈ Reg.counters, r.info.reset = 0 := by decide
  have dropped : s.clearCounters.reg r i = if !counterKey (r.key i) then s.reg r i else regDefault (r.key i) :=
    Map.get_filter regDefault s.regs (fun k => !counterKey k) (r.key i)
  rw [dropped, counterKey_key hr, regDefault_key, zero r hr]
  rfl

section
variable (s : State)

/-- Vigil's comparators shown at readiness (R400, R415). -/
def State.vigilShown : State :=
  (List.range s.dies).foldl (fun (t : State) d =>
    t.setReg .vwmVigilDie d (BitVec.ofNat 64 ((t.vigilGrain d).1 * 16777216 + (t.vigilGrain d).2))) s

theorem State.readiness_eq : s.readiness
    = ((((s.clearCounters.setReg .cfgGen 0 1).setQueue 0 adminQueue).vigilShown.rebuildCap.enterPhase .ready).msix 0) := rfl

theorem State.vigilShown_reg {r : Reg} (hr : r ≠ .vwmVigilDie) (i : Nat) : s.vigilShown.reg r i = s.reg r i :=
  State.foldl_kept (·.reg r i) (fun t _ => t.setReg_reg_ne _ _ _ hr) _ s

@[simp] theorem State.vigilShown_boot : s.vigilShown.boot = s.boot :=
  State.foldl_kept (·.boot) (fun _ _ => State.setReg_boot ..) _ s

@[simp] theorem State.vigilShown_queue (q : Nat) : s.vigilShown.queue q = s.queue q :=
  State.foldl_kept (·.queue q) (fun _ _ => State.setReg_queue_same ..) _ s

theorem State.readiness_boot : s.readiness.boot = { s.boot with phase := .ready } := by
  have shown : ((s.clearCounters.setReg .cfgGen 0 1).setQueue 0 adminQueue).vigilShown.boot = s.boot :=
    State.vigilShown_boot _
  rw [State.readiness_eq, ← shown]
  rfl

theorem State.enterPhase_queue (p : BootPhase) (q : Nat) : (s.enterPhase p).queue q = s.queue q :=
  s.setReg_queue_same .vwmBootStamp 0 (BitVec.ofNat 64 s.now) q
theorem State.rebuildCap_queue (q : Nat) : s.rebuildCap.queue q = s.queue q := rfl
theorem State.rebuildCap_reg (r : Reg) (i : Nat) : s.rebuildCap.reg r i = s.reg r i := rfl

theorem State.readiness_queue : s.readiness.queue 0 = adminQueue := by
  rw [State.readiness_eq, State.msix_queue_same, State.enterPhase_queue, State.rebuildCap_queue, State.vigilShown_queue,
    State.setQueue_queue]

/-- The generation, the stamp and the comparators are the registers that readiness writes. -/
theorem State.readiness_reg {r : Reg} (hr : r ≠ .vwmBootStamp) (hv : r ≠ .vwmVigilDie) (i : Nat) :
    s.readiness.reg r i = (s.clearCounters.setReg .cfgGen 0 1).reg r i := by
  rw [State.readiness_eq, State.msix_reg_same, State.enterPhase_reg _ hr, State.rebuildCap_reg, State.vigilShown_reg _ hv,
    State.setQueue_reg_same]

/-- Readiness as start-up ends in it (R302, R304, R415). -/
theorem State.readiness_facts : s.readiness.boot.phase = .ready ∧ s.readiness.queue 0 = adminQueue
    ∧ s.readiness.reg .cfgGen 0 = 1 ∧ s.readiness.boot.bases = s.boot.bases
    ∧ ∀ r ∈ Reg.counters, ∀ i, s.readiness.reg r i = 0 := by
  have others : ∀ r ∈ Reg.counters, r ≠ .vwmBootStamp ∧ r ≠ .vwmVigilDie ∧ r ≠ .cfgGen := by decide
  refine ⟨by rw [s.readiness_boot], s.readiness_queue, ?_, by rw [s.readiness_boot], fun r hr i => ?_⟩
  · rw [s.readiness_reg (by decide) (by decide), State.setReg_reg]
  · obtain ⟨stamp, grain, gen⟩ := others r hr
    rw [s.readiness_reg stamp grain, State.setReg_reg_ne _ _ _ _ gen, s.clearCounters_reg hr]

theorem State.recordSelfTest_bases (fs : List (Nat × Nat)) : (s.recordSelfTest fs).boot.bases = s.boot.bases :=
  State.foldl_kept (·.boot.bases) (fun t (f : Nat × Nat) => State.ite_kept (·.boot.bases) rfl
    (congrArg BootS.bases (t.recordFailure_boot f.1 f.2))) fs _

theorem State.flashReady_bases (r : BringUp) : (s.flashReady r).boot.bases = s.boot.bases := by
  have trained : ((s.lostChannels r).foldl State.dropChannel s).boot.bases = s.boot.bases :=
    State.foldl_kept (·.boot.bases) (fun t k => congrArg BootS.bases (t.dropChannel_boot k)) _ s
  simpa only [State.flashReady, State.setReg_boot] using trained

theorem State.showVset_boot (d : Nat) : (s.showVset d).boot = s.boot := s.setReg_boot ..

/-- The part after its self-test, with the windows where firmware placed them (R373, R411, R414). -/
def State.tested (r : BringUp) : State :=
  (({ s with boot := { s.boot with bases := r.bases } } : State).recordSelfTest
    (({ s with boot := { s.boot with bases := r.bases } } : State).failures r)).fixMap r

theorem State.fixMap_boot (r : BringUp) : (s.fixMap r).boot = s.boot := rfl

theorem State.tested_bases (r : BringUp) : (s.tested r).boot.bases = r.bases := by
  rw [State.tested, State.fixMap_boot, State.recordSelfTest_bases]

theorem State.bringUp_eq (r : BringUp) : s.bringUp r
    = ((List.range (s.tested r).dies).foldl State.showVset ((s.tested r).flashReady r)).readiness := rfl

/-- Coming up ends in readiness (R414, R415). -/
theorem State.bringUp_facts (r : BringUp) : (s.bringUp r).boot.phase = .ready ∧ (s.bringUp r).queue 0 = adminQueue
    ∧ (s.bringUp r).reg .cfgGen 0 = 1 ∧ (s.bringUp r).boot.bases = r.bases
    ∧ ∀ c ∈ Reg.counters, ∀ i, (s.bringUp r).reg c i = 0 := by
  rw [State.bringUp_eq]
  obtain ⟨phase, queue, gen, bases, counters⟩ := State.readiness_facts _
  refine ⟨phase, queue, gen, ?_, counters⟩
  rw [bases, State.foldl_kept (·.boot) State.showVset_boot, State.flashReady_bases, State.tested_bases]

/-! The first ageing measurement of a die (R362, R363). -/

theorem State.setAge_measuring {d : Nat} {x : AgeS} (h : x.measuring = (s.ageOf d).measuring) (j : Nat) :
    ((s.setAge d x).ageOf j).measuring = (s.ageOf j).measuring := by
  by_cases same : j = d
  · rw [same, State.setAge_ageOf, h]
  · rw [State.setAge_ageOf_ne _ _ _ _ same]

@[simp] theorem State.raise_ageOf (code sev : Nat) (ctx : Option Nat) (o : Nat) (x : List W32) (j : Nat) :
    (s.raise code sev ctx o x).ageOf j = s.ageOf j := by
  rw [(s.raise_logged ..).frame]
  rfl

theorem State.setReg_ageOf (r : Reg) (i : Nat) (v : W64) (j : Nat) : (s.setReg r i v).ageOf j = s.ageOf j := rfl
@[simp] theorem State.showVset_ageOf (d j : Nat) : (s.showVset d).ageOf j = s.ageOf j :=
  s.setReg_ageOf ..
@[simp] theorem State.noteSlack_ageOf (d slack j : Nat) : (s.noteSlack d slack).ageOf j = s.ageOf j :=
  (State.setReg_ageOf ..).trans ((State.setReg_ageOf ..).trans rfl)
@[simp] theorem State.writeSetpoint_ageOf (d mv j : Nat) : (s.writeSetpoint d mv).ageOf j = s.ageOf j := rfl
@[simp] theorem State.orReg_ageOf (r : Reg) (i n j : Nat) : (s.orReg r i n).ageOf j = s.ageOf j :=
  s.setReg_ageOf ..
/-- What the history store keeps of a die's ageing does not count in it. -/
@[simp] theorem State.keepAge_ageOf (d j : Nat) (a : AgeS) : (s.keepAge d a).ageOf j = (s.setAge d a).ageOf j := rfl

/-- An exhausted die goes on being measured, or not (R364). -/
theorem State.exhaust_measuring (d j : Nat) : ((s.exhaust d).ageOf j).measuring = (s.ageOf j).measuring := by
  unfold State.exhaust
  split
  · rfl
  · dsimp only
    rw [State.raise_ageOf, State.orReg_ageOf, State.showVset_ageOf, State.keepAge_ageOf]
    exact s.setAge_measuring (x := { s.ageOf d with exhausted := true }) rfl j

/-- A measurement that finds slack enough is the last for 6 hours (R363). -/
theorem State.judgeSlack_enough {d slack : Nat} (enough : 15 ≤ slack) (ack : Bool) :
    s.judgeSlack d slack ack = (s.noteSlack d slack).ageDone d := if_pos enough

/-- A die whose measurements are over is not measured. -/
theorem State.ageDone_idle {d j : Nat} (h : (s.ageOf j).measuring = none) : ((s.ageDone d).ageOf j).measuring = none := by
  by_cases same : j = d
  · rw [same, State.ageDone, State.setAge_ageOf]
  · rw [State.ageDone, State.setAge_ageOf_ne _ _ _ _ same, h]

/-- A first measurement that finds slack enough leaves no measurement behind (R363). -/
theorem State.startAge_idle {d slack : Nat} (enough : 15 ≤ slack) (vrAck raiseAck : Bool) {j : Nat}
    (idle : (s.ageOf j).measuring = none) : ((s.startAge d slack vrAck raiseAck).ageOf j).measuring = none := by
  unfold State.startAge
  dsimp only
  split
  · exact idle
  · rw [State.showVset_ageOf]
    split
    · rw [State.judgeSlack_enough _ enough]
      refine State.ageDone_idle _ ?_
      rw [State.noteSlack_ageOf, State.setAge_measuring, State.writeSetpoint_ageOf, idle]
      rfl
    · refine State.ageDone_idle _ ?_
      rw [State.noteSlack_ageOf, State.exhaust_measuring, State.writeSetpoint_ageOf, idle]

theorem State.ageDone_variant (d : Nat) : (s.ageDone d).variant = s.variant := rfl
theorem State.noteSlack_variant (d slack : Nat) : (s.noteSlack d slack).variant = s.variant :=
  (State.setReg_variant ..).trans ((State.setReg_variant ..).trans rfl)
theorem State.writeSetpoint_variant (d mv : Nat) : (s.writeSetpoint d mv).variant = s.variant := rfl
theorem State.keepAge_variant (d : Nat) (a : AgeS) : (s.keepAge d a).variant = s.variant := rfl
theorem State.showVset_variant (d : Nat) : (s.showVset d).variant = s.variant := s.setReg_variant ..

theorem State.exhaust_variant (d : Nat) : (s.exhaust d).variant = s.variant := by
  unfold State.exhaust
  split
  · rfl
  · dsimp only
    rw [State.raise_variant, State.orReg_eq, State.setReg_variant, State.showVset_variant, State.keepAge_variant]

theorem State.judgeSlack_variant (d slack : Nat) (vrAck : Bool) : (s.judgeSlack d slack vrAck).variant = s.variant := by
  unfold State.judgeSlack
  extract_lets t g u _ v
  have noted : t.variant = s.variant := s.noteSlack_variant d slack
  have written : u.variant = s.variant := (t.writeSetpoint_variant d _).trans noted
  have kept : v.variant = s.variant := (u.keepAge_variant d _).trans written
  refine State.ite_kept (·.variant) ((t.ageDone_variant d).trans noted) (State.ite_kept (·.variant) ?_
    (State.ite_kept (·.variant) ?_ ?_))
  · exact (State.ageDone_variant _ d).trans ((t.exhaust_variant d).trans noted)
  · exact (State.ageDone_variant _ d).trans ((u.exhaust_variant d).trans written)
  · exact (State.showVset_variant _ d).trans ((v.setAge_variant ..).trans kept)

theorem State.startAge_variant (d slack : Nat) (vrAck raiseAck : Bool) :
    (s.startAge d slack vrAck raiseAck).variant = s.variant := by
  unfold State.startAge
  dsimp only
  split
  · rfl
  · rw [State.showVset_variant]
    split
    · rw [State.judgeSlack_variant, State.setAge_variant, State.writeSetpoint_variant]
    · rw [State.ageDone_variant, State.noteSlack_variant, State.exhaust_variant, State.writeSetpoint_variant]

end

end Sys2Proof.Machine

namespace Sys2Proof.Machine
open Sys2Proof

/-- The first ageing measurements of start-up, as its report gives them (R362, R363). -/
def State.startAges (s : State) (r : BringUp) (ds : List Nat) : State :=
  ds.foldl (fun (s : State) d =>
    s.startAge d (nth 0 r.slackPs d) (!r.vrNack.contains d) (!r.vrRaiseNack.contains d)) s

section
variable {s : State} {r : BringUp}

theorem State.startAges_variant (ds : List Nat) : (s.startAges r ds).variant = s.variant :=
  State.foldl_kept (·.variant) (fun t d => t.startAge_variant d _ _ _) ds s

/-- Dies that all find slack enough leave no measurement behind. -/
theorem State.startAges_idle {ds : List Nat} (enough : ∀ d ∈ ds, 15 ≤ nth 0 r.slackPs d) {j : Nat}
    (idle : (s.ageOf j).measuring = none) : ((s.startAges r ds).ageOf j).measuring = none := by
  induction ds generalizing s with
  | nil => exact idle
  | cons d ds ih =>
    exact ih (fun e he => enough e (List.mem_cons_of_mem _ he)) (s.startAge_idle (enough d List.mem_cons_self) _ _ idle)

/-- No die is measured on when each finds slack enough (R363). -/
theorem State.startAges_over (enough : ∀ d, d < s.dies → 15 ≤ nth 0 r.slackPs d)
    (idle : ∀ d, d < s.dies → (s.ageOf d).measuring = none) : (s.startAges r (List.range s.dies)).ageing = false := by
  have dies : (s.startAges r (List.range s.dies)).dies = s.dies := by simp only [State.dies, State.startAges_variant]
  rw [State.ageing, dies]
  refine List.any_eq_false.2 fun d hd => ?_
  rw [State.startAges_idle (fun e he => enough e (List.mem_range.1 he)) (idle d (List.mem_range.1 hd))]
  decide

section
variable (phase : s.boot.phase = .bringup) (bases : s.basesOk r.bases = true)
include phase bases

/-- BRINGUP's report with good stacks: the dies' measurements start, and the part comes up unless one goes on (R363,
R415). -/
theorem exec_bringupDone (noFail : r.hbmFail = none) (sound : s.badStack none = none) : exec (.bringupDone r) s
    = .next (if (s.startAges r (List.range s.dies)).ageing then s.startAges r (List.range s.dies)
      else (s.startAges r (List.range s.dies)).bringUp r) := by
  have row : exec (.bringupDone r) s = execBringupDone r s := rfl
  rw [row, execBringupDone, if_neg (by simp [phase, bases])]
  simp only [noFail, Option.map_none, sound]
  rfl

/-- A stack that fails ends start-up (R410). -/
theorem exec_bringupDone_badStack {k : BitVec 4} (fail : r.hbmFail = some k) :
    exec (.bringupDone r) s = .next (s.enterFailed 3 k.toNat) := by
  have row : exec (.bringupDone r) s = execBringupDone r s := rfl
  rw [row, execBringupDone, if_neg (by simp [phase, bases])]
  simp only [fail, Option.map_some, State.badStack]

end

/-- BRINGUP ends after 5 s, and at once where the clocks have stopped (R410). -/
theorem exec_bringupTimeout (phase : s.boot.phase = .bringup)
    (due : s.boot.running = false ∨ (s.reg .vwmBootStamp 0).toNat + 5000000000 ≤ s.now) (d : BitVec 8) :
    exec (.bringupTimeout d) s = .next (s.enterFailed 5 d.toNat) := by
  have row : exec (.bringupTimeout d) s = execBringupTimeout d s := rfl
  rw [row, execBringupTimeout]
  rcases due with stopped | late
  · exact if_neg (by simp [phase, stopped])
  · exact if_neg (by simp [phase, Nat.not_lt.2 late])

end

/-- FAILED as a row that enters it leaves the part (R410). -/
theorem State.enterFailed_facts (s : State) (cause unit : Nat) : (s.enterFailed cause unit).boot.phase = .failed
    ∧ (s.enterFailed cause unit).boot.cause = cause ∧ (s.enterFailed cause unit).boot.unit = unit
    ∧ (s.enterFailed cause unit).hist.partFails = s.hist.partFails ++ [(cause, unit, s.hist.pc)] := by
  simp [State.enterFailed_boot, State.enterFailed_partFails]

/-- Settles O49: each row by its phase and what it finds, and every failure by the one entry into FAILED. -/
theorem bootRowsRun : Obligations.BootRowsRun := by
  unfold Obligations.BootRowsRun
  intro s
  refine ⟨fun phase lock perst => ⟨fun good => ?rom, fun l hl => ?badLink⟩, fun o bs phase fits => ?image,
    fun o bs phase => exec_imageBufferWrite_ignored phase o bs, fun v phase => ?length,
    fun phase => ⟨fun ok => ?go, fun bad => ?badLength⟩, fun phase => ?verify,
    fun r phase bases => ⟨fun noFail sound => ?bringup, fun k fail => ?badStack⟩, fun d phase due => ?timeout⟩
  case rom => exact ⟨_, (exec_romComplete phase lock perst).1 good, rfl⟩
  case badLink =>
    obtain ⟨-, -, -, fails, pc⟩ := s.binned_keeps
    exact ⟨_, (exec_romComplete phase lock perst).2 l hl, fails ▸ pc ▸ s.binned.enterFailed_facts 2 l.toNat⟩
  case image => exact ⟨_, exec_imageBufferWrite phase fits, wr_byte s _ bs, wr_frame s _ bs false, rfl⟩
  case length => exact ⟨_, exec_vwmBootLenWrite phase v, by rw [State.setReg_reg, State.merged_vwmBootLen], rfl⟩
  case go => exact ⟨_, (exec_vwmBootGo phase).trans (congrArg Host.Outcome.next (if_pos ok)), rfl⟩
  case badLength => exact (exec_vwmBootGo phase).trans (congrArg Host.Outcome.next (if_neg (Bool.eq_false_iff.1 bad)))
  case verify =>
    intro ok
    cases judged : ok
    · refine ⟨_, exec_verifyDone_rejected phase judged, ?_⟩
      rcases Nat.lt_or_ge s.boot.fwFails 2 with few | many
      · rw [State.imageRejected_again few]
        simp [few, State.enterPhase, State.rejectCounted]
      · obtain ⟨b, boot⟩ := State.imageRejected_last many
        have third : min 3 (s.boot.fwFails + 1) = 3 := by omega
        simp [boot, Nat.not_lt.2 many, third]
    · obtain ⟨t, digest, version, row, boot⟩ := exec_verifyDone_accepted phase judged
      exact ⟨t, row, by simp [boot]⟩
  case bringup =>
    refine ⟨fun goesOn => ?_, fun rest => ?_, State.startAges_over⟩
    · exact (exec_bringupDone phase bases noFail sound).trans (congrArg Host.Outcome.next (if_pos goesOn))
    · exact ⟨_, (exec_bringupDone phase bases noFail sound).trans
        (congrArg Host.Outcome.next (if_neg (Bool.eq_false_iff.1 rest))), State.bringUp_facts _ r⟩
  case badStack => exact ⟨_, exec_bringupDone_badStack phase bases fail, s.enterFailed_facts 3 k.toNat⟩
  case timeout => exact ⟨_, exec_bringupTimeout phase due d, s.enterFailed_facts 5 d.toNat⟩

end Sys2Proof.Machine

namespace Sys2Proof.Machine
open Sys2Proof

/-! ### A nanosecond of the timebase (R342, R351) -/

/-- What a nanosecond leaves as it finds it, but for the time itself. -/
structure Steady where
  pending : List Instr
  mem : List Host.Cell
  queues : Map QueueS
  flight : List Flight
  timebase : Nat
  roots : Nat

section
variable (s : State)

def State.steady : Steady := ⟨s.pending, s.mem, s.queues, s.flight, s.clk.timebase, s.clk.roots⟩

theorem State.closeFlit_steady (n : Nat) : (s.closeFlit n).steady = s.steady := by
  unfold State.closeFlit
  split <;> rfl

/-- Waits that are noted and flits that leave move nothing else (R266, R403). -/
theorem State.closeFlits_steady : s.noteWaits.closeFlits.steady = s.steady :=
  State.foldl_kept State.steady (fun t (e : Nat × PortS) => t.closeFlit_steady e.1) _ s.noteWaits

/-- A grid edge moves the clusters' clocks and their counters alone (R348 to R350). -/
theorem State.gridEdge_steady (n : Nat) : (s.gridEdge n).steady = s.steady := by
  unfold State.gridEdge
  have clusters := State.foldl_kept State.steady (f := fun (t : State) (e : Nat × ClusClk) =>
    let r := e.2.edge (binRemoves (s.fld .clkStatus 0 1 0) n)
    ((t.setClusClk e.1 r.1).bump .clkLeap e.1 r.2.1).bump .clkGated e.1 r.2.2) (fun _ _ => rfl) s.clk.clus s
  exact State.ite_kept State.steady clusters clusters

/-- The timebase counts while the clocks run. -/
theorem State.tick_running (running : s.boot.running = true) :
    s.tick.steady = { s.steady with timebase := s.clk.timebase + 1, roots := s.clk.roots + 6 } := by
  rw [State.tick, if_neg (by simp [running])]
  dsimp only
  rw [State.foldl_kept State.steady fun t _ => t.gridEdge_steady _]
  exact congrArg (fun x : Steady => { x with timebase := x.timebase + 1, roots := x.roots + 6 }) s.closeFlits_steady

/-- The part stands while the clocks do not run (R343). -/
theorem State.tick_stopped (stopped : s.boot.running = false) : s.tick = s := if_pos (by simp [stopped])

end

/-- Settles O2: an idle step is a tick, which the clocks decide. -/
theorem idleStepIsANanosecond : Obligations.IdleStepIsANanosecond := by
  unfold Obligations.IdleStepIsANanosecond
  intro s idle
  have row : step s = .next s.tick := by rw [step, idle]
  refine ⟨s.tick, row, ?_⟩
  cases running : s.boot.running
  · rw [s.tick_stopped running]
    simp [idle]
  · have ticks := s.tick_running running
    simp only [State.steady, Steady.mk.injEq] at ticks
    obtain ⟨pending, mem, queues, flight, timebase, roots⟩ := ticks
    exact ⟨pending.trans idle, mem, queues, flight, fun _ => ⟨timebase, roots⟩, nofun⟩

end Sys2Proof.Machine

namespace Sys2Proof.Machine
open Sys2Proof

/-! ### Waves of grants and releases (R354, R355, R358) -/

theorem sum_govWeight_cons (u : GovUnit) (us : List GovUnit) :
    ((u :: us).map govWeight).sum = govWeight u + (us.map govWeight).sum := rfl

/-- A wave of grants takes units from the front of the queue, within the step and the room (R354). -/
theorem grantWave_takes (fuel step room : Nat) (w g : List GovUnit) : ∃ new : List GovUnit,
    (grantWave fuel step room w g).2.2 = g ++ new ∧ w = new ++ (grantWave fuel step room w g).2.1
    ∧ (new.map govWeight).sum ≤ step ∧ (new.map govWeight).sum ≤ room
    ∧ (grantWave fuel step room w g).1 + (new.map govWeight).sum = step := by
  induction fuel generalizing step room w g with
  | zero => exact ⟨[], by simp [grantWave]⟩
  | succ fuel ih =>
    cases w with
    | nil => exact ⟨[], by simp [grantWave]⟩
    | cons u w =>
      simp only [grantWave]
      split
      · rename_i fits
        obtain ⟨step_fits, room_fits⟩ : govWeight u ≤ step ∧ govWeight u ≤ room := by simpa using fits
        obtain ⟨new, granted, queue, within, room_within, left⟩ := ih (step - govWeight u) (room - govWeight u) w (g ++ [u])
        refine ⟨u :: new, by simp [granted], by rw [List.cons_append, ← queue], ?_, ?_, ?_⟩ <;>
          rw [sum_govWeight_cons] <;> omega
      · exact ⟨[], by simp⟩

/-- A wave of releases goes no further once what was needed has been reached: before its last unit it had not been. -/
def StopsAt (need : Nat) (wave : List GovUnit) : Prop :=
  ∀ u ∈ wave.getLast?, (wave.dropLast.map govWeight).sum < need

theorem stopsAt_nil (need : Nat) : StopsAt need [] := nofun

theorem StopsAt.cons {need : Nat} {u : GovUnit} {us : List GovUnit} (needed : need ≠ 0)
    (h : StopsAt (need - govWeight u) us) : StopsAt need (u :: us) := by
  intro v hv
  cases us with
  | nil => simpa using Nat.pos_of_ne_zero needed
  | cons x us =>
    have before := h v (by simpa using hv)
    rw [List.dropLast_cons_cons, sum_govWeight_cons]
    omega

/-- A wave of releases is the front of its list, within the step (R355, R358). -/
theorem releaseWave_takes (w : List GovUnit) (step need : Nat) : releaseWave w step need <+: w
    ∧ ((releaseWave w step need).map govWeight).sum ≤ step ∧ StopsAt need (releaseWave w step need) := by
  induction w generalizing step need with
  | nil => exact ⟨List.prefix_rfl, Nat.zero_le _, stopsAt_nil need⟩
  | cons u w ih =>
    simp only [releaseWave, beq_iff_eq]
    split
    · exact ⟨List.nil_prefix, Nat.zero_le _, stopsAt_nil need⟩
    · rename_i needed
      split
      · obtain ⟨front, within, stops⟩ := ih (step - govWeight u) (need - govWeight u)
        refine ⟨List.prefix_cons_inj u |>.2 front, ?_, stops.cons needed⟩
        rw [sum_govWeight_cons]
        omega
      · exact ⟨List.nil_prefix, Nat.zero_le _, stopsAt_nil need⟩

/-- A throttle's wave keeps the list's order, within the step (R354, R365). -/
theorem releaseFit_takes (w : List GovUnit) (step need : Nat) : (releaseFit w step need).Sublist w
    ∧ ((releaseFit w step need).map govWeight).sum ≤ step ∧ StopsAt need (releaseFit w step need) := by
  induction w generalizing step need with
  | nil => exact ⟨List.Sublist.refl _, Nat.zero_le _, stopsAt_nil need⟩
  | cons u w ih =>
    simp only [releaseFit, beq_iff_eq]
    split
    · exact ⟨List.nil_sublist _, Nat.zero_le _, stopsAt_nil need⟩
    · rename_i needed
      split
      · obtain ⟨order, within, stops⟩ := ih (step - govWeight u) (need - govWeight u)
        refine ⟨order.cons_cons u, ?_, stops.cons needed⟩
        rw [sum_govWeight_cons]
        omega
      · obtain ⟨order, within, stops⟩ := ih step need
        exact ⟨order.cons u, within, stops⟩

/-- A throttle that needs a release finds one while some unit is as light as the step. -/
theorem releaseFit_ne_nil {w : List GovUnit} {step need : Nat} (needed : 0 < need)
    (light : ∃ u ∈ w, govWeight u ≤ step) : releaseFit w step need ≠ [] := by
  induction w with
  | nil => simp at light
  | cons u w ih =>
    simp only [releaseFit, beq_iff_eq, if_neg (Nat.ne_of_gt needed)]
    split
    · exact List.cons_ne_nil _ _
    · rename_i heavy
      exact ih (by simpa [heavy] using light)

/-- Settles O43: the waves by induction on their lists. -/
theorem governorWavesAreBounded : Obligations.GovernorWavesAreBounded := by
  unfold Obligations.GovernorWavesAreBounded
  refine ⟨grantWave_takes, fun w step need => ?_, fun w step need => ?_⟩
  · obtain ⟨⟨rest, front⟩, within, stops⟩ := releaseWave_takes w step need
    exact ⟨rest, front.symm, within, fun u last =>
      ⟨stops u last, front ▸ List.mem_append_left rest (List.mem_of_getLast? last)⟩⟩
  · obtain ⟨order, within, stops⟩ := releaseFit_takes w step need
    exact ⟨order, within, fun u last => ⟨stops u last, order.subset (List.mem_of_getLast? last)⟩, releaseFit_ne_nil⟩

end Sys2Proof.Machine

namespace Sys2Proof.Machine
open Sys2Proof

/-! ### The PLL, droops, gates and the sync pulse (R343, R348, R350, R352, R410) -/

section
variable (s : State)

theorem State.raise_reg {r : Reg} (hr : r ∉ Reg.ofEvents) (code sev : Nat) (ctx : Option Nat) (o : Nat) (d : List W32)
    (i : Nat) : (s.raise code sev ctx o d).reg r i = s.reg r i := (s.raise_logged ..).reg r hr i

theorem State.unitFailed_reg {r : Reg} (hr : r ∉ Reg.ofEvents) (cause unit i : Nat) :
    (s.unitFailed cause unit).reg r i = s.reg r i := by
  have recorded (kind : Nat) : (s.recordFailure kind unit).reg r i = s.reg r i := by
    rcases s.recordFailure_cases kind unit with ⟨fs, h⟩ | h <;> rw [h]
    · rfl
    · exact s.raise_reg hr ..
  exact State.ite_kept (·.reg r i) (recorded _) (State.ite_kept (·.reg r i) (recorded _) rfl)

theorem State.unitFailed_flight (cause unit : Nat) : (s.unitFailed cause unit).flight = s.flight := by
  have recorded (kind : Nat) : (s.recordFailure kind unit).flight = s.flight := by
    rcases s.recordFailure_cases kind unit with ⟨fs, h⟩ | h <;> simp [h]
  exact State.ite_kept (·.flight) (recorded _) (State.ite_kept (·.flight) (recorded _) rfl)

/-- An entry into FAILED writes the registers of events and the stamp of the phase alone (R410). -/
theorem State.enterFailed_reg {r : Reg} (hr : r ∉ .vwmBootStamp :: Reg.ofEvents) (cause unit i : Nat) :
    (s.enterFailed cause unit).reg r i = s.reg r i :=
  (State.raise_reg _ (List.not_mem_of_not_mem_cons hr) ..).trans
    ((State.enterPhase_reg _ (List.ne_of_not_mem_cons hr) .failed i).trans
      (s.unitFailed_reg (List.not_mem_of_not_mem_cons hr) cause unit i))

theorem State.enterFailed_flight (cause unit : Nat) : (s.enterFailed cause unit).flight = s.flight :=
  (State.raise_flight ..).trans (s.unitFailed_flight cause unit)

theorem State.loseWork_reg (r : Reg) (i : Nat) : s.loseWork.reg r i = s.reg r i := rfl

/-- The domains but management stop, with nothing in flight any more (R343). -/
def State.stopped : State := { s.loseWork with boot := { s.loseWork.boot with running := false, pllLocked := false } }

theorem State.stopped_boot : s.stopped.boot = { s.boot with running := false, pllLocked := false } := rfl
theorem State.stopped_flight : s.stopped.flight = [] := rfl
theorem State.stopped_reg (r : Reg) (i : Nat) : s.stopped.reg r i = s.reg r i := s.loseWork_reg r i

/-- The part whose reference or lock is gone, which its flags show (R343). -/
def State.clockLost : State := ((s.orReg .clkStatus 0 768).raise 0x0701 3 none anchorDie []).stopped

theorem State.clockLost_boot : s.clockLost.boot = { s.boot with running := false, pllLocked := false } := by
  rw [State.clockLost, State.stopped_boot, State.raise_boot, State.orReg_eq, State.setReg_boot]

theorem State.clockLost_flight : s.clockLost.flight = [] := State.stopped_flight _

theorem State.clockLost_clkStatus : s.clockLost.reg .clkStatus 0 = s.reg .clkStatus 0 ||| 768 := by
  rw [State.clockLost, State.stopped_reg, State.raise_reg _ (by decide), State.orReg_eq, State.setReg_reg]
  rfl

/-- A lost reference fails a part that has not failed before with cause 4 (R410). -/
theorem exec_refclkLoss {s : State} (on : s.boot.phase ≠ .off) : exec .refclkLoss s
    = .next (if s.boot.phase = .failed then s.clockLost else s.clockLost.enterFailed 4 0) := by
  have row : exec .refclkLoss s = execRefclkLoss s := rfl
  have phase : s.clockLost.boot.phase = s.boot.phase := by rw [s.clockLost_boot]
  rw [row, execRefclkLoss, if_neg (by simpa using on), ← phase]
  simp only [beq_iff_eq]
  rfl

theorem exec_pllLock {s : State} (phase : s.boot.phase = .rom) (lock : s.boot.pllLocked = false) :
    exec .pllLock s = .next { s with boot := { s.boot with pllLocked := true, running := true } } := by
  have row : exec .pllLock s = execPllLock s := rfl
  rw [row, execPllLock, if_neg (by simp [phase, lock])]

theorem exec_pllLockTimeout {s : State} (phase : s.boot.phase = .rom) (lock : s.boot.pllLocked = false) :
    exec .pllLockTimeout s = .next (s.enterFailed 4 0) := by
  have row : exec .pllLockTimeout s = execPllLockTimeout s := rfl
  rw [row, execPllLockTimeout, if_neg (by simp [phase, lock])]

end

section
variable {s : State} {k : BitVec 7} (hk : inRange k.toNat s.nClus = true)
include hk

theorem exec_droopStart : exec (.droopStart k) s
    = .next (s.setClusClk k.toNat { s.clusClk k.toNat with droop := true }) := by
  have row : exec (.droopStart k) s = execDroopStart k s := rfl
  simp [row, execDroopStart, hk]

theorem exec_droopEnd : exec (.droopEnd k) s
    = .next (s.setClusClk k.toNat { s.clusClk k.toNat with droop := false }) := by
  have row : exec (.droopEnd k) s = execDroopEnd k s := rfl
  simp [row, execDroopEnd, hk]

/-- A cluster without work and grants gates its clock after 64 of its cycles (R350). -/
theorem exec_clockGate (running : s.boot.running = true)
    (idle : ((clusterUnits k.toNat).any fun u =>
      s.unitBusy (dieOfClus k.toNat) u || s.grantedTo (dieOfClus k.toNat) u) = false)
    (due : (s.clusClk k.toNat).lastBusy + 64 ≤ s.clusCycles k.toNat) : exec (.clockGate k) s
    = .next (s.setClusClk k.toNat { s.clusClk k.toNat with gated := true }) := by
  have row : exec (.clockGate k) s = execClockGate k s := rfl
  rw [row, execClockGate]
  dsimp only
  rw [if_neg (by simp [hk]), if_neg (by simp only [running, idle, Nat.not_lt.2 due]; decide)]

end

/-- A pulse captures the timebase and is counted (R352). -/
theorem exec_ppsEdge {s : State} (enabled : s.fld .clkPpsCtrl 0 0 0 = 1) (running : s.boot.running = true) :
    exec .ppsEdge s = .next ((s.setReg .clkPpsCapture 0 (BitVec.ofNat 64 s.now)).bump .clkPpsCount 0 1) := by
  have row : exec .ppsEdge s = execPpsEdge s := rfl
  rw [row, execPpsEdge, if_pos (by simp [enabled, running])]

/-- Settles O41: each row by its guard, and a failure by the one entry into FAILED. -/
theorem clockRowsRun : Obligations.ClockRowsRun := by
  unfold Obligations.ClockRowsRun
  intro s
  refine ⟨fun phase lock => ⟨exec_pllLock phase lock, _, exec_pllLockTimeout phase lock, ?_, ?_⟩,
    fun on => ⟨_, exec_refclkLoss on, ?_⟩,
    fun k hk => ⟨exec_droopStart hk, exec_droopEnd hk, fun running idle due => exec_clockGate hk running idle due⟩,
    fun enabled running => ⟨_, exec_ppsEdge enabled running, ?_, ?_, rfl⟩⟩
  · rw [s.enterFailed_boot]
  · rw [s.enterFailed_boot]
  · have flag {t : State} (status : t.reg .clkStatus 0 = s.reg .clkStatus 0 ||| 768) {b : Nat} (hb : b = 8 ∨ b = 9) :
        t.fld .clkStatus 0 b b = 1 := by
      rw [State.fld, status, ← beq_iff_eq, bits_one_beq, BitVec.getLsbD_or]
      rcases hb with rfl | rfl <;> simp
    split
    · rename_i failed
      have status := s.clockLost_clkStatus
      simp [s.clockLost_boot, s.clockLost_flight, failed, flag status]
    · rename_i standing
      have status := (s.clockLost.enterFailed_reg (by decide) 4 0 0).trans s.clockLost_clkStatus
      simp [State.enterFailed_boot, State.enterFailed_flight, s.clockLost_boot, s.clockLost_flight,
        flag status]
  · exact (State.setReg_reg_ne _ _ _ _ (by decide)).trans (s.setReg_reg ..)
  · rw [State.bump_eq, State.setReg_reg, s.setReg_reg_ne _ _ _ (by decide)]
    rfl

end Sys2Proof.Machine

namespace Sys2Proof.Machine
open Sys2Proof

/-! ### Soft brakes (R358, R422) -/

section
variable (s : State)

/-- A soft brake writes the governor and its count alone. -/
theorem State.softBrake_frame (d : Nat) :
    s.softBrake d = { s with gov := (s.softBrake d).gov, regs := (s.softBrake d).regs } := by
  unfold State.softBrake
  dsimp only
  split <;> rfl

/-- Soft brakes of every die write the governors and their counts alone. -/
theorem State.softBrakeAll_frame :
    s.softBrakeAll = { s with gov := s.softBrakeAll.gov, regs := s.softBrakeAll.regs } := by
  have masked := State.foldl_kept (fun t => { t with gov := s.gov, regs := s.regs }) (f := State.softBrake)
    (fun t d => by rw [t.softBrake_frame d]) (List.range s.dies) s
  exact congrArg (fun t : State => { t with gov := s.softBrakeAll.gov, regs := s.softBrakeAll.regs }) masked

theorem State.softBrakeAll_boot : s.softBrakeAll.boot = s.boot := by rw [s.softBrakeAll_frame]
theorem State.softBrakeAll_flight : s.softBrakeAll.flight = s.flight := by rw [s.softBrakeAll_frame]
theorem State.softBrakeAll_brakeN : s.softBrakeAll.brakeN = s.brakeN := by rw [s.softBrakeAll_frame]
theorem State.softBrakeAll_queues : s.softBrakeAll.queues = s.queues := by rw [s.softBrakeAll_frame]

theorem State.setReg_govOf (r : Reg) (i : Nat) (v : W64) (k : Nat) : (s.setReg r i v).govOf k = s.govOf k := rfl

theorem State.softBrake_shut (d : Nat) : (s.softBrake d).shut = s.shut := by
  rw [s.softBrake_frame]
  rfl

/-- A die that is told to brake brakes, and a brake in progress goes on (R358). -/
theorem State.softBrake_brake {d k : Nat} (live : s.shut = false) (h : k = d ∨ (s.govOf k).brake.isSome = true) :
    ((s.softBrake d).govOf k).brake.isSome = true := by
  unfold State.softBrake
  dsimp only
  split
  · rename_i goes
    rcases h with rfl | h
    · simpa [live] using goes
    · exact h
  · rw [State.bump_eq, State.setReg_govOf]
    by_cases same : k = d
    · rw [same, State.setGov_govOf]
      rfl
    · rw [State.setGov_govOf_ne _ _ _ _ same]
      exact h.resolve_left same

theorem State.foldl_softBrake_brake {k : Nat} (ds : List Nat) (live : s.shut = false)
    (h : k ∈ ds ∨ (s.govOf k).brake.isSome = true) : ((ds.foldl State.softBrake s).govOf k).brake.isSome = true := by
  induction ds generalizing s with
  | nil => simpa using h
  | cons d ds ih =>
    refine ih (s.softBrake d) ((s.softBrake_shut d).trans live) ?_
    by_cases now : k = d ∨ (s.govOf k).brake.isSome = true
    · exact .inr (s.softBrake_brake live now)
    · refine .inl ?_
      simpa [not_or.1 now] using h

/-- Every die brakes, unless the part has shut down (R358, R365). -/
theorem State.softBrakeAll_brake (live : s.shut = false) {k : Nat} (hk : k < s.dies) :
    (s.softBrakeAll.govOf k).brake.isSome = true :=
  s.foldl_softBrake_brake _ live (.inl (List.mem_range.2 hk))

end

/-! ### Ticks of the governor (R354, R356, R359) -/

section
variable (s : State) (d : Nat)

/-- The die's governor with the requests that have arrived since its latest tick in the queue (R354). -/
def State.gathered : State := s.setGov d ((s.govOf d).gather s.now)

/-- The units of a die that wait and that coast are counted (R356). -/
def State.countQueue : State :=
  (s.bump .govWait d ((s.govOf d).waiting.length + (s.govOf d).fresh.length)).bump .govCoast d (s.govOf d).asking.length

theorem State.countQueue_govOf (k : Nat) : (s.countQueue d).govOf k = s.govOf k := rfl

/-- An emergency release: every grant goes, and none is made for 10 µs (R359). -/
def State.emergencyTick : State :=
  let t := (s.gathered d).ungrant d ((s.gathered d).govOf d).granted
  t.setGov d { t.govOf d with emergDue := false, brake := none, emergUntil := some (s.now + 10000) }

theorem State.gathered_govOf : (s.gathered d).govOf d = (s.govOf d).gather s.now := s.setGov_govOf d _

theorem State.govTick_emergency (due : (s.govOf d).emergDue = true) :
    s.govTick d = (s.emergencyTick d).countQueue d := by
  unfold State.govTick
  extract_lets t g step u _ w
  have gathers : g = (s.govOf d).gather s.now := s.gathered_govOf d
  have work : w = s.emergencyTick d := (if_pos (by rw [gathers]; exact due)).trans rfl
  exact congrArg (fun t => State.countQueue t d) work

theorem State.govTick_brake {b : Brake} (calm : (s.govOf d).emergDue = false) (brake : (s.govOf d).brake = some b) :
    s.govTick d = ((s.gathered d).brakeTick d b).countQueue d := by
  unfold State.govTick
  extract_lets t g step u _ w
  have gathers : g = (s.govOf d).gather s.now := s.gathered_govOf d
  have work : w = (s.gathered d).brakeTick d b :=
    (if_neg (by rw [gathers]; exact Bool.eq_false_iff.1 calm)).trans
      (by rw [gathers, GovS.gather]; simp only [brake]; rfl)
  exact congrArg (fun t => State.countQueue t d) work

theorem State.govTick_ramp (calm : (s.govOf d).emergDue = false) (free : (s.govOf d).brake = none) :
    s.govTick d = ((s.gathered d).rampTick d (s.fld .govCtrl d 7 0)).countQueue d := by
  unfold State.govTick
  extract_lets t g step u _ w
  have gathers : g = (s.govOf d).gather s.now := s.gathered_govOf d
  have work : w = (s.gathered d).rampTick d (s.fld .govCtrl d 7 0) :=
    (if_neg (by rw [gathers]; exact Bool.eq_false_iff.1 calm)).trans
      (by rw [gathers, GovS.gather]; simp only [free]; rfl)
  exact congrArg (fun t => State.countQueue t d) work

theorem State.ungrant_granted (us : List GovUnit) :
    ((s.ungrant d us).govOf d).granted = (s.govOf d).granted.filter fun u => !us.contains u := by
  rw [State.ungrant, State.setGov_govOf]

theorem State.emergencyTick_govOf : let g := (s.emergencyTick d).govOf d
    g.granted = [] ∧ g.emergDue = false ∧ g.brake = none ∧ g.emergUntil = some (s.now + 10000) := by
  rw [State.emergencyTick, State.setGov_govOf]
  refine ⟨?_, rfl, rfl, rfl⟩
  simp [State.ungrant_granted]

theorem State.tickDue_iff :
    s.tickDue d = true ↔ s.boot.running = true ∧ s.shut = false ∧ (s.govOf d).lastTick + 100 ≤ s.now := by
  simp [State.tickDue, and_assoc]

end

/-! ### The rows of the governor (R354, R355, R359, R422) -/

section
variable {s : State} {d : BitVec 3} (hd : inRange d.toNat s.dies = true)
include hd

theorem exec_govTick_early (early : s.tickDue d.toNat = false) : exec (.govTick d) s = .next s.warmed := by
  have row : exec (.govTick d) s = execGovTick d s := rfl
  rw [row, execGovTick, if_neg (by simp [hd]), if_pos (by simp [early])]

theorem exec_govTick_due (due : s.tickDue d.toNat = true) : exec (.govTick d) s
    = .next (((s.govTick d.toNat).wakeUnits (dieUnits d.toNat)).settleAll.warmed) := by
  have row : exec (.govTick d) s = execGovTick d s := rfl
  rw [row, execGovTick, if_neg (by simp [hd]), if_neg (by simp [due])]

/-- A granted unit that has idled for 64 of its cycles asks for release (R355). -/
theorem exec_unitReleaseRequest {u : GovUnit} (hu : GovUnit.onDie u = true) (granted : s.grantedTo d.toNat u = true)
    (quiet : (s.govOf d.toNat).asking.contains u = false) (free : s.unitBusy d.toNat u = false)
    (idle : 64 ≤ s.idleCycles d.toNat u) : exec (.unitReleaseRequest d u) s
    = .next (s.setGov d.toNat { s.govOf d.toNat with asking := (s.govOf d.toNat).asking ++ [u] }) := by
  have row : exec (.unitReleaseRequest d u) s = execUnitReleaseRequest d u s := rfl
  have asks : (!s.grantedTo d.toNat u || (s.govOf d.toNat).asking.contains u || s.unitBusy d.toNat u
      || decide (s.idleCycles d.toNat u < 64)) = false := by
    simp only [granted, quiet, free, Nat.not_lt.2 idle]
    rfl
  have known : (!inRange d.toNat s.dies || !GovUnit.onDie u) = false := by rw [hd, hu]; rfl
  rw [row]
  cases u <;> exact (if_neg (Bool.eq_false_iff.1 known)).trans (if_neg (Bool.eq_false_iff.1 asks))

/-- An overcurrent is counted, and makes an emergency release due (R359). -/
theorem exec_overcurrent (running : s.boot.running = true) : exec (.overcurrent d) s
    = .next ((((s.setGov d.toNat { s.govOf d.toNat with emergDue := true }).bump .govEmerg d.toNat 1).orReg
        .govErr d.toNat 1).raise 0x0702 2 none d.toNat []) := by
  have row : exec (.overcurrent d) s = execOvercurrent d s := rfl
  simp only [row, execOvercurrent, hd, running, Bool.not_true, Bool.false_eq_true, if_false]

theorem exec_emergencyRegrant {e : Nat} (held : (s.govOf d.toNat).emergUntil = some e) (past : e ≤ s.now) :
    exec (.emergencyRegrant d) s = .next (s.setGov d.toNat { s.govOf d.toNat with emergUntil := none }) := by
  have row : exec (.emergencyRegrant d) s = execEmergencyRegrant d s := rfl
  simp only [row, execEmergencyRegrant, hd, held, Bool.not_true, Bool.false_eq_true, if_false, if_neg (Nat.not_lt.2 past)]

end

@[simp] theorem State.raise_govOf (s : State) (code sev : Nat) (ctx : Option Nat) (o : Nat) (x : List W32) (k : Nat) :
    (s.raise code sev ctx o x).govOf k = s.govOf k := by
  rw [(s.raise_logged ..).frame]
  rfl

/-- The part with BRAKE_N low (R422). -/
def State.brakeLow (s : State) : State := { s with brakeN := true }

theorem exec_brakeNAssert (s : State) : exec .brakeNAssert s
    = .next (if s.boot.running = true ∧ s.boot.warming = false then s.brakeLow.softBrakeAll else s.brakeLow) := by
  have row : exec .brakeNAssert s = execBrakeNAssert s := rfl
  rw [row, execBrakeNAssert]
  simp only [Bool.and_eq_true, Bool.not_eq_true']
  rfl

/-- Settles O42: a tick by what its governor has to do, and each row by its guard. -/
theorem governorRowsRun : Obligations.GovernorRowsRun := by
  unfold Obligations.GovernorRowsRun
  intro s d hd
  refine ⟨exec_govTick_early hd, exec_govTick_due hd, s.tickDue_iff d.toNat,
    ⟨fun due => ?emergency, fun b => s.govTick_brake d.toNat, s.govTick_ramp d.toNat⟩,
    fun u engine elt qnt => exec_unitReleaseRequest hd ?unit, fun running => ⟨_, exec_overcurrent hd running, ?current⟩,
    fun e => exec_emergencyRegrant hd, ⟨_, exec_brakeNAssert s, ?brakeN, fun running cold live k hk => ?brakes,
      fun off => ?adds⟩, rfl⟩
  case emergency =>
    rw [s.govTick_emergency d.toNat due, State.countQueue_govOf]
    exact s.emergencyTick_govOf d.toNat
  case unit =>
    cases u with
    | engine i => exact decide_eq_true (engine i rfl)
    | elt i => exact decide_eq_true (elt i rfl)
    | qnt i => exact decide_eq_true (qnt i rfl)
    | coll => rfl
  case current =>
    refine ⟨?_, ?_, ?_⟩
    · rw [State.raise_govOf, State.orReg_eq, State.setReg_govOf, State.bump_eq, State.setReg_govOf, State.setGov_govOf]
    · rw [State.raise_reg _ (by decide), State.orReg_eq, State.setReg_reg_ne _ _ _ _ (by decide), State.bump_eq,
        State.setReg_reg]
      rfl
    · rw [State.raise_flight, State.orReg_eq, State.setReg_flight, State.bump_eq, State.setReg_flight, State.setGov_flight]
  case brakeN => exact State.ite_kept (·.brakeN) (State.softBrakeAll_brakeN _) rfl
  case brakes =>
    rw [if_pos ⟨running, cold⟩]
    exact State.softBrakeAll_brake s.brakeLow live hk
  case adds =>
    rw [if_neg (by rcases off with h | h <;> simp [h])]
    exact ⟨rfl, rfl⟩

end Sys2Proof.Machine

namespace Sys2Proof.Machine
open Sys2Proof

/-! ### Setpoints that were sent (R420)

An event sends messages of its own, and no setpoint. -/

section
variable (s : State)

theorem State.sendMgmt_setpoints (r : EvtRec) : (s.sendMgmt r).out.setpoints = s.out.setpoints := by
  unfold State.sendMgmt
  split <;> rfl

theorem State.evtMsix_setpoints : s.evtMsix.out.setpoints = s.out.setpoints :=
  State.ite_kept (·.out.setpoints) rfl rfl

theorem State.hostRing_setpoints (r : EvtRec) : (s.hostRing r).2.out.setpoints = s.out.setpoints :=
  State.ite_snd_kept (·.out.setpoints) rfl (State.ite_snd_kept (·.out.setpoints) rfl (State.evtMsix_setpoints _))

theorem State.logEvent_setpoints (code sev : Nat) (ctx : Option Nat) (o time : Nat) (d : List W32) :
    (s.logEvent code sev ctx o time d).2.out.setpoints = s.out.setpoints := rfl

theorem State.evtOverflow_setpoints : s.evtOverflow.out.setpoints = s.out.setpoints := by
  unfold State.evtOverflow
  split
  · rfl
  · extract_lets p
    have sent : (p.2.sendMgmt p.1).out.setpoints = p.2.out.setpoints := p.2.sendMgmt_setpoints p.1
    exact sent.trans (s.logEvent_setpoints ..)

theorem State.deliver_setpoints (code sev : Nat) (ctx : Option Nat) (o time : Nat) (d : List W32) :
    (s.deliver code sev ctx o time d).out.setpoints = s.out.setpoints := by
  unfold State.deliver
  extract_lets p h t
  have ring : h.2.out.setpoints = s.out.setpoints := (State.hostRing_setpoints ..).trans (s.logEvent_setpoints ..)
  have sent : t.out.setpoints = s.out.setpoints :=
    State.ite_kept (·.out.setpoints) ((State.sendMgmt_setpoints ..).trans ring) ring
  exact State.ite_kept (·.out.setpoints) (t.evtOverflow_setpoints.trans sent) sent

theorem State.raise_setpoints (code sev : Nat) (ctx : Option Nat) (o : Nat) (d : List W32) :
    (s.raise code sev ctx o d).out.setpoints = s.out.setpoints :=
  State.ite_kept (·.out.setpoints) rfl (State.ite_kept (·.out.setpoints)
    (State.ite_kept (·.out.setpoints) rfl rfl) (s.deliver_setpoints ..))

end

/-! ### What a measurement finds (R362 to R364, R420) -/

section
variable (s : State) (d : Nat)

theorem State.guardMv_of_ageOf {s t : State} {d : Nat} (h : (t.ageOf d).guardMv = (s.ageOf d).guardMv) :
    t.guardMv d = s.guardMv d := congrArg (fun g : Option Nat => g.getD (Config.fusedGuardMv d)) h

@[simp] theorem State.noteSlack_guardMv (slack : Nat) : (s.noteSlack d slack).guardMv d = s.guardMv d :=
  State.guardMv_of_ageOf (congrArg AgeS.guardMv (s.noteSlack_ageOf d slack d))

theorem State.noteSlack_out (slack : Nat) : (s.noteSlack d slack).out = s.out :=
  (State.setReg_out ..).trans ((State.setReg_out ..).trans rfl)

/-- An exhausted guard band is exhausted, and nothing else of the die's ageing moves (R364). -/
theorem State.exhaust_ageOf : (s.exhaust d).ageOf d = { s.ageOf d with exhausted := true } := by
  unfold State.exhaust
  split
  · rename_i already
    rw [← already]
  · dsimp only
    rw [State.raise_ageOf, State.orReg_ageOf, State.showVset_ageOf, State.keepAge_ageOf, State.setAge_ageOf]

theorem State.showVset_out : (s.showVset d).out = s.out := s.setReg_out ..
theorem State.keepAge_out (a : AgeS) : (s.keepAge d a).out = s.out := rfl

theorem State.exhaust_setpoints : (s.exhaust d).out.setpoints = s.out.setpoints := by
  unfold State.exhaust
  split
  · rfl
  · dsimp only
    rw [State.raise_setpoints, State.orReg_eq, State.setReg_out, State.showVset_out, State.keepAge_out]

theorem State.ageDone_ageOf :
    (s.ageDone d).ageOf d = { s.ageOf d with measuring := none, due := s.now + sixHours } := s.setAge_ageOf d _
theorem State.ageDone_out : (s.ageDone d).out = s.out := rfl

/-- The die's guard band can still be raised: it stands below 700 mV and is not exhausted (R363, R364). -/
def State.Raisable : Prop := s.guardMv d < 50 ∧ (s.ageOf d).exhausted = false

/-- The setpoint of a guard band that is raised by 5 mV, at most to 700 mV (R363, R364). -/
def State.raisedMv : Nat := min 50 (s.guardMv d + 5)

/-- The part whose die `d` was found short of slack, with the higher setpoint on its way to the regulator (R363, R420). -/
def State.raising (slack : Nat) : State := (s.noteSlack d slack).writeSetpoint d (650 + s.raisedMv d)

theorem State.raising_setpoints (slack : Nat) : (s.raising d slack).out.setpoints
    = s.out.setpoints ++ [(64 + d, 0x21, 650 + s.raisedMv d)] := by
  rw [State.raising, State.writeSetpoint, State.noteSlack_out]
  rfl

theorem State.raising_ageOf (slack : Nat) : (s.raising d slack).ageOf d = s.ageOf d := by
  rw [State.raising, State.writeSetpoint_ageOf, State.noteSlack_ageOf]

/-- The guard band `g` is kept for a die whose regulator holds its setpoint, and the die is measured again (R363). -/
def State.keepRaise (g : Nat) : State :=
  let t := s.keepAge d { s.ageOf d with guardMv := some g, setMv := some (650 + g) }
  (t.setAge d { t.ageOf d with measuring := some t.now }).showVset d

/-- The part whose die `d` was raised, its regulator having acknowledged (R363, R420). -/
def State.raised (slack : Nat) : State := (s.raising d slack).keepRaise d (s.raisedMv d)

theorem State.raising_now (slack : Nat) : (s.raising d slack).now = s.now := rfl
theorem State.keepAge_now (a : AgeS) : (s.keepAge d a).now = s.now := rfl

theorem State.raised_ageOf (slack : Nat) : (s.raised d slack).ageOf d = { s.ageOf d with
    guardMv := some (s.raisedMv d), setMv := some (650 + s.raisedMv d), measuring := some s.now } := by
  rw [State.raised, State.keepRaise, State.showVset_ageOf, State.setAge_ageOf, State.keepAge_ageOf, State.setAge_ageOf,
    State.keepAge_now, State.raising_now, State.raising_ageOf]

theorem State.raised_out (slack : Nat) : (s.raised d slack).out = (s.raising d slack).out := by
  rw [State.raised, State.keepRaise, State.showVset_out, State.setAge_out, State.keepAge_out]

variable {s d} {x : Nat} (short : x < 15)
include short

/-- A die that cannot be raised is exhausted (R364). -/
theorem State.judgeSlack_spent (b : Bool) (spent : ¬ s.Raisable d) :
    s.judgeSlack d x b = ((s.noteSlack d x).exhaust d).ageDone d := by
  have full : ((s.ageOf d).exhausted || decide (700 ≤ 650 + s.guardMv d)) = true := by
    cases fresh : (s.ageOf d).exhausted
    · exact decide_eq_true (by have := Nat.not_lt.1 fun below => spent ⟨below, fresh⟩; omega)
    · rfl
  exact (if_neg (Nat.not_le.2 short)).trans (if_pos (by rw [State.noteSlack_ageOf, State.noteSlack_guardMv]; exact full))

/-- A die that can be raised is, once its regulator acknowledges, and else it is exhausted (R363, R364, R420). -/
theorem State.judgeSlack_raises (b : Bool) (can : s.Raisable d) :
    s.judgeSlack d x b = if b = true then s.raised d x else ((s.raising d x).exhaust d).ageDone d := by
  obtain ⟨below, fresh⟩ := can
  have goes : ((s.ageOf d).exhausted || decide (700 ≤ 650 + s.guardMv d)) = false := by
    simp only [fresh, Bool.false_or, decide_eq_false_iff_not]
    omega
  refine (if_neg (Nat.not_le.2 short)).trans ((if_neg ?_).trans ?_)
  · rw [State.noteSlack_ageOf, State.noteSlack_guardMv]
    exact Bool.eq_false_iff.1 goes
  · rw [State.noteSlack_guardMv]
    cases b <;> rfl

end
section
variable {s : State} {d : BitVec 3} (hd : inRange d.toNat s.dies = true)
include hd

theorem exec_ageingMeasure_waits (phase : s.boot.phase ≠ .ready) : exec (.ageingMeasure d) s = .next s := by
  have row : exec (.ageingMeasure d) s = execAgeingMeasure d s := rfl
  rw [row, execAgeingMeasure, if_neg (by simp [hd]), if_pos (by simp [phase])]

/-- A measurement that is due starts, a throttle notwithstanding after 10 minutes (R362). -/
theorem exec_ageingMeasure (running : s.boot.running = true) (phase : s.boot.phase = .ready)
    (idle : (s.ageOf d.toNat).measuring = none) (due : (s.ageOf d.toNat).due ≤ s.now)
    (cool : s.thermOf d.toNat = .throttle → (s.ageOf d.toNat).due + tenMinutes ≤ s.now) :
    exec (.ageingMeasure d) s = .next (s.setAge d.toNat { s.ageOf d.toNat with measuring := some s.now }) := by
  have row : exec (.ageingMeasure d) s = execAgeingMeasure d s := rfl
  rw [row, execAgeingMeasure, if_neg (by simp [hd]), if_neg]
  simpa [running, phase, idle, due] using cool

/-- A measurement takes 2 ms (R362). -/
theorem exec_ageingMeasureDone {m : Nat} (x : BitVec 16) (b : Bool) (runs : (s.ageOf d.toNat).measuring = some m)
    (done : m + 2000000 ≤ s.now) : exec (.ageingMeasureDone d x b) s = .next (s.judgeSlack d.toNat x.toNat b) := by
  have row : exec (.ageingMeasureDone d x b) s = execAgeingMeasureDone d x b s := rfl
  simp only [row, execAgeingMeasureDone, hd, runs, Bool.not_true, Bool.false_eq_true, if_false, if_neg (Nat.not_lt.2 done)]

end

/-- A die that is exhausted is measured no more for now, and its guard band stays (R364). -/
theorem State.exhaust_over {s t : State} {d : Nat} (same : t.ageOf d = s.ageOf d) :
    (((t.exhaust d).ageDone d).ageOf d).exhausted = true ∧ (((t.exhaust d).ageDone d).ageOf d).measuring = none
      ∧ ((t.exhaust d).ageDone d).guardMv d = s.guardMv d := by
  have age := (t.exhaust d).ageDone_ageOf d
  rw [t.exhaust_ageOf, same] at age
  exact ⟨congrArg AgeS.exhausted age, congrArg AgeS.measuring age,
    State.guardMv_of_ageOf ((congrArg AgeS.guardMv age).trans rfl)⟩

/-- Settles O44: a measurement's end by the slack that it found, the guard band and the regulator's answer. -/
theorem ageingRowsRun : Obligations.AgeingRowsRun := by
  unfold Obligations.AgeingRowsRun
  intro s d hd
  refine ⟨exec_ageingMeasure_waits hd, exec_ageingMeasure hd, fun m x b => exec_ageingMeasureDone hd x b, fun x b =>
    ⟨fun enough => ?enough, fun short below fresh => ?sent, fun short below fresh ack => ?raised,
      fun short spent => ?unsent, fun short cause => ?exhausted⟩⟩
  case enough =>
    have age := (s.noteSlack d.toNat x).ageDone_ageOf d.toNat
    rw [State.noteSlack_ageOf] at age
    rw [s.judgeSlack_enough enough b]
    exact ⟨congrArg AgeS.measuring age, congrArg AgeS.due age,
      State.guardMv_of_ageOf ((congrArg AgeS.guardMv age).trans rfl), congrArg OutS.setpoints (s.noteSlack_out d.toNat x)⟩
  case sent =>
    rw [State.judgeSlack_raises short b ⟨below, fresh⟩]
    refine (State.ite_kept (·.out.setpoints) (congrArg OutS.setpoints (s.raised_out d.toNat x)) ?_).trans
      (s.raising_setpoints d.toNat x)
    rw [State.ageDone_out, State.exhaust_setpoints]
  case raised =>
    have age := s.raised_ageOf d.toNat x
    rw [State.judgeSlack_raises short b ⟨below, fresh⟩, if_pos ack, State.guardMv, State.setpoint, age]
    exact ⟨rfl, rfl, rfl⟩
  case unsent =>
    have full : ¬ s.Raisable d.toNat := fun can => spent.elim (Nat.not_le.2 can.1) (by simp [can.2])
    rw [State.judgeSlack_spent short b full, State.ageDone_out, State.exhaust_setpoints, State.noteSlack_out]
  case exhausted =>
    by_cases can : s.Raisable d.toNat
    · have nack : b = false := (cause.resolve_left (Nat.not_le.2 can.1)).resolve_left (by simp [can.2])
      rw [State.judgeSlack_raises short b can, if_neg (by simp [nack])]
      exact State.exhaust_over (s.raising_ageOf d.toNat x)
    · rw [State.judgeSlack_spent short b can]
      exact State.exhaust_over (s.noteSlack_ageOf d.toNat x d.toNat)

end Sys2Proof.Machine
namespace Sys2Proof.Machine
open Sys2Proof

/-! ### The thermal levels (R365) -/

/-- The shutdown level stays until a reset, and comes at 115 °C. -/
theorem Therm.next_shutdown {l : Therm} {x : Nat} (h : l = .shutdown ∨ 460 ≤ x) : l.next x = .shutdown :=
  if_pos (by simpa using h)

/-- The other levels below 115 °C. -/
theorem Therm.next_live {l : Therm} {x : Nat} (live : l ≠ .shutdown) (below : x < 460) : l.next x
    = if 420 ≤ x then .trip else if l = .trip then (if x < 360 then .normal else .trip)
      else if 380 ≤ x then .throttle else if x < 360 then .normal else l := by
  have shuts : ¬ (l == .shutdown || decide (4 * 115 ≤ x)) = true := by simp [live, Nat.not_le.2 below]
  unfold Therm.next
  rw [if_neg shuts]
  simp only [beq_iff_eq]

theorem Therm.next_live_ne_shutdown {l : Therm} {x : Nat} (live : l ≠ .shutdown) (below : x < 460) :
    l.next x ≠ .shutdown := by
  rw [Therm.next_live live below]
  split_ifs
  exacts [nofun, nofun, nofun, nofun, nofun, live]

/-! ### What a new level leaves alone (R365) -/

/-- The readings of a part's dies, with what a new level does not touch. -/
structure Readings where
  phase : BootPhase
  flight : List Flight
  temps : List Nat
  therm : Map Therm
  govStatus : Nat → W64

section
variable (s : State)

def State.readings : Readings := ⟨s.boot.phase, s.flight, s.temps, s.therm, s.reg .govStatus⟩

theorem State.raise_readings (code sev : Nat) (ctx : Option Nat) (o : Nat) (d : List W32) :
    (s.raise code sev ctx o d).readings = s.readings := by
  have shown : (s.raise code sev ctx o d).reg .govStatus = s.reg .govStatus := 
    funext fun i => s.raise_reg (by decide) code sev ctx o d i
  rw [State.readings, shown, (s.raise_logged ..).frame]
  rfl

theorem State.setReg_readings {r : Reg} (hr : Reg.govStatus ≠ r) (i : Nat) (v : W64) :
    (s.setReg r i v).readings = s.readings := by
  have shown : (s.setReg r i v).reg .govStatus = s.reg .govStatus := funext fun k => s.setReg_reg_ne i k v hr
  rw [State.readings, shown]
  rfl

theorem State.softBrake_readings (d : Nat) : (s.softBrake d).readings = s.readings :=
  State.ite_kept State.readings rfl
    ((State.setReg_readings _ (r := .govBrakes) (by decide) d _).trans rfl)

theorem State.softBrakeAll_readings : s.softBrakeAll.readings = s.readings :=
  State.foldl_kept State.readings State.softBrake_readings _ s

theorem State.enterLevel_readings (d : Nat) (l : Therm) : (s.enterLevel d l).readings = s.readings := by
  have flagged (b : Nat) : (if d == anchorTherm then s else s.orReg .govErr d b).readings = s.readings :=
    State.ite_kept State.readings rfl (s.setReg_readings (by decide) d _)
  cases l with
  | normal => rfl
  | throttle => exact (State.raise_readings ..).trans (flagged 2)
  | trip => exact (State.raise_readings ..).trans ((State.softBrakeAll_readings _).trans (flagged 4))
  | shutdown => exact (State.raise_readings ..).trans rfl

/-- A die's temperature as the governor shows it; the anchor die has none (R353, R365). -/
def State.showTemp (d t : Nat) : State :=
  if d == anchorTherm then s else s.setFld .govStatus d 23 16 (min 255 (t / 4))

theorem State.showTemp_therm (d t : Nat) : (s.showTemp d t).therm = s.therm := State.ite_kept (·.therm) rfl rfl

theorem State.dieTemp_readings (d t : Nat) : (s.dieTemp d t).readings = { (s.showTemp d t).readings with
    therm := if s.thermOf d = (s.thermOf d).next t then s.therm
      else Map.set (fun _ => .normal) s.therm d ((s.thermOf d).next t) } := by
  have same : (s.showTemp d t).thermOf d = s.thermOf d :=
    congrArg (fun m => Map.get (fun _ => Therm.normal) m d) (s.showTemp_therm d t)
  have work : s.dieTemp d t = if (s.showTemp d t).thermOf d == (s.thermOf d).next t then s.showTemp d t
      else { s.showTemp d t with
        therm := Map.set (fun _ => .normal) (s.showTemp d t).therm d ((s.thermOf d).next t) }.enterLevel d
          ((s.thermOf d).next t) := rfl
  rw [work, same, s.showTemp_therm]
  simp only [beq_iff_eq]
  split
  · rw [← s.showTemp_therm d t]
    rfl
  · rw [State.enterLevel_readings]
    rfl

theorem State.dieTemp_thermOf (d t k : Nat) :
    (s.dieTemp d t).thermOf k = if k = d then (s.thermOf k).next t else s.thermOf k := by
  have levels := congrArg (fun r : Readings => Map.get (fun _ => Therm.normal) r.therm k) (s.dieTemp_readings d t)
  refine levels.trans ?_
  dsimp only
  by_cases at_d : k = d
  · subst at_d
    rw [if_pos rfl]
    split
    · assumption
    · exact Map.get_set_same ..
  · rw [if_neg at_d]
    split
    · rfl
    · exact Map.get_set_ne _ _ _ at_d

theorem State.dieTemp_govStatus (d t k : Nat) : (s.dieTemp d t).reg .govStatus k
    = if k = d then (if d = anchorTherm then s.reg .govStatus k
        else setBits (s.reg .govStatus k) 23 16 (min 255 (t / 4))) else s.reg .govStatus k := by
  have shown := congrArg (fun r : Readings => r.govStatus k) (s.dieTemp_readings d t)
  refine shown.trans ?_
  show (s.showTemp d t).reg .govStatus k = _
  unfold State.showTemp
  simp only [beq_iff_eq]
  by_cases at_d : k = d
  · subst at_d
    rw [if_pos rfl]
    split
    · rfl
    · exact s.setReg_reg ..
  · rw [if_neg at_d]
    split
    · rfl
    · exact s.setReg_reg_inst _ _ at_d

theorem State.dieTemp_kept (d t : Nat) : (s.dieTemp d t).temps = s.temps
    ∧ (s.dieTemp d t).boot.phase = s.boot.phase ∧ (s.dieTemp d t).flight = s.flight := by
  have kept : (s.showTemp d t).temps = s.temps ∧ (s.showTemp d t).boot.phase = s.boot.phase
      ∧ (s.showTemp d t).flight = s.flight := by
    unfold State.showTemp
    split <;> exact ⟨rfl, rfl, rfl⟩
  obtain ⟨temps, phase, flight⟩ := kept
  have readings := s.dieTemp_readings d t
  exact ⟨(congrArg Readings.temps readings).trans temps, (congrArg Readings.phase readings).trans phase,
    (congrArg Readings.flight readings).trans flight⟩

end

/-! ### A sample of all sensors (R365, R385) -/

section
variable {α β : Type} {get : State → Nat → β} {f : State → α → State} {key : α → Nat} {val : α → β → β}
  (hf : ∀ s a k, get (f s a) k = if k = key a then val a (get s k) else get s k)
include hf

/-- A loop leaves the places that none of its rounds writes. -/
theorem State.foldl_other {l : List α} {k : Nat} (hk : k ∉ l.map key) (s : State) : get (l.foldl f s) k = get s k := by
  induction l generalizing s with
  | nil => rfl
  | cons a l ih =>
    rw [List.map_cons, List.mem_cons, not_or] at hk
    rw [List.foldl_cons, ih hk.2, hf, if_neg hk.1]

/-- A loop whose rounds each write a place of their own. -/
theorem State.foldl_own {l : List α} (own : (l.map key).Nodup) {a : α} (ha : a ∈ l) (s : State) :
    get (l.foldl f s) (key a) = val a (get s (key a)) := by
  induction l generalizing s with
  | nil => cases ha
  | cons b l ih =>
    rw [List.map_cons, List.nodup_cons] at own
    rw [List.foldl_cons]
    rcases List.mem_cons.1 ha with rfl | ha
    · rw [State.foldl_other hf own.1, hf, if_pos rfl]
    · have other : key a ≠ key b := fun e => own.1 (e ▸ List.mem_map_of_mem ha)
      rw [ih own.2 ha, hf, if_neg other]

end

/-- A field reads back what was written to it. -/
theorem bits_setBits (w : W64) {hi lo v : Nat} (top : hi < 64) (order : lo ≤ hi) (hv : v < 2 ^ (hi + 1 - lo)) :
    bits (setBits w hi lo v) hi lo = v := by
  refine Nat.eq_of_testBit_eq fun i => ?_
  rw [bits, Nat.testBit_mod_two_pow, Nat.testBit_shiftRight]
  by_cases inside : i < hi + 1 - lo
  · have masked : (maskOf hi lo).getLsbD (lo + i) = true := by
      simp [maskOf, BitVec.getLsbD_ofNat, Nat.testBit_shiftLeft, Nat.testBit_two_pow_sub_one, inside]
      omega
    have bit : (setBits w hi lo v).getLsbD (lo + i) = v.testBit i := by
      simp only [setBits, BitVec.getLsbD_or, BitVec.getLsbD_and, BitVec.getLsbD_not, masked, BitVec.getLsbD_ofNat,
        Nat.testBit_shiftLeft, Nat.mod_eq_of_lt hv]
      simp
      omega
    simp [inside, ← bit, BitVec.getLsbD]
  · have above := Nat.lt_of_lt_of_le hv (Nat.pow_le_pow_right (by decide) (Nat.not_lt.1 inside))
    simp [inside, Nat.testBit_lt_two_pow above]

section
variable (s : State) (ts : List Nat)

/-- The hottest of `n` sensors from `first` on. -/
def hottest (first n : Nat) : Nat := ((ts.drop first).take n).foldl max 0

/-- The part with a sample's readings, before any level moves (R385). -/
def State.sampled : State := { s with temps := ts }

/-- Every die's level moves by its own sensors (R365). -/
def State.moveLevels : State :=
  (s.sampled ts).sensorDies.foldl (fun t x => t.dieTemp x.1 (hottest ts x.2.1 x.2.2)) (s.sampled ts)

theorem State.dies_le : s.dies ≤ anchorTherm := by
  unfold State.dies
  split <;> decide

theorem State.sensorDies_nodup : (s.sensorDies.map fun x => x.1).Nodup := by
  have keys : (s.sensorDies.map fun x => x.1) = List.range s.dies ++ [anchorTherm] := by
    simp [State.sensorDies, Function.comp_def]
  rw [keys, List.nodup_append]
  refine ⟨List.nodup_range, List.nodup_singleton _, fun d hd e he => ?_⟩
  have := s.dies_le
  rw [List.mem_range] at hd
  rw [List.mem_singleton] at he
  omega

theorem State.mem_sensorDies {d : Nat} (hd : d < s.dies) : (d, 11 * d, 11) ∈ s.sensorDies :=
  List.mem_append_left _ (List.mem_map.2 ⟨d, List.mem_range.2 hd, rfl⟩)

theorem State.anchor_mem_sensorDies : (anchorTherm, 88, 8) ∈ s.sensorDies := List.mem_append_right _ List.mem_cons_self

theorem State.moveLevels_thermOf {d first n : Nat} (h : (d, first, n) ∈ s.sensorDies) :
    (s.moveLevels ts).thermOf d = (s.thermOf d).next (hottest ts first n) :=
  State.foldl_own (get := State.thermOf) (key := fun x : Nat × Nat × Nat => x.1)
    (val := fun x l => l.next (hottest ts x.2.1 x.2.2)) (fun t x k => t.dieTemp_thermOf x.1 _ k)
    (s.sampled ts).sensorDies_nodup h (s.sampled ts)

theorem State.moveLevels_govStatus {d first n : Nat} (h : (d, first, n) ∈ s.sensorDies) (own : d ≠ anchorTherm) :
    (s.moveLevels ts).reg .govStatus d
      = setBits (s.reg .govStatus d) 23 16 (min 255 (hottest ts first n / 4)) :=
  (State.foldl_own (get := fun t => t.reg .govStatus) (key := fun x : Nat × Nat × Nat => x.1)
    (val := fun x w => if x.1 = anchorTherm then w else setBits w 23 16 (min 255 (hottest ts x.2.1 x.2.2 / 4)))
    (fun t x k => t.dieTemp_govStatus x.1 _ k) (s.sampled ts).sensorDies_nodup h (s.sampled ts)).trans (if_neg own)

theorem State.moveLevels_kept : (s.moveLevels ts).temps = ts ∧ (s.moveLevels ts).boot.phase = s.boot.phase
    ∧ (s.moveLevels ts).flight = s.flight :=
  ⟨State.foldl_kept (·.temps) (fun t (x : Nat × Nat × Nat) => (t.dieTemp_kept x.1 _).1) _ (s.sampled ts),
    State.foldl_kept (·.boot.phase) (fun t (x : Nat × Nat × Nat) => (t.dieTemp_kept x.1 _).2.1) _ (s.sampled ts),
    State.foldl_kept (·.flight) (fun t (x : Nat × Nat × Nat) => (t.dieTemp_kept x.1 _).2.2) _ (s.sampled ts)⟩

variable {s} (awake : s.boot.aon = true)
include awake

/-- With PORST_N low the sensors are read, and no level moves (R424). -/
theorem exec_thermalSample_off (off : s.boot.phase = .off) : exec (.thermalSample ts) s = .next (s.sampled ts) := by
  have row : exec (.thermalSample ts) s = execThermalSample ts s := rfl
  rw [row, execThermalSample, if_neg (by simp [awake])]
  exact if_pos (by simp [off])

theorem exec_thermalSample (on : s.boot.phase ≠ .off) : exec (.thermalSample ts) s = .next (s.moveLevels ts) := by
  have row : exec (.thermalSample ts) s = execThermalSample ts s := rfl
  rw [row, execThermalSample, if_neg (by simp [awake])]
  exact if_neg (by simp [on])

end

/-- Settles O45: the levels by the bounds that the temperature lies between, and a sample die by die. -/
theorem thermalLevelsHaveHysteresis : Obligations.ThermalLevelsHaveHysteresis := by
  unfold Obligations.ThermalLevelsHaveHysteresis
  refine ⟨fun l x => ⟨⟨Therm.next_shutdown, fun h => ?shutdown⟩, fun live hot below => ?trip, fun trip warm below => ?stays,
    fun calm hot below => ?throttles, fun calm warm below => ?rests, fun live cold => ?cools⟩,
    fun s ts awake => ⟨exec_thermalSample_off ts awake, fun on => ⟨_, exec_thermalSample ts awake on, ?sample⟩⟩⟩
  case shutdown =>
    by_contra other
    obtain ⟨live, below⟩ := not_or.1 other
    exact Therm.next_live_ne_shutdown live (Nat.not_le.1 below) h
  case trip => rw [Therm.next_live live below, if_pos hot]
  case stays =>
    rw [Therm.next_live (by simp [trip]) below, if_pos trip, if_neg (Nat.not_lt.2 warm), ite_self]
  case throttles =>
    have live : l ≠ .shutdown ∧ l ≠ .trip := by rcases calm with rfl | rfl <;> decide
    rw [Therm.next_live live.1 (by omega), if_neg (Nat.not_le.2 below), if_neg live.2, if_pos hot]
  case rests =>
    have live : l ≠ .shutdown ∧ l ≠ .trip := by rcases calm with rfl | rfl <;> decide
    rw [Therm.next_live live.1 (by omega), if_neg (by omega), if_neg live.2, if_neg (Nat.not_le.2 below),
      if_neg (Nat.not_lt.2 warm)]
  case cools =>
    rw [Therm.next_live live (by omega), if_neg (by omega)]
    by_cases trip : l = .trip
    · rw [if_pos trip, if_pos cold]
    · rw [if_neg trip, if_neg (by omega), if_pos cold]
  case sample =>
    obtain ⟨temps, phase, flight⟩ := s.moveLevels_kept ts
    refine ⟨temps, phase, flight, fun d hd => ⟨s.moveLevels_thermOf ts (s.mem_sensorDies hd), ?_⟩,
      s.moveLevels_thermOf ts s.anchor_mem_sensorDies⟩
    have own : d ≠ anchorTherm := Nat.ne_of_lt (Nat.lt_of_lt_of_le hd s.dies_le)
    rw [State.fld, s.moveLevels_govStatus ts (s.mem_sensorDies hd) own]
    exact bits_setBits _ (by decide) (by decide) (by omega)

end Sys2Proof.Machine
namespace Sys2Proof.Machine
open Sys2Proof

/-! ### What the end of a command and a drain that fails leave alone (R251, R315, R377)

Both rows change much of the part, but never these. -/

/-- The timebase, the alarm logic, the history store and the management side of a part. -/
structure Lasting where
  timebase : Nat
  sec : SecS
  hist : HistS
  mgmt : MgmtS

section
variable (s : State)

def State.lasting : Lasting := ⟨s.clk.timebase, s.sec, s.hist, s.mgmt⟩

theorem State.raise_lasting (code sev : Nat) (ctx : Option Nat) (o : Nat) (d : List W32) :
    (s.raise code sev ctx o d).lasting = s.lasting := by
  rw [(s.raise_logged ..).frame]
  rfl

theorem State.touchUnit_lasting (d : Nat) (u : GovUnit) : (s.touchUnit d u).lasting = s.lasting := by
  unfold State.touchUnit
  dsimp only
  split <;> rfl

theorem State.copyQuotaFail_lasting (c : Nat) : (s.copyQuotaFail c).lasting = s.lasting :=
  (State.raise_lasting ..).trans rfl

theorem State.beginCopy_lasting (c p : Nat) : (s.beginCopy c p).lasting = s.lasting := rfl
theorem State.setCtx_lasting (c : Nat) (x : CtxS) : (s.setCtx c x).lasting = s.lasting := rfl
theorem State.setPage_lasting (c p : Nat) (x : PageS) : (s.setPage c p x).lasting = s.lasting := rfl
theorem State.setQueue_lasting (q : Nat) (x : QueueS) : (s.setQueue q x).lasting = s.lasting := rfl
theorem State.setReg_lasting (r : Reg) (i : Nat) (v : W64) : (s.setReg r i v).lasting = s.lasting := rfl
theorem State.updFlight_lasting (id : Nat) (f : Flight → Flight) : (s.updFlight id f).lasting = s.lasting := rfl
theorem State.wr_lasting (a : Nat) (bs : List Byte) (pois : Bool) : (s.wr a bs pois).lasting = s.lasting := rfl

theorem State.storePage_lasting (fl : Option Nat) (c a : Nat) (bs : List Byte) (pois : Bool) :
    (s.storePage fl c a bs pois).2.lasting = s.lasting := by
  unfold State.storePage
  extract_lets p x wait t held
  have waits : t.lasting = s.lasting := s.setPage_lasting ..
  have copies : (t.beginCopy c p).lasting = s.lasting := (t.beginCopy_lasting c p).trans waits
  have stores : (s.wr (physFrame x.frame (a % 2097152)) bs pois).lasting = s.lasting := s.wr_lasting ..
  refine State.ite_snd_kept State.lasting rfl (State.ite_snd_kept State.lasting rfl (State.ite_snd_kept State.lasting waits
    (State.ite_snd_kept State.lasting (State.ite_snd_kept State.lasting ?_ (State.ite_snd_kept State.lasting
      (s.copyQuotaFail_lasting c) (State.ite_snd_kept State.lasting ?_ copies))) stores)))
  · exact (t.setPage_lasting ..).trans waits
  · exact (State.beginCopy_lasting _ c p).trans waits

theorem State.queueStop_lasting (q : Nat) : (s.queueStop q).lasting = s.lasting := (State.raise_lasting ..).trans rfl

theorem State.writeRecord_lasting (f : Flight) : (s.writeRecord f).lasting = s.lasting := by
  unfold State.writeRecord
  dsimp only
  refine State.ite_kept State.lasting rfl (State.ite_kept State.lasting (s.queueStop_lasting _) ?_)
  exact (State.setQueue_lasting ..).trans (State.ite_kept State.lasting rfl (s.storePage_lasting ..))

theorem State.statusFlags_lasting (f : Flight) : (s.statusFlags f).lasting = s.lasting :=
  State.ite_kept State.lasting rfl (State.ite_kept State.lasting rfl (State.ite_kept State.lasting rfl
    (State.ite_kept State.lasting rfl (State.ite_kept State.lasting rfl (State.ite_kept State.lasting rfl rfl)))))

theorem State.signal_lasting (f : Flight) : (s.signal f).lasting = s.lasting := State.ite_kept State.lasting rfl rfl

theorem State.retire_lasting (f : Flight) (record : Bool) : (s.retire f record).lasting = s.lasting := by
  unfold State.retire
  extract_lets s1 s2 s3 s4 n _ s5
  have ended : s5.lasting = s.lasting :=
    (State.signal_lasting s3 f).trans ((State.statusFlags_lasting s2 f).trans
      (State.foldl_kept State.lasting (fun t (x : Nat × GovUnit) => t.touchUnit_lasting x.1 x.2) _ s))
  have recorded := (State.writeRecord_lasting s5 f).trans ended
  exact State.ite_kept State.lasting ended (State.ite_kept State.lasting recorded recorded)

theorem State.complete_lasting (id : Nat) : (s.complete id).lasting = s.lasting := by
  unfold State.complete
  split
  · rfl
  · exact s.retire_lasting _ _

theorem State.failWaits_lasting (c p st : Nat) : (s.failWaits c p st).lasting = s.lasting :=
  (State.foldl_kept State.lasting (fun t w => by cases w.flight <;> rfl) _ _).trans rfl

theorem State.retryCredit_lasting (c p : Nat) : (s.retryCredit c p).lasting = s.lasting := by
  unfold State.retryCredit
  dsimp only
  split
  · rfl
  · split
    · exact (State.copyQuotaFail_lasting _ c).trans (s.failWaits_lasting c p _)
    · exact (State.beginCopy_lasting _ c p).trans (State.ite_kept State.lasting (s.setCtx_lasting ..) rfl)

theorem State.retryCredits_lasting (c : Nat) : (s.retryCredits c).lasting = s.lasting :=
  State.foldl_kept State.lasting (fun t (e : Nat × PageS) => t.retryCredit_lasting c e.1) _ s

theorem State.imageLets_lasting (c f : Nat) : (s.imageLets c f).lasting = s.lasting := by
  rcases s.imageLets_cases c f with h | h <;> rw [h] <;> rfl

theorem State.failImage_lasting (id : Nat) : (s.failImage id).lasting = s.lasting := by
  rcases s.failImage_cases id with h | ⟨m, -, -, h⟩ <;> rw [h]
  rw [State.raise_lasting, State.orReg_eq, State.setReg_lasting, State.retryCredits_lasting,
    State.foldl_kept State.lasting fun t f => t.imageLets_lasting m.ctx f]
  rfl

theorem State.failDrains_lasting : s.failDrains.lasting = s.lasting :=
  State.foldl_kept State.lasting State.failImage_lasting _ s

theorem State.toTrain_lasting (n : Nat) : (s.toTrain n).lasting = s.lasting := State.ite_kept State.lasting rfl rfl

theorem State.eraseLinkKeys_lasting : s.eraseLinkKeys.lasting = s.lasting :=
  State.foldl_kept State.lasting (fun t n => State.ite_kept State.lasting (t.toTrain_lasting n) rfl) _ s

theorem State.stopHarvests_lasting : s.stopHarvests.lasting = s.lasting :=
  State.foldl_kept State.lasting (fun t (f : Flight) => (State.complete_lasting _ f.id).trans (t.updFlight_lasting ..)) _ s

theorem State.eraseSession_lasting : s.eraseSession.lasting = s.lasting :=
  (State.stopHarvests_lasting _).trans ((State.failDrains_lasting _).trans s.eraseLinkKeys_lasting)

end

/-! ### An alarm of the mesh at the always-on domain's release (R376, R377, R425) -/

section
variable (s : State)

/-- The sensors that are active, the mesh's alarm that waits, and the management side. -/
def State.alarmSide : NatSet × Bool × MgmtS := (s.sec.active, s.sec.meshDue, s.mgmt)

theorem State.alarmSide_of_lasting {s t : State} (h : t.lasting = s.lasting) : t.alarmSide = s.alarmSide :=
  congrArg (fun x : Lasting => (x.sec.active, x.sec.meshDue, x.mgmt)) h

theorem State.dropKekLoad_alarmSide : s.dropKekLoad.alarmSide = s.alarmSide := State.ite_kept State.alarmSide rfl rfl

theorem State.eraseKek_alarmSide : s.eraseKek.alarmSide = s.alarmSide := rfl

theorem State.withAlarmN_alarmSide (n : Option Nat) :
    ({ s with sec := { s.sec with alarmNUntil := n } } : State).alarmSide = s.alarmSide := rfl

/-- What an alarm class does erases keys, and leaves the sensors and the management side (R377). -/
theorem State.alarmAction_alarmSide (cl : Nat) : (s.alarmAction cl).alarmSide = s.alarmSide := by
  have dropped : (s.orReg .vwmAlarmStatus 0 (2 ^ (cl - 1))).dropKekLoad.alarmSide = s.alarmSide :=
    (State.dropKekLoad_alarmSide _).trans rfl
  have erased := (State.alarmSide_of_lasting (State.eraseSession_lasting _)).trans dropped
  unfold State.alarmAction
  dsimp only
  rw [State.alarmSide_of_lasting (State.raise_lasting ..)]
  split <;> split
  · rw [State.eraseKek_alarmSide, State.withAlarmN_alarmSide, erased]
  · rw [State.eraseKek_alarmSide, dropped]
  · rw [State.withAlarmN_alarmSide, erased]
  · exact dropped

variable {s}

/-- One sensor's condition, with the always-on domain running: it acts where the sensor is watched and was not active
before (R376). -/
theorem State.alarm_one (awake : s.boot.aon = true) (k : Nat) : s.alarm [k]
    = if (s.sensorWatched k && !s.sec.active.contains k) = true then (s.logAlarm k).alarmAction (s.alarmClass k) else s := by
  have noted : s.noteMesh [k] = s := if_neg (by simp [awake])
  have alone : [k].eraseDups = [k] := rfl
  unfold State.alarm
  rw [noted, alone]
  by_cases acts : (s.sensorWatched k && !s.sec.active.contains k) = true
  · rw [if_pos acts]
    simp only [List.filter_singleton, acts, cond_true]
    exact (if_neg nofun).trans (congrArg (s.logAlarm k).alarmAction (Nat.zero_max _))
  · rw [if_neg acts]
    simp only [List.filter_singleton, acts, cond_false]
    exact if_pos rfl

/-- The mesh's alarm, seen by the always-on domain, is active from then on (R376, R425). -/
theorem State.alarm_mesh (awake : s.boot.aon = true) : (s.alarm [meshSensor]).sec.active.contains meshSensor = true
    ∧ (s.alarm [meshSensor]).sec.meshDue = s.sec.meshDue ∧ (s.alarm [meshSensor]).mgmt = s.mgmt := by
  have seen : s.sensorWatched meshSensor = true := by simp [State.sensorWatched, awake, inRange, sensors, meshSensor]
  rw [State.alarm_one awake, seen]
  cases active : s.sec.active.contains meshSensor
  · have side := (s.logAlarm meshSensor).alarmAction_alarmSide (s.alarmClass meshSensor)
    simp only [State.alarmSide, Prod.mk.injEq] at side
    obtain ⟨sensors, due, mgmt⟩ := side
    refine ⟨?_, due, mgmt⟩
    exact sensors ▸ List.contains_iff_mem.2 ((NatSet.mem_ins ..).2 (.inl rfl))
  · exact ⟨active, rfl, rfl⟩

/-- No sensor's condition, no alarm (R376). -/
theorem State.alarm_nil (s : State) : s.alarm [] = s := by
  have noted : s.noteMesh [] = s := if_neg (by simp)
  unfold State.alarm
  rw [noted]
  exact if_pos rfl

theorem exec_aonResetRelease (asleep : s.boot.aon = false) : exec .aonResetRelease s
    = .next (({ s with boot := { s.boot with aon := true }, mgmt := { s.mgmt with running := true },
                       sec := { s.sec with meshDue := false } } : State).alarm
        (if s.sec.meshDue then [meshSensor] else [])) := by
  have row : exec .aonResetRelease s = execAonResetRelease s := rfl
  rw [row, execAonResetRelease, if_neg (by simp [asleep])]

end

/-! ### What a reset leaves (R407, R408, R422) -/

section
variable (s : State)

/-- Without a drain in progress none fails. -/
theorem State.failDrains_none (h : ∀ m ∈ s.images, m.st ≠ .draining) : s.failDrains = s := by
  have none : (s.images.filter fun m => m.st == .draining) = [] := by simpa using h
  rw [State.failDrains, none]
  rfl

theorem State.resetCore_boot (powerOn : Bool) : (s.resetCore powerOn).boot = s.boot.afterReset powerOn :=
  congrArg (fun b : BootS => b.afterReset powerOn) s.failDrains_boot

theorem State.resetCore_hist (powerOn : Bool) : (s.resetCore powerOn).hist = s.hist :=
  congrArg Lasting.hist s.failDrains_lasting

theorem State.resetCore_timebase (powerOn : Bool) :
    (s.resetCore powerOn).clk.timebase = if powerOn then 0 else s.clk.timebase :=
  congrArg (fun x : Lasting => if powerOn then 0 else x.timebase) s.failDrains_lasting

/-- Of all memories flash alone keeps its bytes (R407). -/
theorem State.resetCore_byte (powerOn : Bool) (a : Nat) :
    (s.resetCore powerOn).byte a = if inFlash a then s.failDrains.byte a else 0 :=
  Map.get_filter memDefault s.failDrains.mem inFlash a

theorem inFlash_iff (a : Nat) : inFlash a = true ↔ 2 * memStride ≤ a ∧ a < 3 * memStride := by
  simp [inFlash]

theorem State.resetCore_images (powerOn : Bool) : (s.resetCore powerOn).images = s.failDrains.images := rfl

theorem State.enterPhase_boot (p : BootPhase) : (s.enterPhase p).boot = { s.boot with phase := p } := rfl

/-- Phase ROM begins, with the timebase and the history store as they were and everything else over (R407, R408). -/
theorem State.restart_reborn : s.restart.boot.phase = .rom ∧ s.restart.boot.running = false
    ∧ s.restart.boot.warming = false ∧ s.restart.boot.pllLocked = false ∧ s.restart.clk.timebase = s.clk.timebase
    ∧ s.restart.flight = [] ∧ s.restart.queues = [] ∧ s.restart.pages = [] ∧ s.restart.sec.kek = none
    ∧ s.restart.hist.pc = s.hist.pc :=
  ⟨rfl, rfl, rfl, rfl, s.resetCore_timebase false, rfl, rfl, rfl, rfl, congrArg HistS.pc (s.resetCore_hist false)⟩

theorem State.restart_perst : s.restart.boot.perst = s.boot.perst := by
  rw [State.restart, State.enterPhase_boot, State.resetCore_boot]
  rfl

/-- A part that brakes for a warm reset: its work is still in flight (R358, R408). -/
def State.brakes : State := { s.softBrakeAll with boot := { s.softBrakeAll.boot with warming := true } }

theorem State.brakes_boot : s.brakes.boot = { s.boot with warming := true } := by
  rw [← s.softBrakeAll_boot]
  rfl

theorem State.brakes_braking : s.brakes.boot.warming = true ∧ s.brakes.boot.phase = s.boot.phase
    ∧ s.brakes.flight = s.flight ∧ s.brakes.queues = s.queues
    ∧ (s.shut = false → ∀ k, k < s.dies → (s.brakes.govOf k).brake.isSome = true) :=
  ⟨rfl, by rw [s.brakes_boot], s.softBrakeAll_flight, s.softBrakeAll_queues, fun live _ hk => s.softBrakeAll_brake live hk⟩

theorem State.warm_restarts (porst : s.boot.porst = true) (on : s.boot.phase ≠ .off)
    (free : (s.boot.running && s.anyGrant) = false) : s.warm = s.restart :=
  (if_neg (by simp [porst, on])).trans (if_neg (Bool.eq_false_iff.1 free))

theorem State.warm_brakes (porst : s.boot.porst = true) (on : s.boot.phase ≠ .off)
    (granted : (s.boot.running && s.anyGrant) = true) : s.warm = s.brakes :=
  (if_neg (by simp [porst, on])).trans (if_pos granted)

theorem State.warmed_restarts (warming : s.boot.warming = true)
    (done : s.boot.running = false ∨ ∀ e ∈ s.gov, e.2.brake = none) : s.warmed = s.restart := by
  have ends : (!s.boot.running || !s.gov.any fun e => e.2.brake.isSome) = true := by
    rcases done with stopped | free
    · simp [stopped]
    · simpa using .inr fun n g h => free (n, g) h
  exact if_pos (by rw [warming, ends]; rfl)

/-- The part with PERST_N at a level (R407). -/
def State.withPerst (b : Bool) : State := { s with boot := { s.boot with perst := b } }

theorem exec_vwmBootWarmReset : exec .vwmBootWarmReset s = .next s.warm := rfl
theorem exec_warmReset_hotReset : exec (.warmReset .hotReset) s = .next s.warm := rfl
theorem exec_warmReset_perst (b : Bool) : exec (.warmReset (.perst b)) s = .next (s.withPerst (!b)).warm := rfl

variable {s}

/-- PORST_N low holds the part off (R422). -/
theorem exec_porstNAssert (high : s.boot.porst = true) : exec .porstNAssert s = .next { s.resetCore true with
    boot := { (s.resetCore true).boot with porst := false, phase := .off } } := by
  have row : exec .porstNAssert s = execPorstNAssert s := rfl
  rw [row, execPorstNAssert, if_neg (by simp [high])]

/-- The release of PORST_N counts a power cycle (R384, R407). -/
theorem exec_porstNDeassert (low : s.boot.porst = false) : exec .porstNDeassert s
    = .next (({ s with boot := { s.boot with porst := true },
                       hist := { s.hist with pc := (s.hist.pc + 1) % 4294967296 } } : State).enterPhase .rom) := by
  have row : exec .porstNDeassert s = execPorstNDeassert s := rfl
  rw [row, execPorstNDeassert, if_neg (by simp [low])]

/-- A register of the always-on domain holds its reset value (R424). -/
theorem foldl_regDefault {rs : List Reg} {m : Map W64} {r : Reg}
    (h : r ∈ rs ∨ Map.get regDefault m (r.key 0) = regDefault (r.key 0)) :
    Map.get regDefault (rs.foldl (fun m r => Map.set regDefault m (r.key 0) (regDefault (r.key 0))) m) (r.key 0)
      = regDefault (r.key 0) := by
  induction rs generalizing m with
  | nil => simpa using h
  | cons x rs ih =>
    refine ih ?_
    by_cases here : r.key 0 = x.key 0
    · exact .inr (by rw [here, Map.get_set_same])
    · rw [Map.get_set_ne _ _ _ here]
      refine h.imp_left fun mem => ?_
      exact (List.mem_cons.1 mem).resolve_left fun e => here (by rw [e])

/-- The always-on domain in reset, with its registers, its log and its alarm logic at their reset values (R424). -/
def State.railsFallen (s : State) : State := { s with
  boot := { s.boot with aon := false }, evt := State.reset.evt, vigil := { s.vigil with record := [] }, regs := s.aonRegs
  sec := State.reset.sec
  mgmt := { s.mgmt with eid := 0, receiver := none, ip := none, verified := false, restart := none, running := false } }

theorem exec_aonRailFall (awake : s.boot.aon = true) : exec .aonRailFall s = .next s.failDrains.railsFallen := by
  have row : exec .aonRailFall s = execAonRailFall s := rfl
  rw [row, execAonRailFall, if_neg (by simp [awake])]
  rfl

theorem State.railsFallen_reg (s : State) {r : Reg} (h : r ∈ [Reg.vwmEvtSeq, .vwmAlarmClass, .vwmAlarmStatus]) :
    s.railsFallen.reg r 0 = r.info.reset := (foldl_regDefault (.inl h)).trans (regDefault_key r 0)

end

/-- Settles O48: each reset by what it finds granted, and what it leaves by the one reset of the domains. -/
theorem resetRowsRun : Obligations.ResetRowsRun := by
  unfold Obligations.ResetRowsRun
  intro s reborn braking
  refine ⟨fun high => ⟨_, exec_porstNAssert high, ?assert⟩, fun low => ⟨_, exec_porstNDeassert low, rfl, rfl, rfl, rfl, rfl⟩,
    fun porst on free => ⟨⟨_, exec_vwmBootWarmReset s, exec_warmReset_hotReset s, ?restarts⟩,
      fun b => ⟨_, exec_warmReset_perst s b, ?perstRestarts⟩⟩,
    fun porst on granted => ⟨⟨_, exec_vwmBootWarmReset s, exec_warmReset_hotReset s, ?brakes⟩,
      fun b => ⟨_, exec_warmReset_perst s b, ?perstBrakes⟩⟩,
    fun warming done => ⟨s.warmed_restarts warming done, s.restart_reborn⟩, rfl,
    fun awake => ⟨_, exec_aonRailFall awake, rfl, rfl, rfl, rfl, ?fallHist, State.railsFallen_reg _ (by decide),
      State.railsFallen_reg _ (by decide)⟩,
    fun asleep calm => ?release, fun asleep due => ⟨_, exec_aonResetRelease asleep, ?mesh⟩⟩
  case assert =>
    refine ⟨rfl, rfl, rfl, rfl, rfl, rfl, rfl, s.resetCore_timebase true, fun a outside => ?_, fun idle => ⟨?_, ?_,
      fun a low high => ?_⟩⟩
    · exact (s.resetCore_byte true a).trans (if_neg (by rw [inFlash_iff]; omega))
    · exact s.resetCore_hist true
    · exact (s.resetCore_images true).trans (congrArg State.images (s.failDrains_none idle))
    · exact (s.resetCore_byte true a).trans ((if_pos ((inFlash_iff a).2 ⟨low, high⟩)).trans
        (congrArg (fun t => State.byte t a) (s.failDrains_none idle)))
  case restarts => exact s.warm_restarts porst on free ▸ s.restart_reborn
  case perstRestarts =>
    rw [(s.withPerst (!b)).warm_restarts porst on free]
    exact ⟨(s.withPerst (!b)).restart_reborn, (s.withPerst (!b)).restart_perst⟩
  case brakes => exact s.warm_brakes porst on granted ▸ s.brakes_braking
  case perstBrakes =>
    rw [(s.withPerst (!b)).warm_brakes porst on granted]
    exact ⟨(s.withPerst (!b)).brakes_braking, by rw [State.brakes_boot]; rfl⟩
  case fallHist => exact congrArg (fun x : Lasting => x.hist.pc) s.failDrains_lasting
  case release =>
    have same : ({ s.sec with meshDue := false } : SecS) = s.sec := by rw [← calm]
    rw [exec_aonResetRelease asleep, calm, same]
    exact congrArg Host.Outcome.next (State.alarm_nil _)
  case mesh =>
    rw [due, if_pos rfl]
    obtain ⟨active, waits, mgmt⟩ := State.alarm_mesh (s := { s with
      boot := { s.boot with aon := true }, mgmt := { s.mgmt with running := true }
      sec := { s.sec with meshDue := false } }) rfl
    exact ⟨congrArg BootS.aon (State.alarm_boot ..), congrArg MgmtS.running mgmt, waits, active⟩

end Sys2Proof.Machine

namespace Sys2Proof.Machine
open Sys2Proof

/-! ### Fault records of the history store (R373 to R375) -/

/-- The record is of unit `index` of kind `kind`. -/
def FaultRec.isOf (kind index : Nat) (r : FaultRec) : Bool := r.kind == kind && r.index == index

/-- The record of a unit's first failure. -/
def FaultRec.first (kind index pc : Nat) : FaultRec := ⟨kind, false, index, 1, pc, 0⟩

theorem State.permanent_eq (s : State) (kind index : Nat) :
    s.permanent kind index = s.hist.faults.any fun r => r.isOf kind index && r.permanent := rfl

theorem FaultRec.again_isOf (r : FaultRec) (pc kind index : Nat) : (r.again pc).isOf kind index = r.isOf kind index := rfl

theorem FaultRec.again_permanent (r : FaultRec) (pc : Nat) : (r.again pc).permanent = (r.permanent || r.lastPc != pc) := rfl

/-- The record that gives way to a new one is a transient one (R375). -/
theorem oldestTransient_transient {rs : List FaultRec} : ∀ o ∈ oldestTransient rs, o.permanent = false := by
  refine List.foldlRecOn (motive := fun x : Option FaultRec => ∀ o ∈ x, o.permanent = false) rs _ nofun
    fun x hx r _ => ?_
  cases transient : r.permanent
  · cases x with
    | none => simpa using transient
    | some y =>
      rw [if_neg nofun]
      dsimp only
      split
      · simpa using transient
      · exact hx
  · exact hx

theorem length_updFirst {α : Type} (p : α → Bool) (f : α → α) (l : List α) : (updFirst p f l).length = l.length := by
  induction l with
  | nil => rfl
  | cons a l ih => cases ha : p a <;> simp [updFirst, ha, ih]

/-- Something of a kind is still there where the element that changed keeps the kind. -/
theorem any_updFirst {α : Type} {p q : α → Bool} {f : α → α} {l : List α}
    (keeps : ∀ x, p x = true → q x = true → q (f x) = true) (h : l.any q = true) : (updFirst p f l).any q = true := by
  induction l with
  | nil => exact h
  | cons a l ih =>
    rw [List.any_cons, Bool.or_eq_true] at h
    cases ha : p a
    · simpa [updFirst, ha] using h.imp_right ih
    · simpa [updFirst, ha] using h.imp_left (keeps a ha)

section
variable (s : State) (kind index : Nat)

/-- What a failure does to the records: the unit's own counts on, or a first one joins where there is room, or takes the
place of a transient one; or nothing is left to give way (R374, R375). -/
theorem State.recordFailure_faults :
    (s.recordFailure kind index).hist.faults
        = updFirst (FaultRec.isOf kind index) (fun r => r.again s.hist.pc) s.hist.faults
    ∨ s.hist.faults.length < historyRecords
      ∧ (s.recordFailure kind index).hist.faults = s.hist.faults ++ [FaultRec.first kind index s.hist.pc]
    ∨ (∃ o : FaultRec, o.permanent = false ∧ (s.recordFailure kind index).hist.faults
        = updFirst (fun r => r == o) (fun _ => FaultRec.first kind index s.hist.pc) s.hist.faults)
    ∨ (s.recordFailure kind index).hist.faults = s.hist.faults := by
  unfold State.recordFailure
  dsimp only
  split
  · exact .inl rfl
  · split
    · next room => exact .inr (.inl ⟨room, rfl⟩)
    · split
      · next o found => exact .inr (.inr (.inl ⟨o, oldestTransient_transient o found, rfl⟩))
      · exact .inr (.inr (.inr (congrArg HistS.faults (State.raise_hist ..))))

theorem State.recordFailure_bounded (fits : s.hist.faults.length ≤ historyRecords) :
    (s.recordFailure kind index).hist.faults.length ≤ historyRecords := by
  rcases s.recordFailure_faults kind index with h | ⟨room, h⟩ | ⟨o, -, h⟩ | h <;> rw [h]
  · rwa [length_updFirst]
  · simpa using room
  · rwa [length_updFirst]
  · exact fits

/-- A failure erases no permanent record (R375). -/
theorem State.recordFailure_keeps_permanent {a b : Nat} (h : s.permanent a b = true) :
    (s.recordFailure kind index).permanent a b = true := by
  rw [State.permanent_eq] at h ⊢
  rcases s.recordFailure_faults kind index with e | ⟨-, e⟩ | ⟨o, transient, e⟩ | e <;> rw [e]
  · refine any_updFirst (fun r _ hr => ?_) h
    obtain ⟨named, permanent⟩ := Bool.and_eq_true_iff.1 hr
    rw [FaultRec.again_isOf, FaultRec.again_permanent, named, permanent]
    rfl
  · rw [List.any_append, h, Bool.true_or]
  · refine any_updFirst (fun r hr permanent => ?_) h
    rw [eq_of_beq hr, transient, Bool.and_false] at permanent
    exact nomatch permanent
  · exact h

/-- A unit that fails in a second power cycle has a permanent record (R374). -/
theorem State.recordFailure_again {r : FaultRec} (found : s.hist.faults.find? (FaultRec.isOf kind index) = some r)
    (later : r.lastPc ≠ s.hist.pc) : (s.recordFailure kind index).permanent kind index = true := by
  have named := List.find?_some found
  have recorded := List.any_eq_true.2 ⟨r, List.mem_of_find?_eq_some found, named⟩
  have row : (s.recordFailure kind index).hist.faults
      = updFirst (FaultRec.isOf kind index) (fun r => r.again s.hist.pc) s.hist.faults := by
    unfold State.recordFailure
    exact congrArg (fun t : State => t.hist.faults) (if_pos recorded)
  have counted := (find?_updFirst (f := fun r : FaultRec => r.again s.hist.pc)
    (fun x => x.again_isOf s.hist.pc kind index) s.hist.faults).trans (congrArg (Option.map _) found)
  rw [State.permanent_eq, row, List.any_eq_true]
  refine ⟨_, List.mem_of_find?_eq_some counted, ?_⟩
  simpa [FaultRec.again_isOf, FaultRec.again_permanent, named] using .inr later

end

/-! ### A context or the part that a fault ends (R367, R369, R370) -/

section
variable (s : State)

theorem State.withVigil_ctxs (v : VigilS) : ({ s with vigil := v } : State).ctxs = s.ctxs := rfl

theorem State.regrain_ctxs (d : Nat) : (s.regrain d).ctxs = s.ctxs :=
  State.ite_kept (·.ctxs) (s.setReg_ctxs ..)
    ((State.raise_ctxs ..).trans ((State.withVigil_ctxs _ _).trans (s.setReg_ctxs ..)))

theorem State.armDie_ctxs (d : Nat) : (s.armDie d).ctxs = s.ctxs := by
  refine (State.regrain_ctxs _ d).trans ((State.foldl_kept (·.ctxs) (fun t y => ?_) _ _).trans rfl)
  exact State.ite_kept (·.ctxs) rfl (State.ite_kept (·.ctxs) (State.ite_kept (·.ctxs) rfl rfl)
    (State.ite_kept (·.ctxs) rfl rfl))

/-- A terminated context reads as one (R369). -/
theorem State.terminate_terminated (c cause : Nat) : ((s.terminate c cause).ctx c).terminated = true := by
  unfold State.terminate
  extract_lets flights dies s1 s2 s3 s4 s5 s6 s7
  have ended : s7.ctxs = s5.ctxs := (State.foldl_kept (·.ctxs) State.armDie_ctxs dies s6).trans rfl
  rw [State.ctx, State.raise_ctxs, ended, ← State.ctx]
  exact congrArg CtxS.terminated (State.setCtx_ctx ..)

/-- After a part fault the part is faulted, whether it was before or not (R370). -/
theorem State.partFaulted_partFault : s.partFaulted.boot.partFault = true := by
  unfold State.partFaulted
  split
  · next already => exact already
  · exact congrArg BootS.partFault (State.raise_boot ..)

variable {s} (ready : s.boot.phase = .ready)
include ready

theorem exec_ctxStructUe (c : BitVec 6) (works : s.boot.partFault = false) (live : (s.ctx c.toNat).terminated = false) :
    exec (.ctxStructUe c) s = .next (s.terminate c.toNat 2) := by
  have row : exec (.ctxStructUe c) s = execCtxStructUe c s := rfl
  rw [row, execCtxStructUe, if_neg (by simp [ready, works, live])]

theorem exec_partStructUe : exec .partStructUe s = .next s.partFaulted := by
  have row : exec .partStructUe s = execPartStructUe s := rfl
  rw [row, execPartStructUe, if_neg (by simp [ready])]

theorem exec_dieLinkLoss {l : BitVec 5} (here : s.hasLink l.toNat = true) :
    exec (.dieLinkLoss l) s = .next s.partFaulted := by
  have row : exec (.dieLinkLoss l) s = execDieLinkLoss l s := rfl
  rw [row, execDieLinkLoss, if_neg (by simp [here]), if_neg (by simp [ready])]

theorem exec_cpHeartbeatTimeout {d : BitVec 3} (here : inRange d.toNat s.dies = true) :
    exec (.cpHeartbeatTimeout d) s = .next s.partFaulted := by
  have row : exec (.cpHeartbeatTimeout d) s = execCpHeartbeatTimeout d s := rfl
  rw [row, execCpHeartbeatTimeout, if_neg (by simp [here]), if_neg (by simp [ready])]

end

/-- Settles O46: the rows by termination and the part fault they end in, the history store by what one failure does to its
records. -/
theorem faultsEndWork : Obligations.FaultsEndWork := by
  unfold Obligations.FaultsEndWork
  refine ⟨fun s ready => ⟨fun c works live => ⟨_, exec_ctxStructUe ready c works live, s.terminate_terminated _ _⟩,
      ⟨_, exec_partStructUe ready, s.partFaulted_partFault⟩,
      fun l here => ⟨_, exec_dieLinkLoss ready here, s.partFaulted_partFault⟩,
      fun d here => ⟨_, exec_cpHeartbeatTimeout ready here, s.partFaulted_partFault⟩⟩, fun s k i => ⟨?_, ?_, ?_⟩⟩
  · exact s.recordFailure_bounded k i
  · exact fun _ _ => s.recordFailure_keeps_permanent k i
  · exact fun _ => s.recordFailure_again k i

end Sys2Proof.Machine

namespace Sys2Proof.Machine
open Sys2Proof

/-! ### Alarm classes and the alarm logic (R376, R377, R379, R422) -/

/-- The alarm logic once a KEK load in progress is dropped (R379). -/
def SecS.loadDropped (x : SecS) : SecS :=
  if x.kekLoad.isNone then x else { x with kekLoad := none, kekState := if x.kek.isSome then 1 else 4 }

/-- The alarm logic once classes B and C have driven ALARM_N for 10 ms (R422). -/
def SecS.driven (x : SecS) (cl now : Nat) : SecS := if 2 ≤ cl then { x with alarmNUntil := some (now + 10000000) } else x

/-- The alarm logic once class C has erased the KEK (R377). -/
def SecS.kekErased (x : SecS) (cl : Nat) : SecS :=
  if cl = 3 then { x with kek := none, kekId := 0, kekState := 4, kekLoad := none } else x

/-- The alarm logic after the action of a class (R377, R379, R422). -/
def SecS.acted (x : SecS) (cl now : Nat) : SecS := (x.loadDropped.driven cl now).kekErased cl

section
variable (x : SecS) {cl : Nat} (now : Nat)

theorem SecS.loadDropped_active : x.loadDropped.active = x.active := by
  unfold SecS.loadDropped
  split <;> rfl

theorem SecS.loadDropped_kek : x.loadDropped.kek = x.kek := by
  unfold SecS.loadDropped
  split <;> rfl

theorem SecS.acted_active (cl : Nat) : (x.acted cl now).active = x.active := by
  rw [← x.loadDropped_active]
  unfold SecS.acted SecS.driven SecS.kekErased
  split <;> split <;> rfl

/-- Class C erases the KEK. -/
theorem SecS.acted_classC : (x.acted 3 now).kek = none ∧ (x.acted 3 now).kekState = 4 := ⟨rfl, rfl⟩

/-- Classes A and B leave the KEK. -/
theorem SecS.acted_kek (notC : cl ≠ 3) : (x.acted cl now).kek = x.kek := by
  rw [← x.loadDropped_kek]
  unfold SecS.acted SecS.driven SecS.kekErased
  rw [if_neg notC]
  split <;> rfl

/-- Classes B and C drive ALARM_N for 10 ms. -/
theorem SecS.acted_alarmN (loud : 2 ≤ cl) : (x.acted cl now).alarmNUntil = some (now + 10000000) := by
  unfold SecS.acted SecS.driven SecS.kekErased
  rw [if_pos loud]
  split <;> rfl

end

section
variable (s : State)

/-- The same but for the alarm logic. -/
def Lasting.withSec (l : Lasting) (x : SecS) : Lasting := { l with sec := x }

theorem State.withSec_lasting (x : SecS) : ({ s with sec := x } : State).lasting = s.lasting.withSec x := rfl

theorem State.dropKekLoad_lasting : s.dropKekLoad.lasting = s.lasting.withSec s.sec.loadDropped := by
  unfold State.dropKekLoad SecS.loadDropped
  split <;> rfl

theorem State.eraseKek_lasting : s.eraseKek.lasting = s.lasting.withSec (s.sec.kekErased 3) := rfl

/-- Of timebase, alarm logic, history store and management an alarm's action changes the alarm logic alone (R377). -/
theorem State.alarmAction_lasting (cl : Nat) :
    (s.alarmAction cl).lasting = s.lasting.withSec (s.sec.acted cl s.now) := by
  unfold State.alarmAction
  extract_lets s1 s2 e x s3 s4
  have dropped : s2.lasting = s.lasting.withSec s.sec.loadDropped := s1.dropKekLoad_lasting
  have erased : e.lasting = s.lasting.withSec s.sec.loadDropped := s2.eraseSession_lasting.trans dropped
  have driven : s3.lasting = s.lasting.withSec (s.sec.loadDropped.driven cl s.now) := by
    have sec : x = s.sec.loadDropped := congrArg Lasting.sec erased
    have now : s2.now = s.now := congrArg Lasting.timebase dropped
    subst s3
    clear_value x e s2
    unfold SecS.driven
    split
    · rw [State.withSec_lasting, erased, sec, now]
      rfl
    · exact dropped
  have sec : s3.sec = s.sec.loadDropped.driven cl s.now := congrArg Lasting.sec driven
  rw [State.raise_lasting]
  subst s4
  clear_value s3
  by_cases classC : cl = 3
  · subst classC
    rw [if_pos (beq_self_eq_true 3), State.eraseKek_lasting, driven, sec]
    rfl
  · rw [if_neg (by simp [classC]), driven, SecS.acted, SecS.kekErased, if_neg classC]

theorem State.alarmAction_sec (cl : Nat) : (s.alarmAction cl).sec = s.sec.acted cl s.now :=
  congrArg Lasting.sec (s.alarmAction_lasting cl)

theorem State.alarmAction_hist (cl : Nat) : (s.alarmAction cl).hist = s.hist :=
  congrArg Lasting.hist (s.alarmAction_lasting cl)

variable {s} {k : Nat}

/-- A watched sensor's alarm is logged, and then its class acts (R376, R377). -/
theorem State.alarm_watched (watched : s.sensorWatched k = true) (calm : s.sec.active.contains k = false) :
    s.alarm [k] = (s.logAlarm k).alarmAction (s.alarmClass k) := by
  have awake : s.boot.aon = true := by
    simp only [State.sensorWatched, Bool.and_eq_true] at watched
    obtain ⟨⟨-, awake⟩, -⟩ := watched
    exact awake
  rw [State.alarm_one awake, if_pos (by rw [watched, calm]; rfl)]

/-- The mesh's condition is noted while the always-on domain is in reset, when no sensor is watched (R425). -/
theorem State.alarm_asleep (asleep : s.boot.aon = false) :
    s.alarm [meshSensor] = { s with sec := { s.sec with meshDue := true } } := by
  have noted : s.noteMesh [meshSensor] = { s with sec := { s.sec with meshDue := true } } := if_pos (by simp [asleep])
  unfold State.alarm
  rw [noted]
  exact if_pos (by simp [State.sensorWatched, asleep])

theorem NatSet.contains_del (m : NatSet) (k j : Nat) : (NatSet.del m k).contains j = (m.contains j && j != k) := by
  rw [Bool.eq_iff_iff]
  simp [NatSet.del]

theorem exec_securityAlarm (s : State) (ks : List Nat) : exec (.securityAlarm ks) s = .next (s.alarm ks) := rfl

theorem exec_alarmRearm (s : State) (k : BitVec 3) : exec (.alarmRearm k) s
    = .next { s with sec := { s.sec with active := NatSet.del s.sec.active k.toNat } } := rfl

theorem exec_alarmNRelease {e : Nat} (low : s.sec.alarmNUntil = some e) (past : e ≤ s.now) :
    exec .alarmNRelease s = .next { s with sec := { s.sec with alarmNUntil := none } } := by
  have row : exec .alarmNRelease s = execAlarmNRelease s := rfl
  rw [row, execAlarmNRelease, low]
  exact if_neg (by simp [past])

end

/-! ### The KEK (R378, R379) -/

section
variable (s : State)

theorem State.raise_sec (code sev : Nat) (ctx : Option Nat) (o : Nat) (d : List W32) :
    (s.raise code sev ctx o d).sec = s.sec := congrArg Lasting.sec (s.raise_lasting ..)

/-- A load that fails leaves the KEK before it. -/
theorem State.kekFail_sec : s.kekFail.sec = { s.sec with kekState := 2, kekLoad := none } := State.raise_sec ..

variable {s}

/-- No load starts while a Class C condition persists. -/
theorem State.kekStart_classC (persists : s.classC = true) :
    s.kekStart = { s with sec := { s.sec with kekState := 4 } } := if_pos persists

theorem State.kekStart_bad (safe : s.classC = false)
    (bad : (s.reg .vwmKekAddr 0).toNat % 64 ≠ 0 ∨ 67108864 < (s.reg .vwmKekAddr 0).toNat + 256) :
    s.kekStart = s.kekFail :=
  (if_neg (by simp [safe])).trans (if_pos (by simpa using bad))

/-- An aligned blob within the admin region starts to load, and the KEK before it stays until the end. -/
theorem State.kekStart_loads (safe : s.classC = false) (aligned : (s.reg .vwmKekAddr 0).toNat % 64 = 0)
    (within : (s.reg .vwmKekAddr 0).toNat + 256 ≤ 67108864) :
    s.kekStart.sec.kekState = 3 ∧ s.kekStart.sec.kekLoad.isSome = true ∧ s.kekStart.sec.kek = s.sec.kek := by
  unfold State.kekStart
  rw [if_neg (by simp [safe])]
  extract_lets a
  rw [if_neg (by simp [aligned, within])]
  exact ⟨rfl, rfl, rfl⟩

theorem exec_vwmKekLoad (live : s.regLive .vwmKekCtrl = true) : exec .vwmKekLoad s = .next s.kekStart := by
  have row : exec .vwmKekLoad s = execVwmKekLoad s := rfl
  rw [row, execVwmKekLoad, if_pos live]

theorem exec_vwmKekErase (live : s.regLive .vwmKekCtrl = true) : exec .vwmKekErase s = .next s.eraseKek := by
  have row : exec .vwmKekErase s = execVwmKekErase s := rfl
  rw [row, execVwmKekErase, if_pos live]

theorem exec_kekLoadDone_bad {x : Nat} {n : W32} (load : s.sec.kekLoad = some (x, none, n)) :
    exec .kekLoadDone s = .next s.kekFail := by
  have row : exec .kekLoadDone s = execKekLoadDone s := rfl
  rw [row, execKekLoadDone, load]

/-- A blob that unwraps gives the KEK and its key_id (R379). -/
theorem exec_kekLoadDone {x : Nat} {k : BitVec 256} {n : W32} (load : s.sec.kekLoad = some (x, some k, n)) :
    ∃ t, exec .kekLoadDone s = .next t
      ∧ t.sec = { s.sec with kek := some k, kekId := n, kekState := 1, kekLoad := none } := by
  have row : exec .kekLoadDone s = execKekLoadDone s := rfl
  rw [row, execKekLoadDone, load]
  exact ⟨_, rfl, State.raise_sec ..⟩

end

/-! ### Maintenance (R374) -/

/-- The request carries the key whose hash is fused and its signature of the unit (R374, R377). -/
def maintenanceValid (k : BitVec 4) (i : BitVec 24) (key sig : List Byte) : Bool :=
  sha384 key == Config.fusedKeyHash && ecdsaVerify key (sha384 (leBytes 4 (k.toNat * 2 ^ 28 + i.toNat))) sig

section
variable (s : State)

/-- The part without a permanent record of a unit (R374). -/
def State.forget (kind index : Nat) : State := { s with hist := { s.hist with
  faults := s.hist.faults.filter fun r => !(r.isOf kind index && r.permanent) } }

theorem State.forget_permanent (kind index : Nat) : (s.forget kind index).permanent kind index = false := by
  rw [State.permanent_eq, State.forget, List.any_filter, List.any_eq_false]
  exact fun r _ => by rw [Bool.not_and_self]; nofun

variable {s}

theorem exec_signedMaintenanceRequest (awake : s.boot.aon = true) (running : s.mgmt.running = true) (k : BitVec 4)
    (i : BitVec 24) (key sig : List Byte) : exec (.signedMaintenanceRequest k i key sig) s
      = .next (if maintenanceValid k i key sig = true then s.forget k.toNat i.toNat else s) := by
  have row : exec (.signedMaintenanceRequest k i key sig) s = execSignedMaintenanceRequest k i key sig s := rfl
  have valid : (s.boot.aon && s.mgmt.running && sha384 key == Config.fusedKeyHash
      && ecdsaVerify key (sha384 (leBytes 4 (k.toNat * 2 ^ 28 + i.toNat))) sig) = maintenanceValid k i key sig := by
    rw [awake, running, Bool.true_and, Bool.true_and, maintenanceValid]
  rw [row, execSignedMaintenanceRequest]
  extract_lets msg
  rw [valid, apply_ite Host.Outcome.next]
  rfl

end

/-- Settles O47: an alarm by what its class does to the alarm logic, the KEK's rows by its states, maintenance by the record
that it erases. -/
theorem alarmAndKeyRowsRun : Obligations.AlarmAndKeyRowsRun := by
  unfold Obligations.AlarmAndKeyRowsRun
  intro s
  refine ⟨fun k watched calm => ⟨_, exec_securityAlarm s [k], ?alarm⟩, fun asleep => ?mesh,
    fun k => ⟨_, exec_alarmRearm s k, ?rearmed, fun j hj => ?others⟩, fun e low past => exec_alarmNRelease low past,
    fun ready placed => ?kek, fun x k n load => ?loaded, fun x n load => ?unwrapFails,
    fun k i key sig awake running => ⟨_, exec_signedMaintenanceRequest awake running k i key sig, ?maintenance⟩⟩
  case alarm =>
    rw [State.alarm_watched watched calm, State.alarmAction_sec, State.alarmAction_hist]
    exact ⟨SecS.acted_active .., rfl, fun c => c ▸ SecS.acted_classC .., fun notC => SecS.acted_kek _ _ notC,
      fun loud => SecS.acted_alarmN _ _ loud⟩
  case mesh => rw [← State.alarm_asleep asleep]; rfl
  case rearmed => exact (NatSet.contains_del ..).trans (by simp)
  case others => exact (NatSet.contains_del ..).trans (by simp [hj])
  case kek =>
    have live := State.regLive_of_ready ready placed .vwmKekCtrl
    refine ⟨⟨_, exec_vwmKekErase live, rfl, rfl, rfl⟩, fun persists => ⟨_, exec_vwmKekLoad live, ?_⟩,
      fun safe aligned within => ⟨_, exec_vwmKekLoad live, State.kekStart_loads safe aligned within⟩,
      fun safe bad => ⟨_, exec_vwmKekLoad live, ?_⟩⟩
    · rw [State.kekStart_classC persists]
      exact ⟨rfl, rfl⟩
    · rw [State.kekStart_bad safe bad, State.kekFail_sec]
      exact ⟨rfl, rfl⟩
  case loaded =>
    obtain ⟨t, done, sec⟩ := exec_kekLoadDone load
    exact ⟨t, done, by rw [sec], by rw [sec], by rw [sec]⟩
  case unwrapFails =>
    exact ⟨_, exec_kekLoadDone_bad load, by rw [State.kekFail_sec], by rw [State.kekFail_sec]⟩
  case maintenance =>
    change _ = (_ && !maintenanceValid k i key sig) ∧ _
    cases maintenanceValid k i key sig
    · exact ⟨(Bool.and_true _).symm, rfl, rfl, rfl⟩
    · exact ⟨(s.forget_permanent _ _).trans (Bool.and_false _).symm, rfl, rfl, rfl⟩

end Sys2Proof.Machine

namespace Sys2Proof.Machine
open Sys2Proof

/-! ### The queue of commands and the state after reset (R9, R407 to R409) -/

/-- A queue that is not empty gives its front to `exec`, which sees the queue's rest. -/
theorem step_of_front (s : State) (c : Instr) (rest : List Instr) (front : s.pending = c :: rest) :
    step s = exec c { s with pending := rest } := by rw [step, front]

/-- Settles O1: `c` is at the front of that queue. -/
theorem stepRunsFront : Obligations.StepRunsFront := by
  unfold Obligations.StepRunsFront
  exact fun c s => step_of_front { s with pending := c :: s.pending } c s.pending rfl

/-- A register's facts are the row of the maps at its own position. -/
theorem Reg.info_mem_regTable (r : Reg) : (r, r.info) ∈ regTable := by
  obtain ⟨⟨r', facts⟩, row, rfl⟩ : ∃ p, regTable[r.ctorIdx]? = some p ∧ p.1 = r := by
    have named := r.at_idx
    rwa [Reg.all, List.getElem?_map, Option.map_eq_some_iff] at named
  obtain ⟨inside, at_index⟩ := List.getElem?_eq_some_iff.1 row
  have own : r'.info = facts := by rw [Reg.info, List.drop_eq_getElem_cons inside, at_index]
  rw [own]
  exact List.mem_of_getElem? row

/-- After reset every register reads the reset value of its row. -/
theorem State.reset_reg (r : Reg) (i : Nat) : State.reset.reg r i = r.info.reset := regDefault_key r i

/-- Settles O3: the registers by the maps, everything else by the state that reset writes down. -/
theorem resetLeaves : Obligations.ResetLeaves := by
  unfold Obligations.ResetLeaves
  have sparse {α : Type} [DecidableEq α] (d : Nat → α) : Map.wf d [] := ⟨List.Pairwise.nil, nofun⟩
  refine ⟨sparse _, sparse _, rfl, rfl, rfl, rfl, rfl, rfl, rfl, rfl, rfl, rfl, rfl, rfl, rfl, fun _ => rfl, fun _ => rfl,
    fun _ => rfl, Reg.info_mem_regTable, State.reset_reg, fun i => ?_⟩
  simp only [State.reset_reg]
  decide

/-! ### The event log (R383, R391) -/

section
variable (s : State) (code sev : Nat) (ctx : Option Nat) (o n : Nat) (d : List W32)

/-- The new record is the last of the log, and what is dropped, so that 4,096 stay, is of the log before it. -/
theorem State.logEvent_log : (s.logEvent code sev ctx o n d).2.evt.log
    = s.evt.log.drop (s.evt.log.length + 1 - 4096) ++ [(s.logEvent code sev ctx o n d).1] := by
  simp only [State.logEvent, List.length_append, List.length_singleton]
  rw [List.drop_append_of_le_length (by omega)]

theorem State.logEvent_regs : (s.logEvent code sev ctx o n d).2.regs = (s.bump .vwmEvtSeq 0 1).regs := rfl

theorem State.logEvent_seq : (s.logEvent code sev ctx o n d).2.reg .vwmEvtSeq 0
    = Reg.cut .vwmEvtSeq (s.reg .vwmEvtSeq 0 + 1) := by
  rw [State.reg, State.logEvent_regs, ← State.reg, State.bump_eq, State.setReg_reg, BitVec.ofNat_eq_ofNat]

theorem State.logEvent_reg {r : Reg} (other : r ≠ .vwmEvtSeq) (k : Nat) :
    (s.logEvent code sev ctx o n d).2.reg r k = s.reg r k := by
  rw [State.reg, State.logEvent_regs, ← State.reg, State.bump_eq, s.setReg_reg_ne 0 k _ other]

end

/-- Settles O52: the log after an event is the latest 4,095 records before it and the new one. -/
theorem eventLogIsARing : Obligations.EventLogIsARing := by
  unfold Obligations.EventLogIsARing
  intro s code sev ctx o n d
  extract_lets r
  have log : r.2.evt.log = s.evt.log.drop (s.evt.log.length + 1 - 4096) ++ [r.1] := s.logEvent_log ..
  refine ⟨rfl, s.logEvent_seq .., ?last, ?bounded, fun room => ?grows, fun full => ?wraps,
    fun i k other => s.logEvent_reg _ _ _ _ _ _ other k⟩
  case last => rw [log, List.getLast?_concat]
  case bounded =>
    rw [log, List.length_append, List.length_drop, List.length_singleton]
    omega
  case grows => rw [log, Nat.sub_eq_zero_of_le room, List.drop_zero]
  case wraps => rw [log, full, Nat.add_sub_cancel_left, List.drop_one]

end Sys2Proof.Machine

namespace Sys2Proof.Machine
open Sys2Proof

/-! ### What an event leaves of the management side (R389, R391 to R393) -/

/-- From `s` to `t` the events that wait for the control core stand, and what has left on the management bindings stands
before what has been added. -/
structure State.Reported (s t : State) : Prop where
  held : t.evt.held = s.evt.held
  sent : s.out.mgmt <+: t.out.mgmt

namespace State.Reported
variable {s t u : State}

/-- No message has left. -/
theorem quiet (held : t.evt.held = s.evt.held) (out : t.out.mgmt = s.out.mgmt) : s.Reported t :=
  ⟨held, out ▸ List.prefix_rfl⟩

theorem refl (s : State) : s.Reported s := quiet rfl rfl

theorem trans (h : s.Reported t) (h' : t.Reported u) : s.Reported u :=
  ⟨h'.held.trans h.held, h.sent.trans h'.sent⟩

theorem ite (c : Prop) [Decidable c] (h : s.Reported t) (h' : s.Reported u) : s.Reported (if c then t else u) := by
  split
  · exact h
  · exact h'

end State.Reported

section
variable (s : State)

theorem State.sendMgmt_reported (x : EvtRec) : s.Reported (s.sendMgmt x) := by
  unfold State.sendMgmt
  split
  · exact ⟨rfl, List.prefix_append ..⟩
  · exact .refl s

/-- The overflow record is sent, once (R392). -/
theorem State.Reported.overflow {s t : State} (h : s.Reported t) (x : EvtRec) :
    s.Reported { t.sendMgmt x with evt := { t.evt with overflowSent := true } } :=
  ⟨h.held, (h.trans (t.sendMgmt_reported x)).sent⟩

theorem State.evtMsix_reported : s.Reported s.evtMsix := .ite _ (.quiet rfl rfl) (.quiet rfl rfl)

theorem State.logEvent_reported (code sev : Nat) (ctx : Option Nat) (o time : Nat) (d : List W32) :
    s.Reported (s.logEvent code sev ctx o time d).2 := by
  -- the log is named, so that no proof compares it with the log before
  obtain ⟨log, logged⟩ : ∃ log, (s.logEvent code sev ctx o time d).2
      = { (s.bump .vwmEvtSeq 0 1) with evt := { s.evt with log := log } } := ⟨_, rfl⟩
  rw [logged]
  exact .quiet rfl rfl

theorem State.hostRing_reported (x : EvtRec) : s.Reported (s.hostRing x).2 := by
  unfold State.hostRing
  split
  · exact .refl s
  · split
    · exact .quiet rfl rfl
    · refine .trans ?_ (State.evtMsix_reported _)
      exact .quiet rfl rfl

theorem State.evtOverflow_reported : s.Reported s.evtOverflow :=
  .ite _ (.refl s) ((s.logEvent_reported ..).overflow _)

theorem State.deliver_reported (code sev : Nat) (ctx : Option Nat) (o time : Nat) (d : List W32) :
    s.Reported (s.deliver code sev ctx o time d) := by
  unfold State.deliver
  extract_lets p h t
  have ring : s.Reported h.2 := (s.logEvent_reported ..).trans (p.2.hostRing_reported p.1)
  have sent : s.Reported t := .ite _ (ring.trans (h.2.sendMgmt_reported p.1)) ring
  exact .ite _ (sent.trans t.evtOverflow_reported) sent

variable (code sev : Nat) (ctx : Option Nat) (o : Nat) (d : List W32)

/-- An event, held, dropped or delivered, takes back no message. -/
theorem State.raise_sent : s.out.mgmt <+: (s.raise code sev ctx o d).out.mgmt := by
  unfold State.raise
  split
  · exact List.prefix_rfl
  · split
    · split <;> exact List.prefix_rfl
    · exact (s.deliver_reported ..).sent

variable {s}

/-- While the control core runs, an event joins none that wait. -/
theorem State.raise_held (runs : s.mgmt.restart = none) : (s.raise code sev ctx o d).evt.held = s.evt.held := by
  unfold State.raise
  split
  · rfl
  · rw [if_neg (by simp [runs])]
    exact (s.deliver_reported ..).held

@[simp] theorem State.raise_mgmt : (s.raise code sev ctx o d).mgmt = s.mgmt :=
  congrArg Lasting.mgmt (s.raise_lasting ..)

@[simp] theorem State.raise_queues : (s.raise code sev ctx o d).queues = s.queues := by rw [(s.raise_logged ..).frame]

@[simp] theorem State.raise_vigil : (s.raise code sev ctx o d).vigil = s.vigil := by rw [(s.raise_logged ..).frame]

end

/-! ### Answers (R386 to R388) -/

section
variable {s : State} {b : Binding}

theorem exec_pldmBaseRequest : exec (.pldmBaseRequest b) s = execPldmBaseRequest b s := rfl
theorem exec_mctpSetEndpointId (e : BitVec 8) : exec (.mctpSetEndpointId b e) s = execMctpSetEndpointId b e s := rfl
theorem exec_pldmMonitorRequest (r : MonReq) : exec (.pldmMonitorRequest b r) s = execPldmMonitorRequest b r s := rfl
theorem exec_pldmFwUpdate (r : FwReq) : exec (.pldmFwUpdate b r) s = execPldmFwUpdate b r s := rfl
theorem exec_pldmOemRequest (r : OemReq) : exec (.pldmOemRequest b r) s = execPldmOemRequest b r s := rfl
theorem exec_spdmRequest (r : SpdmReq) : exec (.spdmRequest b r) s = execSpdmRequest b r s := rfl
theorem exec_arpIcmpEchoRequest (f : NetFrame) : exec (.arpIcmpEchoRequest f) s = execArpIcmpEchoRequest f s := rfl

theorem State.answer_answers (answers : s.answersOn b = true) (f : State → State) : s.answer b f = .next (f s) :=
  if_pos answers

theorem State.answer_lost (silent : s.answersOn b = false) (f : State → State) : s.answer b f = .next s :=
  if_neg (by simp [silent])

/-- What `t` adds to `u` is a response on the binding, and the part's work stands. -/
def State.Responds (t u : State) (b : Binding) (bs : List Byte) : Prop :=
  t.out.mgmt = u.out.mgmt ++ [.response b bs] ∧ t.mem = u.mem ∧ t.flight = u.flight ∧ t.queues = u.queues
    ∧ t.pages = u.pages ∧ t.hist = u.hist

/-- A row that changes the management state and takes free values, and no more, responds. -/
theorem State.mgmtRespond_responds (m : MgmtS) (n : Nat) (bs : List Byte) :
    ({ s with mgmt := m, freeCount := n }.mgmtRespond b bs).Responds s b bs := ⟨rfl, rfl, rfl, rfl, rfl, rfl⟩

/-- An event that the row raises then leaves after the response. -/
theorem State.mgmtRespond_raise_first (m : MgmtS) (bs : List Byte) (code sev : Nat) (ctx : Option Nat) (o : Nat)
    (d : List W32) : (({ s with mgmt := m }.mgmtRespond b bs).raise code sev ctx o d).out.mgmt[s.out.mgmt.length]?
      = some (.response b bs) := by
  obtain ⟨events, sent⟩ := State.raise_sent ({ s with mgmt := m }.mgmtRespond b bs) code sev ctx o d
  rw [← sent]
  simp [State.mgmtRespond]

/-- Reading a sensor takes at most a free value. -/
theorem State.sensorReading_frame (s : State) (x : Sensor) :
    (s.sensorReading x).2 = { s with freeCount := (s.sensorReading x).2.freeCount } := by
  cases x with
  | thermal n =>
    simp only [State.sensorReading]
    split <;> rfl
  | current d =>
    simp only [State.sensorReading, State.nextFree]
    split <;> rfl
  | rail r => rfl
  | power => rfl

theorem exec_readSensor (answers : s.answersOn b = true) (n : BitVec 16) :
    ∃ t bs, exec (.pldmMonitorRequest b (.readSensor n)) s = .next t ∧ t.Responds s b bs ∧ t.regs = s.regs := by
  rw [exec_pldmMonitorRequest, execPldmMonitorRequest, State.answer_answers answers]
  dsimp only
  split
  · exact ⟨_, _, rfl, State.mgmtRespond_responds _ _ _, rfl⟩
  · rw [State.sensorReading_frame]
    exact ⟨_, _, rfl, State.mgmtRespond_responds _ _ _, rfl⟩

end

/-! ### Banks of management firmware (R389) -/

section
variable (m : MgmtS) (v : BitVec 16) (img : List Byte)

theorem MgmtS.writeIdle_bank : (m.writeIdle v img).bank = m.bank := by
  unfold MgmtS.writeIdle
  split <;> rfl

theorem MgmtS.writeIdle_verified : (m.writeIdle v img).verified = false := by
  unfold MgmtS.writeIdle
  split <;> rfl

theorem MgmtS.writeIdle_version : (m.writeIdle v img).version (!m.bank) = v := by
  unfold MgmtS.writeIdle
  cases m.bank <;> rfl

theorem MgmtS.writeIdle_image : (m.writeIdle v img).image (!m.bank) = img := by
  unfold MgmtS.writeIdle
  cases m.bank <;> rfl

/-- The bank that runs keeps its image. -/
theorem MgmtS.writeIdle_image_running : (m.writeIdle v img).image m.bank = m.image m.bank := by
  unfold MgmtS.writeIdle
  cases m.bank <;> rfl

end

section
variable {s : State}

theorem exec_fwVerify {b : Binding} (answers : s.answersOn b = true) (key sig : List Byte) :
    ∃ t, exec (.pldmFwUpdate b (.verify key sig)) s = .next t
      ∧ t.mgmt = { s.mgmt with verified := s.idleOk key sig } ∧ t.flight = s.flight ∧ t.queues = s.queues
      ∧ t.out.mgmt[s.out.mgmt.length]? = some (.response b (Config.mgmtBody (if s.idleOk key sig then 5 else 6))) := by
  rw [exec_pldmFwUpdate, execPldmFwUpdate, State.answer_answers answers]
  dsimp only
  cases s.idleOk key sig with
  | true => exact ⟨_, rfl, rfl, rfl, rfl, List.getElem?_concat_length⟩
  | false =>
    exact ⟨_, rfl, State.raise_mgmt .., State.raise_flight .., State.raise_queues .., State.mgmtRespond_raise_first ..⟩

theorem State.deliver_mgmt (code sev : Nat) (ctx : Option Nat) (o time : Nat) (d : List W32) :
    (s.deliver code sev ctx o time d).mgmt = s.mgmt := by rw [(s.deliver_logged ..).frame]

/-- The core runs, and nothing waits for it. -/
theorem State.coreRuns_mgmt : s.coreRuns.mgmt = { s.mgmt with restart := none, running := true } :=
  State.foldl_kept (·.mgmt) (fun _ _ => State.deliver_mgmt ..) _ _

theorem State.coreRuns_held : s.coreRuns.evt.held = [] :=
  State.foldl_kept (·.evt.held) (fun t _ => (t.deliver_reported ..).held) _ _

/-- The event that follows the start of a bank is delivered too. -/
theorem State.coreRuns_raise_held (code sev : Nat) (ctx : Option Nat) (o : Nat) (d : List W32) :
    (s.coreRuns.raise code sev ctx o d).evt.held = [] :=
  (State.raise_held _ _ _ _ _ (by rw [State.coreRuns_mgmt])).trans State.coreRuns_held

theorem State.coreRuns_raise_mgmt (code sev : Nat) (ctx : Option Nat) (o : Nat) (d : List W32) :
    (s.coreRuns.raise code sev ctx o d).mgmt = { s.mgmt with restart := none, running := true } :=
  (State.raise_mgmt ..).trans State.coreRuns_mgmt

theorem exec_mgmtFwBankStart {x : Nat} (restart : s.mgmt.restart = some x) (aon : s.boot.aon = true)
    (within : s.now ≤ x + 2000000000) : exec .mgmtFwBankStart s
      = .next (s.coreRuns.raise 0x0906 0 none anchorDie [(s.coreRuns.mgmt.version s.coreRuns.mgmt.bank).setWidth 32]) := by
  have row : exec .mgmtFwBankStart s = execMgmtFwBankStart s := rfl
  rw [row, execMgmtFwBankStart, restart]
  exact if_neg (by simp [aon, twoSeconds, Nat.not_lt.2 within])

theorem exec_mgmtFwStartTimeout {x : Nat} (restart : s.mgmt.restart = some x) (aon : s.boot.aon = true)
    (past : x + 2000000000 ≤ s.now) : exec .mgmtFwStartTimeout s
      = .next (({ s with mgmt := { s.mgmt with bank := !s.mgmt.bank } } : State).coreRuns.fwFail
          (s.mgmt.version s.mgmt.bank)) := by
  have row : exec .mgmtFwStartTimeout s = execMgmtFwStartTimeout s := rfl
  rw [row, execMgmtFwStartTimeout, restart]
  exact if_neg (by simp [aon, twoSeconds, Nat.not_lt.2 past])

/-! ### The SGMII port and the event ring's message (R388, R392) -/

/-- Without an address the port is silent. -/
theorem State.answersOn_sgmii_silent (unknown : s.address = none) : s.answersOn .sgmii = false := by
  simp [State.answersOn, unknown]

theorem exec_dhcpAddressAssign (a : W32) (aon : s.boot.aon = true) (running : s.mgmt.running = true)
    (free : s.hist.staticIp = none) :
    exec (.dhcpAddressAssign a) s = .next { s with mgmt := { s.mgmt with ip := some a } } :=
  if_pos (by simp [aon, running, free])

/-- A message goes out 10 µs after the last. -/
theorem State.evtMsix_ripe {x : Nat} (last : s.evt.msixLast = some x) (ripe : x + 10000 ≤ s.now) :
    s.evtMsix = { s with out := { s.out with msix := s.out.msix ++ [s.fld .vwmEvtCtrl 0 10 0] }
                         evt := { s.evt with msixLast := some s.now, msixDue := false } } :=
  if_pos (by simp [last, ripe])

theorem exec_evtMsixCoalesce {x : Nat} (due : s.evt.msixDue = true) (last : s.evt.msixLast = some x)
    (ripe : x + 10000 ≤ s.now) : exec .evtMsixCoalesce s = .next s.evtMsix :=
  if_pos (by simp [due, last, ripe])

end

/-- Settles O50: an answering binding by what each request adds, the banks by what the core's start delivers. -/
theorem managementAnswers : Obligations.ManagementAnswers := by
  unfold Obligations.ManagementAnswers
  refine ⟨fun s b => ⟨fun answers => ?answered, fun silent => ?lost⟩,
    fun s => ⟨fun answers => ?port, fun unknown f => ?noAddress,
      fun a aon running free => ⟨_, exec_dhcpAddressAssign a aon running free, ?address, rfl⟩,
      fun x restart aon => ⟨fun within => ⟨_, exec_mgmtFwBankStart restart aon within, ?starts⟩,
        fun past => ⟨_, exec_mgmtFwStartTimeout restart aon past, ?abandons⟩⟩,
      fun x due last ripe => ⟨_, exec_evtMsixCoalesce due last ripe, ?message⟩⟩⟩
  case answered =>
    have answer (f : State → State) : s.answer b f = .next (f s) := State.answer_answers answers f
    refine ⟨⟨_, exec_pldmBaseRequest.trans (answer _), State.mgmtRespond_responds _ _ _, rfl⟩,
      fun e => ⟨_, (exec_mctpSetEndpointId e).trans (answer _), State.mgmtRespond_responds _ _ _, rfl⟩,
      fun e => ⟨_, (exec_pldmMonitorRequest _).trans (answer _), State.mgmtRespond_responds _ _ _, rfl⟩,
      ⟨_, (exec_pldmMonitorRequest _).trans (answer _), State.mgmtRespond_responds _ _ _, rfl⟩, exec_readSensor answers,
      fun v img => ⟨_, (exec_pldmFwUpdate _).trans (answer _), State.mgmtRespond_responds _ _ _, MgmtS.writeIdle_bank ..,
        MgmtS.writeIdle_image .., MgmtS.writeIdle_version .., MgmtS.writeIdle_image_running ..,
        MgmtS.writeIdle_verified ..⟩,
      exec_fwVerify answers, fun verified => ?activates, fun refused => ?stays,
      fun r => ⟨_, (exec_pldmOemRequest r).trans (answer _), State.mgmtRespond_responds _ _ _, rfl⟩, fun r => ?spdm⟩
    case activates =>
      refine ⟨_, (exec_pldmFwUpdate _).trans ((answer _).trans (congrArg _ (if_pos verified))), ?_, rfl, rfl, rfl⟩
      exact State.mgmtRespond_responds _ _ _
    case stays =>
      refine ⟨_, (exec_pldmFwUpdate _).trans ((answer _).trans (congrArg _ (if_neg (by simp [refused])))), ?_, rfl⟩
      exact State.mgmtRespond_responds _ _ _
    case spdm =>
      refine ⟨_, (exec_spdmRequest r).trans (answer _), ?_⟩
      cases r <;> exact ⟨State.mgmtRespond_responds _ _ _, rfl⟩
  case lost =>
    have lose (f : State → State) : s.answer b f = .next s := State.answer_lost silent f
    exact ⟨exec_pldmBaseRequest.trans (lose _), fun r => (exec_pldmOemRequest r).trans (lose _),
      fun r => (exec_pldmFwUpdate r).trans (lose _), fun r => (exec_spdmRequest r).trans (lose _)⟩
  case port =>
    have answer (f : State → State) : s.answer .sgmii f = .next (f s) := State.answer_answers answers f
    exact ⟨⟨_, (exec_arpIcmpEchoRequest _).trans (answer _), rfl⟩,
      ⟨_, (exec_arpIcmpEchoRequest _).trans (answer _), rfl⟩,
      (exec_arpIcmpEchoRequest _).trans (answer _), fun p => (exec_arpIcmpEchoRequest _).trans (answer _)⟩
  case noAddress => exact (exec_arpIcmpEchoRequest f).trans (State.answer_lost (State.answersOn_sgmii_silent unknown) _)
  case address => rw [State.address, free]
  case starts =>
    rw [State.coreRuns_raise_mgmt]
    exact ⟨rfl, rfl, rfl, State.coreRuns_raise_held ..⟩
  case abandons =>
    rw [State.fwFail, State.coreRuns_raise_mgmt]
    exact ⟨rfl, rfl, rfl, State.coreRuns_raise_held ..⟩
  case message =>
    rw [State.evtMsix_ripe last ripe]
    exact ⟨rfl, rfl, rfl⟩

end Sys2Proof.Machine

namespace Sys2Proof.Machine
open Sys2Proof

/-! ### Vigil: examination and graphs (R400 to R404) -/

section
variable {s : State}

theorem exec_vigilExamine (q : BitVec 15) : exec (.vigilExamine q) s = execVigilExamine q s := rfl

/-- A queue of a ready part is examined once it is due. -/
theorem execVigilExamine_due {q : BitVec 15} (within : inRange q.toNat s.nQueues = true) (ready : s.boot.phase = .ready)
    (due : s.vigilDue q.toNat = true) : execVigilExamine q s =
      if (s.queueWait q.toNat).code = 0 then .next (s.setVigil q.toNat { VigilQ.none with last := s.now })
      else if (s.vigilOf q.toNat).same (s.vigilNow q.toNat) = false then .next (s.setVigil q.toNat (s.vigilNow q.toNat))
      else if (s.vigilOf q.toNat).suspect = true
          ∨ s.now < (s.vigilOf q.toNat).since + s.fld .vwmVigilCtrl 0 15 0 * 1000000 then
        .next (s.setVigil q.toNat { s.vigilOf q.toNat with last := s.now })
      else .next (s.suspectQueue q.toNat) := by
  simp [execVigilExamine, within, ready, due]

theorem execVigilExamine_early {q : BitVec 15} (within : inRange q.toNat s.nQueues = true)
    (early : s.vigilDue q.toNat = false) : execVigilExamine q s = .next s := by
  simp [execVigilExamine, within, early]

@[simp] theorem State.setVigil_vigilOf (q : Nat) (v : VigilQ) : (s.setVigil q v).vigilOf q = v := by
  simp [State.vigilOf, State.setVigil]

/-- A graph is noted under its id, and what Vigil holds of the queues stays. -/
theorem State.buildGraph_vigil (only : Option Nat) (id : W64) (follow : Option Nat) (trunc : Bool) :
    (s.buildGraph only id follow trunc).2.vigil.queues = s.vigil.queues
    ∧ (s.buildGraph only id follow trunc).2.vigil.ids = s.vigil.ids ++ [id] := by
  unfold State.buildGraph
  dsimp only
  rw [State.raise_vigil]
  exact ⟨rfl, rfl⟩

/-- An automatic graph leaves what Vigil holds of the queues. -/
theorem State.autoGraph_queues : s.autoGraph.vigil.queues = s.vigil.queues :=
  State.ite_kept (·.vigil.queues) rfl ((State.buildGraph_vigil ..).1)

theorem State.suspectQueue_suspect (q : Nat) : ((s.suspectQueue q).vigilOf q).suspect = true := by
  rw [State.vigilOf, State.suspectQueue, State.autoGraph_queues, State.raise_vigil,
    ← State.vigilOf, State.setVigil_vigilOf]

theorem exec_vigilFollowRequest (g : W64) (n : Nat) : exec (.vigilFollowRequest g n) s = execVigilFollowRequest g n s := rfl

end

/-- Settles O51: a snapshot as any packet whose checks pass, an examination by its four cases, a request by whether its
graph is built. -/
theorem vigilRowsRun : Obligations.VigilRowsRun := by
  unfold Obligations.VigilRowsRun
  refine fun s => ⟨fun h b dst n r ok => State.packet_guarded r ok _, fun q within ready => ?examined,
    fun g n aon running ready new => ⟨_, ?builds, ?noted, rfl⟩, fun g n built => ?known⟩
  case examined =>
    extract_lets v hang
    refine ⟨fun early => ?early, fun due => ?due⟩
    case early => rw [exec_vigilExamine, execVigilExamine_early within early]
    case due =>
      have row := (exec_vigilExamine q).trans (execVigilExamine_due within ready due)
      refine ⟨fun idle => ?idle, fun waits changed => ?changed, fun waits same marked => ?marked,
        fun waits same fresh long => ⟨?suspected, State.suspectQueue_suspect _⟩⟩
      case idle => rw [row, if_pos idle]
      case changed => rw [row, if_neg waits, if_pos changed]
      case marked => rw [row, if_neg waits, if_neg (by simp [v, same]), if_pos marked]
      case suspected =>
        rw [row, if_neg waits, if_neg (by simp [v, same]),
          if_neg (not_or.2 ⟨Bool.eq_false_iff.1 fresh, Nat.not_lt.2 long⟩)]
  case builds => exact (exec_vigilFollowRequest g n).trans (if_neg (by rw [aon, running, ready, new]; decide))
  case noted =>
    rw [(State.buildGraph_vigil ..).2]
    simp
  case known => exact (exec_vigilFollowRequest g n).trans (if_pos (by rw [built, Bool.or_true]))

end Sys2Proof.Machine
